-- ==== Sys2Proof/Word.lean ====
section
/-! DEFINITION. The word types of the CK4-384L (R3, R11, R73, R74) and their plainest arithmetic. -/

namespace Sys2Proof

/-- A sequencer register (R74), a dword of memory, an address while it is computed. -/
abbrev Word := BitVec 64

/-- A lane of a beat (R11), an instruction word (R73), a configuration word (R59). -/
abbrev Lane := BitVec 32

/-- A byte of memory. -/
abbrev Byte := BitVec 8

/-- A beat: 32 lanes of 32 bits, lane n at bits [32n+31:32n] (R3, R11). -/
abbrev Beat := BitVec 1024

/-- A 16-bit cause code, class in [15:12] and detail in [11:0] (R277); 0 is OK. -/
abbrev Cause := BitVec 16

/-- A 6-bit register code of Table 4.9. -/
abbrev Reg := BitVec 6

/-- Sign extension of an n-bit field to 64 bits, the `sx` of R58. -/
def sx {n : Nat} (v : BitVec n) : Word := v.signExtend 64

/-- Zero extension of an n-bit field to 64 bits, the `zx` of R58. -/
def zx {n : Nat} (v : BitVec n) : Word := v.zeroExtend 64

end Sys2Proof
end

