-- ==== Sys2Proof/Config.lean ====
section
/-! DEFINITION. What one part fixes (R12, R13, R15) and the values the manual leaves open, as constants without a body. -/

namespace Sys2Proof.Config

/-- Clusters of the package (R12). -/
def nClusters : Nat := 256

/-- Bytes of one HBM stack: 48 GiB (R15). -/
def stackBytes : Nat := 51539607552

/-- Limit of region %0000: 384 GiB (R241). -/
def hbmLimit : Nat := 412316860416

/-- Bytes of the scratchpad of a cluster (R13, R162). -/
def spadBytes : Nat := 524288

/-- Granules of a cluster's reorder pool (R13). -/
def poolGranules : Nat := 8192

/-- Items one hop of a channel holds (R169). -/
def hopItems : Nat := 4

/-- Items a completion handle holds (R182). -/
def completionItems : Nat := 16

/-- Commands an engine queue holds (R181), and packets a port queue holds (R170). -/
def queueDepth : Nat := 16

/-- Waiters of one NMU (R230). -/
def nmuWaiters : Nat := 1024

/-- Leaf-cache entries of a die, and pointer-cache entries of a level (R245). -/
def leafEntries : Nat := 4096
def ptrEntries : Nat := 64

/-- Lines of a cluster's instruction cache (R98, R13). -/
def icacheLines : Nat := 512

/-- Entries of a die's notice buffer (R214). -/
def noticeEntries : Nat := 64

/-- Entries of a die's Bramble queue (R216). -/
def brambleEntries : Nat := 4096

/-- Entries of a die's ERT cache (R288), and of a port's tile-entry cache (R249). -/
def ertCacheEntries : Nat := 1024
def tileEntries : Nat := 64

/-- Cycles of a QoS frame (R209). -/
def frameCycles : Nat := 4096

/-- Flit buffers of one virtual channel of a link (R206). -/
def linkFlits : Nat := 4

/-- NVMe queue pairs, and the entries of each (R325). -/
def queuePairs : Nat := 64
def pairDepth : Nat := 1024

/-- The firmware's bounce buffer on one stack, in bytes (R242). -/
def bounceStack : Nat := 8388608

/-- The number of this package within its domain. The manual gives each package a number and does not say which (R241):
one constant of the part. -/
opaque packageNumber : Nat

/-- A value the manual leaves open, one for each count (DESIGN CHOICE, log entry 12). -/
opaque freeWord : Nat → Word

/-- Whether a Falcon-1024 signature verifies over the object's bytes under the key of the fuses (R260). -/
opaque signatureValid : List Byte → List Byte → Bool

end Sys2Proof.Config
end

