-- ==== Sys2Proof/Machine/Cause.lean ====
section
/-! DEFINITION. The cause codes of Table 19.4 (R277), with the codes R299, R312 and R328 number in classes 7, 8 and $D. -/

namespace Sys2Proof.Machine.Cause

/-- Class 0. -/
def ok : Cause := 0x0000#16

/-! Class 1: configuration and connection faults (R63, R57). -/

def cfgSeq : Cause := 0x1001#16
def cfgSum : Cause := 0x1002#16
def cfgAddr : Cause := 0x1003#16
def cfgField : Cause := 0x1004#16
def cfgOp : Cause := 0x1005#16
def cfgStage : Cause := 0x1006#16
def cfgSrc : Cause := 0x1007#16
def cfgMode : Cause := 0x1008#16
def cfgRoute : Cause := 0x1009#16
def ordDesc : Cause := 0x1011#16
def ordRagged : Cause := 0x1012#16
def ordType : Cause := 0x1013#16
def ordCover : Cause := 0x1014#16
def ordRate : Cause := 0x1015#16
def ordSize : Cause := 0x1016#16
def ordStream : Cause := 0x1017#16

/-! Class 2: sequencer faults (R99, R161). -/

def seqIll : Cause := 0x2001#16
def seqBudget : Cause := 0x2002#16
def seqSpill : Cause := 0x2003#16
def seqQueue : Cause := 0x2004#16
def seqAlign : Cause := 0x2005#16
def seqPc : Cause := 0x2006#16
def seqSpad : Cause := 0x2007#16
def seqTensor : Cause := 0x2008#16
def seqChan : Cause := 0x2009#16
def seqTrap : Cause := 0x200A#16
def seqNoctx : Cause := 0x200B#16

/-! Class 3: stream statuses (R179, R183). -/

def strArg : Cause := 0x3001#16
def strSpad : Cause := 0x3002#16
def strBank : Cause := 0x3003#16
def strExcess : Cause := 0x3004#16
def strOverrun : Cause := 0x3005#16
def strFormat : Cause := 0x3006#16

/-! Class 4: translation faults (R254). -/

def xlateRange : Cause := 0x4001#16
def xlateNp : Cause := 0x4002#16
def xlateRsvd : Cause := 0x4003#16
def xlatePerm : Cause := 0x4004#16
def xlatePa : Cause := 0x4005#16

/-! Class 5: leases (R254). -/

def leaseOut : Cause := 0x5001#16
def leaseTensor : Cause := 0x5002#16
def leaseBusy : Cause := 0x5003#16

/-! Class 6: copy and matrix statuses (R183). -/

def cpArg : Cause := 0x6001#16
def cpEntry : Cause := 0x6002#16
def mxArg : Cause := 0x6003#16
def mxShort : Cause := 0x6004#16
def mxBand : Cause := 0x6005#16
def engCmd : Cause := 0x6006#16
def cancelled : Cause := 0x6007#16

/-! Class 7: experts (R299). -/

def ertSrc : Cause := 0x7001#16
def ertKey : Cause := 0x7002#16
def ertPin : Cause := 0x7003#16
def ertCfg : Cause := 0x7004#16

/-! Class 8: the tape (R312). -/

def tapeFull : Cause := 0x8001#16
def tapeEmpty : Cause := 0x8002#16
def tapeOrder : Cause := 0x8003#16
def tapeAcc : Cause := 0x8004#16
def tapeArg : Cause := 0x8005#16
def tapeLscale : Cause := 0x8006#16

/-! Class 9: synchronisation (R238). -/

def syncAddr : Cause := 0x9001#16
def syncCount : Cause := 0x9002#16
def syncPoison : Cause := 0x9003#16

/-! Class $A: uncorrectable errors (R99, R217, R242). -/

def errParity : Cause := 0xA001#16
def errLoop : Cause := 0xA002#16
def errBridge : Cause := 0xA003#16
def errEcc : Cause := 0xA004#16
def errHbm : Cause := 0xA005#16

/-! Classes $B, $C and $E: firmware and scheduling. -/

def secSig : Cause := 0xB001#16
def secVersion : Cause := 0xB002#16
def secFuse : Cause := 0xB003#16
def loadFormat : Cause := 0xB011#16
def loadHdr : Cause := 0xB012#16
def loadPlace : Cause := 0xB013#16
def fwCmd : Cause := 0xB021#16
def fwBist : Cause := 0xB022#16
def fwQueue : Cause := 0xB023#16
def killed : Cause := 0xC001#16
def preDenied : Cause := 0xC002#16
def monArg : Cause := 0xE001#16

/-! Class $D: the fabric (R328). -/

def coArg : Cause := 0xD001#16
def coMatch : Cause := 0xD002#16
def coPeer : Cause := 0xD003#16
def linkDown : Cause := 0xD004#16
def cxlPoison : Cause := 0xD005#16
def dxArg : Cause := 0xD006#16
def dxFormat : Cause := 0xD007#16
def dxCheck : Cause := 0xD008#16
def dxWindow : Cause := 0xD009#16
def dxOverrun : Cause := 0xD00A#16
def stoArg : Cause := 0xD00B#16
def stoIo : Cause := 0xD00C#16

/-- The class of a cause code: bits [15:12] (R277). -/
def classOf (c : Cause) : Nat := c.toNat / 4096

end Sys2Proof.Machine.Cause
end

