-- ==== Sys2Proof/Machine/Base.lean ====
section
/-! DEFINITION. Bytes, lanes and beats (R3); sparse tables with a default; memory as a canonical list of cells. -/

namespace Sys2Proof

/-! ## Lanes, subwords and bytes of a beat (R3) -/

/-- Lane n of a beat. -/
def Beat.lane (b : Beat) (n : Nat) : Lane := b.extractLsb' (32 * n) 32

/-- A beat from the values of its lanes; lanes the list lacks are zero. -/
def Beat.ofLanes (ls : List Lane) : Beat :=
  BitVec.ofNat 1024 (ls.foldr (fun l acc => acc * 4294967296 + l.toNat) 0)

/-- All 32 lanes of a beat, lane 0 first. -/
def Beat.lanes (b : Beat) : List Lane := (List.range 32).map (Beat.lane b)

/-- The beat with lane n replaced. -/
def Beat.setLane (b : Beat) (n : Nat) (v : Lane) : Beat :=
  (b &&& ~~~(BitVec.ofNat 1024 (4294967295 * 2 ^ (32 * n)))) ||| BitVec.ofNat 1024 (v.toNat * 2 ^ (32 * n))

/-- Dword j of a beat: bytes 8j to 8j+7 (R156). -/
def Beat.dword (b : Beat) (j : Nat) : Word := b.extractLsb' (64 * j) 64

/-- The beat with dword j replaced (R156). -/
def Beat.setDword (b : Beat) (j : Nat) (v : Word) : Beat :=
  (b &&& ~~~(BitVec.ofNat 1024 (18446744073709551615 * 2 ^ (64 * j)))) ||| BitVec.ofNat 1024 (v.toNat * 2 ^ (64 * j))

end Sys2Proof

namespace Sys2Proof.Machine

/-- The value of a little-endian byte string (R3). -/
def natOfBytes (bs : List Byte) : Nat := bs.foldr (fun b acc => acc * 256 + b.toNat) 0

/-- The n low bytes of a value, lowest first (R3). -/
def bytesOfNat : Nat → Nat → List Byte
  | 0, _ => []
  | n + 1, v => BitVec.ofNat 8 v :: bytesOfNat n (v / 256)

/-- Bits [lo+w-1:lo] of a number. -/
def bitsAt (v lo w : Nat) : Nat := v / 2 ^ lo % 2 ^ w

/-- Bit k of a number. -/
def bitAt (v k : Nat) : Bool := v / 2 ^ k % 2 == 1

/-- A value as a signed number of w bits. -/
def asSigned (v w : Nat) : Int := if 2 ^ (w - 1) ≤ v then (v : Int) - (2 ^ w : Nat) else (v : Int)

/-- The least multiple count: v/m rounded up. -/
def ceilDiv (v m : Nat) : Nat := (v + m - 1) / m

end Sys2Proof.Machine

namespace Sys2Proof

/-- The 128 bytes of a beat. -/
def Beat.toBytes (b : Beat) : List Byte := Machine.bytesOfNat 128 b.toNat

/-- The beat of a little-endian byte string. -/
def Beat.ofBytes (bs : List Byte) : Beat := BitVec.ofNat 1024 (Machine.natOfBytes bs)

end Sys2Proof

namespace Sys2Proof.Machine

/-! ## Sparse tables -/

/-- A table indexed by numbers; an index it does not list has the reader's default. Keys rise strictly. -/
abbrev SMap (α : Type) := List (Nat × α)

def SMap.find {α : Type} : SMap α → Nat → Option α
  | [], _ => none
  | (k, v) :: m, i => if k = i then some v else SMap.find m i

def SMap.get {α : Type} (m : SMap α) (d : α) (i : Nat) : α := (SMap.find m i).getD d

def SMap.set {α : Type} : SMap α → Nat → α → SMap α
  | [], i, v => [(i, v)]
  | (k, x) :: m, i, v =>
    if i < k then (i, v) :: (k, x) :: m
    else if i = k then (i, v) :: m
    else (k, x) :: SMap.set m i v

def SMap.del {α : Type} (m : SMap α) (i : Nat) : SMap α := m.filter (fun e => e.1 != i)

/-! ## Memory -/

/-- Byte cells in canonical form: addresses strictly rising, no cell holding what an unlisted address reads as. -/
abbrev Memory := List Host.Cell

/-- What an address that no cell lists reads as. DESIGN CHOICE (log entry 3): the manual gives no contents of memory
after power-on; scratchpad reads zero at a task's first access (R177). -/
def Memory.blank : Byte := 0#8

/-- The byte at an address. DESIGN CHOICE (log entry 3). -/
def Memory.readByte : Memory → Nat → Byte
  | [], _ => Memory.blank
  | (k, v) :: m, a => if k = a then v else Memory.readByte m a

/-- Writes one byte, keeping the canonical form. DESIGN CHOICE (log entry 3). -/
def Memory.writeByte : Memory → Nat → Byte → Memory
  | [], a, b => if b = Memory.blank then [] else [(a, b)]
  | (k, v) :: m, a, b =>
    if a < k then (if b = Memory.blank then (k, v) :: m else (a, b) :: (k, v) :: m)
    else if a = k then (if b = Memory.blank then m else (a, b) :: m)
    else (k, v) :: Memory.writeByte m a b

/-- Every cell lies above `lo` and strictly rising, and none reads as blank. -/
def Memory.sortedFrom : Nat → Memory → Bool
  | _, [] => true
  | lo, (k, v) :: m => decide (lo ≤ k) && (v != Memory.blank) && Memory.sortedFrom (k + 1) m

/-- The canonical form holds. DESIGN CHOICE (log entry 3). -/
def Memory.wf (m : Memory) : Bool := Memory.sortedFrom 0 m

/-- The n bytes from an address on. -/
def Memory.readBytes (m : Memory) : Nat → Nat → List Byte
  | 0, _ => []
  | n + 1, a => m.readByte a :: Memory.readBytes m n (a + 1)

/-- Writes bytes at rising addresses from a on. -/
def Memory.writeBytes (m : Memory) : Nat → List Byte → Memory
  | _, [] => m
  | a, b :: bs => Memory.writeBytes (m.writeByte a b) (a + 1) bs

/-- Copies n bytes from src to dst. -/
def Memory.copy (m : Memory) (src dst n : Nat) : Memory :=
  ((m.filter (fun c => decide (src ≤ c.1) && decide (c.1 < src + n))).foldl (fun m c => m.writeByte (dst + (c.1 - src)) c.2)
    (m.filter (fun c => !(decide (dst ≤ c.1) && decide (c.1 < dst + n)))))

/-- Every byte of a range reads as blank again. -/
def Memory.erase (m : Memory) (a n : Nat) : Memory := m.filter (fun c => !(decide (a ≤ c.1) && decide (c.1 < a + n)))

/-- The n-byte little-endian value at an address (R3). -/
def Memory.read (m : Memory) (n a : Nat) : Nat := natOfBytes (m.readBytes n a)

/-- Writes the n low bytes of a value little-endian (R3). -/
def Memory.write (m : Memory) (n a v : Nat) : Memory := m.writeBytes a (bytesOfNat n v)

/-- The beat at a byte address. -/
def Memory.readBeat (m : Memory) (a : Nat) : Beat := BitVec.ofNat 1024 (m.read 128 a)

/-- Writes a beat at a byte address. -/
def Memory.writeBeat (m : Memory) (a : Nat) (b : Beat) : Memory := m.write 128 a b.toNat

end Sys2Proof.Machine
end

