-- ==== Sys2Proof/Machine/Order.lean ====
section
/-! DEFINITION. Element types (R18) and order descriptors (R44 to R51): their fields, the map from elements to beats, lanes
and subwords, and the size of a Medlar store. -/

namespace Sys2Proof.Machine

/-! ## Element types (Table 2.1) -/

/-- Bits of an element in memory. -/
def tyBits (ty : Nat) : Nat :=
  [32, 16, 16, 8, 8, 4, 8, 16, 32, 8, 16, 4, 10, 12, 14, 8].getD ty 32

/-- Bits of an element in a lane: pixels are unpacked to 16. -/
def tyWidth (ty : Nat) : Nat := if 12 ≤ ty ∧ ty ≤ 14 then 16 else tyBits ty

/-- The packing factor P: elements of one lane. -/
def tyPack (ty : Nat) : Nat := 32 / tyWidth ty

/-! ## Descriptors -/

/-- Where an axis places its digit (Table 3.2). -/
inductive Place where
  | lane
  | sub
  | beat
  deriving DecidableEq, Repr

/-- One axis of an order, innermost first in its list (R44). -/
structure Axis where
  ext : Nat
  place : Place
  dim : Nat
  deriving DecidableEq, Repr

/-- An order descriptor (Table 3.1). -/
structure Order where
  ty : Nat
  rag : Bool
  axes : List Axis
  deriving DecidableEq, Repr

/-- The 20-bit entry of axis k. -/
def orderEntry (v k : Nat) : Nat := bitsAt v (8 + 20 * k) 20

/-- The placement of a code; %11 is reserved. -/
def placeOf (c : Nat) : Option Place :=
  match c with
  | 0 => some .lane
  | 1 => some .sub
  | 2 => some .beat
  | _ => none

/-- An axis entry in use (R45): DIM at most 5, PLACE not %11, bits [19:18] zero. -/
def axisOf (e : Nat) : Option Axis :=
  match placeOf (bitsAt e 3 2) with
  | some p => if bitsAt e 18 2 = 0 ∧ bitsAt e 0 3 ≤ 5 then some { ext := bitsAt e 5 13 + 1, place := p, dim := bitsAt e 0 3 } else none
  | none => none

/-- The product of the extents of the axes placed at p; 1 with none. -/
def Order.prod (o : Order) (p : Place) : Nat :=
  (o.axes.filter (fun a => a.place == p)).foldl (fun n a => n * a.ext) 1

/-- S: subwords of one lane that carry an element. -/
def Order.s (o : Order) : Nat := o.prod .sub
/-- L: lanes that carry an element. -/
def Order.l (o : Order) : Nat := o.prod .lane
/-- T: beats of a period (R48). -/
def Order.t (o : Order) : Nat := o.prod .beat
/-- E: elements of one beat (R46). -/
def Order.e (o : Order) : Nat := o.s * o.l

/-- Rank of a placement in the sequence of R45. -/
def placeRank : Place → Nat
  | .sub => 0
  | .lane => 1
  | .beat => 2

/-- The axes stand in the sequence subword, lane, beat (R45). -/
def axesSorted : List Axis → Bool
  | a :: b :: as => decide (placeRank a.place ≤ placeRank b.place) && axesSorted (b :: as)
  | _ => true

/-- The well-formedness of R45, over the 128-bit value. -/
def orderOf (v : Nat) : Option Order :=
  let nax := bitsAt v 4 3
  let used := (List.range nax).map (fun k => axisOf (orderEntry v k))
  let rest := (List.range (6 - nax)).map (fun k => orderEntry v (nax + k))
  match used.mapM id with
  | none => none
  | some axes =>
    let o : Order := { ty := bitsAt v 0 4, rag := bitAt v 7, axes := axes }
    if 1 ≤ nax ∧ nax ≤ 6 ∧ rest.all (· == 0) ∧ axesSorted axes ∧ o.s ≤ tyPack o.ty ∧ o.l ≤ 32 ∧ o.t ≤ 65536 then some o else none

/-- The outermost axis, the last of the list. -/
def Order.outer (o : Order) : Option Axis := o.axes.getLast?

/-- The placement rule of a ragged axis (R49). -/
def Order.ragOk (o : Order) : Bool :=
  !o.rag || match o.outer with
    | some a => a.place == .beat && (o.axes.filter (fun b => b.dim == a.dim)).length == 1
    | none => false

/-- The declared maximum of the ragged axis (R49); 1 without one. -/
def Order.nmax (o : Order) : Nat := if o.rag then (o.outer.map (·.ext)).getD 1 else 1

/-- B: the beats of one block (R49), those that share one value of the ragged coordinate. -/
def Order.block (o : Order) : Nat := o.t / o.nmax

/-- The order of a port whose descriptor is not declared, one FP32 element a beat: what a channel end takes before its
partner's order is known (R66). -/
def Order.blank : Order := { ty := 0, rag := false, axes := [{ ext := 1, place := .lane, dim := 0 }] }

/-- The order with another element type. -/
def Order.withTy (o : Order) (ty : Nat) : Order := { o with ty := ty }

/-! ## The map of R46 -/

/-- The tile extent along a dimension (R46). -/
def Order.extent (o : Order) (d : Nat) : Nat :=
  (o.axes.filter (fun a => a.dim == d)).foldl (fun n a => n * a.ext) 1

/-- The tile extents in all six dimensions. -/
def Order.extents (o : Order) : List Nat := (List.range 6).map o.extent

/-- Two orders cover the same elements (R48). -/
def Order.sameSet (o p : Order) : Bool := o.extents == p.extents

/-- A list with entry k replaced by f of it. -/
def listModify {α : Type} (f : α → α) : Nat → List α → List α
  | _, [] => []
  | 0, x :: xs => f x :: xs
  | k + 1, x :: xs => x :: listModify f k xs

/-- The coordinates of the element at subword s, lane l and beat t: each axis takes the next digit of its placement's
number and gives it, at its dimension's weight, to the coordinate. -/
def coordsFrom : List Axis → Nat → Nat → Nat → List Nat → List Nat → List Nat
  | [], _, _, _, _, cs => cs
  | a :: as, s, l, t, ws, cs =>
    let put := fun digit => listModify (· + digit * ws.getD a.dim 1) a.dim cs
    let ws' := listModify (· * a.ext) a.dim ws
    match a.place with
    | .sub => coordsFrom as (s / a.ext) l t ws' (put (s % a.ext))
    | .lane => coordsFrom as s (l / a.ext) t ws' (put (l % a.ext))
    | .beat => coordsFrom as s l (t / a.ext) ws' (put (t % a.ext))

/-- The coordinates within the tile of the element at (beat t, lane l, subword s). -/
def Order.coords (o : Order) (t l s : Nat) : List Nat :=
  coordsFrom o.axes s l t (List.replicate 6 1) (List.replicate 6 0)

/-- The position of an element: beat, lane and subword. -/
structure Pos where
  t : Nat
  l : Nat
  s : Nat
  deriving DecidableEq, Repr

/-- The position of the element with the coordinates cs. -/
def posFrom : List Axis → List Nat → Nat → Nat → Nat → Pos → Pos
  | [], _, _, _, _, p => p
  | a :: as, cs, wt, wl, ws, p =>
    let digit := cs.getD a.dim 0 % a.ext
    let cs' := listModify (· / a.ext) a.dim cs
    match a.place with
    | .sub => posFrom as cs' wt wl (ws * a.ext) { p with s := p.s + digit * ws }
    | .lane => posFrom as cs' wt (wl * a.ext) ws { p with l := p.l + digit * wl }
    | .beat => posFrom as cs' (wt * a.ext) wl ws { p with t := p.t + digit * wt }

/-- The beat, lane and subword of an element (R46). -/
def Order.pos (o : Order) (cs : List Nat) : Pos := posFrom o.axes cs 1 1 1 { t := 0, l := 0, s := 0 }

/-- The positions of one beat that carry an element, lane by lane and subword by subword. -/
def Order.cells (o : Order) : List (Nat × Nat) :=
  (List.range o.l).flatMap (fun l => (List.range o.s).map (fun s => (l, s)))

/-- All elements of a period as positions of o. -/
def Order.elements (o : Order) : List Pos :=
  (List.range o.t).flatMap (fun t => o.cells.map (fun c => { t := t, l := c.1, s := c.2 }))

/-- Both orders map every element to one beat, lane and subword (R50, test 4). -/
def Order.samePlaces (o p : Order) : Bool :=
  o.elements.all (fun x => p.pos (o.coords x.t x.l x.s) == x)

/-! ## The store of R51 -/

/-- For each element its producer beat and its consumer beat. -/
def beatPairs (op oc : Order) : List (Nat × Nat) :=
  op.elements.map (fun x => (x.t, (oc.pos (op.coords x.t x.l x.s)).t))

/-- The start offset: max (tP − tC) + 1 (R51). -/
def storeDelta (ps : List (Nat × Nat)) : Nat := ps.foldl (fun m p => Nat.max m (p.1 + 1 - p.2)) 1

/-- The pairs (period, element) resident at a cycle c once periods overlap fully: those whose interval
[pT + tP + 1, pT + tC + δ] holds c, c large. -/
def storeOcc (ps : List (Nat × Nat)) (t delta c : Nat) : Nat :=
  ps.foldl (fun n p => n + ((c - p.1 - 1) / t - (c - p.2 - delta - 1) / t)) 0

/-- K: the maximum occupancy (R51). The occupancy repeats with the period once it is full, and before that fewer periods
overlap. -/
def storeK (ps : List (Nat × Nat)) (t delta : Nat) : Nat :=
  ((List.range t).map (fun r => storeOcc ps t delta (r + 4 * t + delta))).foldl Nat.max 0

/-- Granules of 16 bytes for K elements of a type (R51). -/
def storeGranules (k ty : Nat) : Nat := ceilDiv (k * tyWidth ty) 128

end Sys2Proof.Machine
end

