-- ==== Sys2Proof/Syntax.lean ====
section
/-! DEFINITION. The instructions and steps of spec/opcode_table.json: one constructor for each row. -/

namespace Sys2Proof

/-- The operand fields of an engine command, the E-form of R73 as R180 lays it out. `cs` is the class-specific bits [10:0]. -/
structure EOps where
  a : Reg
  b : Reg
  handle : BitVec 4
  c : Reg
  d : Reg
  cmpl : Bool
  tag : BitVec 8
  cs : BitVec 11
  deriving DecidableEq, Repr

/-- What another package's access does to this package's memory, and what this package meets of that one's (R319, R323, R324). A gang is named
by its domain key and object, and its rank. -/
inductive RemoteOp where
  /-- a read of n bytes; nothing of this package changes -/
  | read (n : Nat)
  /-- a write of bytes -/
  | write (bytes : List Byte)
  /-- the add of a remote `sem.sig` -/
  | sig (v : Word)
  /-- the bytes that the other package's HBM holds at a region-%0001 address, as its own accesses have left them -/
  | holds (bytes : List Byte)
  /-- a write of a `co.put`, or with `repl` one record of it, at a virtual address of a gang -/
  | put (key : Word) (objid : Lane) (rank va : Nat) (repl : Bool) (bytes : List Byte)
  /-- a read of a `co.get` at a virtual address of a gang, and the add of a `co.sig` there -/
  | get (key : Word) (objid : Lane) (rank va n : Nat)
  | coSig (key : Word) (objid : Lane) (rank va : Nat) (v : Word)
  /-- an arrival at, or a drop from, a barrier that spans the packages of a task (R232, R233) -/
  | arrive (key : Word) (objid : Lane) (idx level n : Nat)
  | drop (key : Word) (objid : Lane) (idx : Nat) (last : Word)
  /-- an actor there that has joined such a barrier has ended other than by `aexit` (R234) -/
  | poison (key : Word) (objid : Lane) (idx : Nat)
  /-- a member's k-th collective command with an ID, under its task's domain key and object, with its source bytes (R321) -/
  | collective (key : Word) (objid id : Lane) (k : Nat) (rank : Nat) (typ op n s : Nat) (src : List Byte)
  deriving DecidableEq, Repr

/-- What THROTTLE measures (R267): the coolant's inlet in tenths of a degree, its flow in millilitres a minute, and the module's draw in
watts. -/
structure Measure where
  inlet : Nat
  flow : Nat
  draw : Nat
  deriving DecidableEq, Repr

/-- One constructor for each row of spec/opcode_table.json. The first part are the words a sequencer fetches; the rest are
the steps of the other agents, each naming its unit by number, and the firmware commands. -/
inductive Instr where
  /- ALU, A-form major $00 (R139) -/
  | add (d a b : Reg) | sub (d a b : Reg) | mul (d a b : Reg) | mulh (d a b : Reg) | mulhu (d a b : Reg)
  | div (d a b : Reg) | divu (d a b : Reg) | rem (d a b : Reg) | remu (d a b : Reg)
  | and (d a b : Reg) | or (d a b : Reg) | xor (d a b : Reg) | andn (d a b : Reg)
  | shl (d a b : Reg) | shr (d a b : Reg) | sar (d a b : Reg) | rol (d a b : Reg)
  | min (d a b : Reg) | minu (d a b : Reg) | max (d a b : Reg) | maxu (d a b : Reg)
  | slt (d a b : Reg) | sltu (d a b : Reg) | seq (d a b : Reg) | sne (d a b : Reg)
  | clz (d a : Reg) | ctz (d a : Reg) | popc (d a : Reg) | sel (d a b : Reg) | mov (d a : Reg) | neg (d a : Reg)
  /- immediate forms, I-form (R140) -/
  | addi (d a : Reg) (i : BitVec 14) | andi (d a : Reg) (i : BitVec 14) | ori (d a : Reg) (i : BitVec 14)
  | xori (d a : Reg) (i : BitVec 14) | shli (d a : Reg) (s : BitVec 6) | shri (d a : Reg) (s : BitVec 6)
  | sari (d a : Reg) (s : BitVec 6) | slti (d a : Reg) (i : BitVec 14) | sltiu (d a : Reg) (i : BitVec 14)
  | lui (d : Reg) (i : BitVec 14) | bfx (d a : Reg) (x : Bool) (l p : BitVec 6) | bfi (d a : Reg) (l p : BitVec 6)
  /- control flow (R141-R145) -/
  | beq (a b : Reg) (o : BitVec 14) | bne (a b : Reg) (o : BitVec 14) | blt (a b : Reg) (o : BitVec 14)
  | bge (a b : Reg) (o : BitVec 14) | bltu (a b : Reg) (o : BitVec 14) | bgeu (a b : Reg) (o : BitVec 14)
  | loop (a : Reg) (o : BitVec 14) | jmp (o : BitVec 26) | jal (o : BitVec 26) | jr (d a : Reg)
  | fend | aexit
  /- memory (R146-R151) -/
  | ldb (d a : Reg) (i : BitVec 14) | ldh (d a : Reg) (i : BitVec 14) | ldw (d a : Reg) (i : BitVec 14)
  | ldd (d a : Reg) (i : BitVec 14) | stb (d a : Reg) (i : BitVec 14) | sth (d a : Reg) (i : BitVec 14)
  | stw (d a : Reg) (i : BitVec 14) | std (d a : Reg) (i : BitVec 14)
  | lds (d a : Reg) (i : BitVec 14) | sts (d a : Reg) (i : BitVec 14) | ldt (d a b : Reg)
  | pushm (d a : Reg) | popm (d a : Reg) | pf (a : Reg) (i : BitVec 14)
  /- channels, tokens and queues, C-form major $30 (R152-R159) -/
  | cbw (d : Reg) (h : BitVec 4) (n : BitVec 8) | cbf (d : Reg) (h : BitVec 4) (n : BitVec 8)
  | cbadv (h : BitVec 4) (n : BitVec 8) | cbpub (h : BitVec 4) (n : BitVec 8)
  | cbld (d : Reg) (h i j : BitVec 4) | cbst (d : Reg) (h i j : BitVec 4)
  | tokEos (h : BitVec 4) (k : BitVec 2) | tokBnd (d : Reg) (h : BitVec 4)
  | tokCtl (k : Bool) (a : BitVec 5) | qbind (q : Reg) (n : BitVec 8)
  /- fences, semaphores, barriers, atomics (R222-R237) -/
  | fenceScope (s : BitVec 2) | xfence (p : BitVec 8) (s : BitVec 2)
  | semSig (a b : Reg) | semWge (a b : Reg) | semRd (d a : Reg)
  | gbarArr (d a b : Reg) | gbarWait (a b : Reg) | gbarDrop (a : Reg)
  | amo (d a b : Reg) (o t : BitVec 4) | red (a b : Reg) (o t : BitVec 4) | cas (d a b : Reg) (t : BitVec 4)
  | pst (d a b : Reg)
  /- differentiable mode and the tape (R308, R309) -/
  | dmode (a : Reg) | tapeBase (a b : Reg) | tapeLim (a : Reg) | tapeMark (d a : Reg) | tapeRd (d a : Reg)
  /- experts (R298) -/
  | ertQ (d a : Reg) | ertPin (a : Reg) | ertUnpin (a : Reg) | ertFetch (a b : Reg) | ertEvict (a : Reg)
  /- system (R263, R278-R285) -/
  | trap (a : Reg) | eret | csrr (d : Reg) (c : BitVec 6) | csrw (a : Reg) (c : BitVec 6)
  | icinv (a b : Reg) | tlbinv (a b : Reg) | ldtsc (d : Reg) | tkill (a : Reg) | nop | halt
  /- long immediates, L-form (R160) -/
  | li (d : Reg) (c : BitVec 44) | lih (d : Reg) (i : BitVec 20) | addli (d : Reg) (c : BitVec 44)
  /- engine commands, E-form (R180, R320) -/
  | strM2s (e : EOps) | strS2p (e : EOps) | strM2p (e : EOps) | strP2m (e : EOps) | strP2s (e : EOps) | strS2m (e : EOps)
  | strM2pBm (e : EOps) | strP2mBm (e : EOps) | strInd (e : EOps) | strSct (e : EOps) | strCst (e : EOps) | strRec (e : EOps)
  | sbarSr (e : EOps) | sbarSw (e : EOps) | sbarM (e : EOps) | sbarAll (e : EOps)
  | cp (e : EOps) | cpMx (e : EOps) | cpS (e : EOps)
  | mxLd (e : EOps) | mxMmaBf16 (e : EOps) | mxMmaF16 (e : EOps) | mxMmaE4m3 (e : EOps) | mxMmaE5m2 (e : EOps)
  | mxMmaE2m1 (e : EOps) | mxMmaI8 (e : EOps) | mxMmaI16 (e : EOps) | mxSt (e : EOps) | mxZero (e : EOps)
  | coA2a (e : EOps) | coAg (e : EOps) | coRs (e : EOps) | coAr (e : EOps) | coPut (e : EOps) | coGet (e : EOps) | coSig (e : EOps)
  | dxInflate (e : EOps) | dxZstd (e : EOps) | dxLz4 (e : EOps) | stoRd (e : EOps)
  /- configuration and channels (R52-R54, R62, R171). `port` names a channel by its consumer: element address times 16
     plus unit port. -/
  | configCommit (cl : Nat) (ws : List Lane) | configFieldsApply (cl : Nat) | storeRelease (cl port : Nat)
  | ceFire (cl ce : Nat) | ceToken (cl ce : Nat) | ceEosEmit (cl ce : Nat) | pipelineExit (cl ce : Nat)
  | skidDrain (cl ce out : Nat) | storeAccept (cl port : Nat) | storeIssue (cl port : Nat) | storeAbort (cl port : Nat)
  | ringSpill (cl port : Nat) | ringRefill (cl port : Nat)
  /- the sequencer's own steps (R92, R95, R97, R98, R275) -/
  | firingStart (cl : Nat) | icacheFill (cl ctx : Nat) | seqBudget (cl ctx : Nat) | trapActorFire (cl : Nat)
  | queueFlitArrive (k : Nat)
  /- cluster units (R163-R182, R195) -/
  | agPhaseStart (cl ag : Nat) | agBeat (cl ag : Nat) | bankGrant (cl bank : Nat) | bankHandoff (cl bank : Nat)
  | controlTokenDeliver (cl k : Nat) | scoreboardRetire (cl k : Nat) | engineStart (cl q : Nat) | completionPost (cl id : Nat)
  | followOnEnqueue (cl id : Nat)
  /- die: loops, batches and notices (R208-R214) -/
  | loopFlitRetransmit (k : Nat) (eh : BitVec 64) (lo hi : BitVec 256) (ec : BitVec 16) | qosFrameBoundary | batchClose (die : Nat)
  | noticeSend (die n : Nat) | noticeApply (die k : Nat)
  /- near-memory units and HBM (R226, R230, R242) -/
  | nmUpdate (k : Nat) | semFrameReread (stack : Nat) | semPollRetry (cl ctx : Nat) | hbmScrub (stack : Nat) (bad : List Nat)
  /- package: windows, launch, scheduling (R251, R268-R274) -/
  | windowMove (task tensor : Nat) | launchReady (q : Nat) | dispatch | gangAnnounce (pkg : Nat) (key : Word) (objid : Lane) (rank : Nat) (ended : Bool)
  | preemption (task cl : Nat) | claimUnit (cl unit : Nat) | resume (task : Nat) | taskEnd (task : Nat) | gangAbort (task : Nat) (cause : Cause)
  /- experts (R289-R296) -/
  | expertFetch (key : Lane) | poolAllocRetry (key : Lane) | sliceLanded (key : Lane) | fetchFail (key : Lane)
  | brambleRelease (die : Nat) (key : Lane) | useReport (die : Nat)
  /- fabric and host (R262, R266, R267, R316, R317, R319) -/
  | linkRetry (port : Nat) (good : Bool) | hostSnoop (pa : Nat) | hostHdmAccess (pa : Nat) (data : Option (List Byte))
  | powerOn (defect : Bool) | throttle (m : Measure) | hostRegWrite (off : Nat) (data : Word)
  /- Bolenol commands, with their operands in the command block (R262) -/
  | reset | query | load | unload | lease | unlease | map | launch | preempt | kill | trapRpt | ertcfg | monitor | fuseadv
  /- the two ways a fetch ends without an instruction (R78, R138) -/
  | seqIllWord (w : Lane) | seqPcFallThrough
  /- memory at its home (R220) and other packages (R319) -/
  | appliedAtHome (k : Nat) | remotePackageAccess (pkg pa : Nat) (op : RemoteOp)
  deriving DecidableEq, Repr

end Sys2Proof
end

