-- ==== Sys2Proof/Machine/State.lean ====
section
/-! DEFINITION. The state of the package as plain data, and the state after reset. Tables with a numeric index are sparse
(`SMap`): an index they do not list has the default named beside the field. -/

namespace Sys2Proof.Machine

/-! ## Channels (R44 to R54, R86, R169 to R171) -/

/-- An item of a channel: a data beat, a DROP beat or an in-band token (R152). -/
inductive Item where
  | data (b : Beat)
  | drop (b : Beat)
  | eos
  | eor
  | eok
  | bound (n : Nat)
  | abort (st : Cause)
  deriving DecidableEq, Repr

/-- One period that a Medlar store holds (R53, R54): its accepted beats, its length in blocks when a BOUND gave one (R49), the
tokens before its first consumer beat, the tokens behind it, and whether the producer has closed it. -/
structure Period where
  beats : List Item
  blocks : Option Nat
  pre : List Item
  post : List Item
  closed : Bool
  deriving DecidableEq, Repr

/-- A Medlar store (R51, R53). -/
structure Store where
  /-- the start offset δ -/
  delta : Nat
  /-- granules of the reorder pool it holds -/
  granules : Nat
  /-- periods not yet wholly issued, oldest first; the last may be open -/
  periods : List Period
  /-- producer beats accepted in this phase -/
  a : Nat
  /-- consumer beats issued in this phase -/
  c : Nat
  /-- consumer beats of the oldest period already issued -/
  issued : Nat
  /-- EOS has been accepted: the store drains -/
  ended : Bool
  /-- discarding the rest of a phase up to EOS or an abort token -/
  discard : Bool
  deriving DecidableEq, Repr

/-- An item on the loops: its name, which rises in sending order, and whether flits of it are there (R205, R206). -/
structure Rider where
  id : Nat
  flits : Bool
  item : Item
  deriving DecidableEq, Repr

/-- A channel, held at its consumer end. -/
structure Chan where
  /-- producer end: cluster, element address, unit port -/
  prodCl : Nat
  prodPort : Nat
  /-- items its hops hold (R169) -/
  depth : Nat
  /-- the virtual channel its items ride between clusters (R207) -/
  vc : Option Nat
  op : Order
  oc : Order
  /-- items in its tracks, oldest first -/
  items : List Item
  store : Option Store
  /-- items a store has issued, oldest first -/
  out : List Item
  /-- items on the loops on their way to the consumer's end, oldest first (R206, R207) -/
  riding : List Rider
  /-- beat slots of the spill ring; 0 when the channel is not elastic (R171) -/
  ringSize : Nat
  ring : List Item
  /-- items on their way into the ring, each with the name its write has -/
  spilling : List (Nat × Item)
  /-- the consumer discards what arrives up to and including EOS or an abort token (R94) -/
  sink : Bool
  /-- items of a phase have entered whose EOS or abort token the consumer has not taken -/
  live : Bool
  /-- the cycle of the last take, and the items taken in it, whose slots count as free from the next cycle on (R86) -/
  mark : Nat
  took : Nat
  deriving DecidableEq, Repr

/-- A checked configuration stream that waits to take effect (R62): its field writes, the cycle from which it may apply and
the channels it replaces or removes, by cluster and key (R52), and dmode at its commit (R305). -/
structure Pending where
  fields : SMap (BitVec 16)
  due : Nat
  replaced : List (Nat × Nat)
  mode : Nat
  deriving DecidableEq, Repr

/-! ## Compute elements (R84) -/

/-- A beat in the six-stage pipeline: what leaves on O0 and O1, and the first cycle a channel slot can hold it (R87). -/
structure Flight where
  exit : Nat
  o0 : List Item
  o1 : List Item
  deriving DecidableEq, Repr

/-- A row a PARK steer holds (R295): one Bramble entry's fields and the row's beats in the park ring. -/
structure Parked where
  key : Lane
  drop : Bool
  tag : Lane
  weight : Lane
  outp : Bool
  beats : List Item
  ptsc : Nat
  releasing : Bool
  /-- beats already re-emitted -/
  sent : Nat
  deriving DecidableEq, Repr

/-- A beat of a span that block lag holds (R112): what it leaves as, the lanes whose predicate is true, and its elements'
magnitudes, zero where a lane does not count. -/
structure LagBeat where
  own : Item
  live : BitVec 32
  mag : Beat
  deriving DecidableEq, Repr

/-- What a PARK steer has decided for the row at its heads (R295). -/
inductive RowWay where
  | route (outp : Bool)
  /-- the row joins the last of the parked rows -/
  | park
  deriving DecidableEq, Repr

/-- A compute element's state beside its configuration (Table 5.2). -/
structure Ce where
  /-- pipeline registers p1 to p6 -/
  pregs : List Beat
  pipe : List Flight
  /-- loop counters lc0 to lc3 -/
  lc : List Nat
  /-- stochastic generators that have stepped, at 32·(stage − 1) + lane; the default is the seed -/
  gens : SMap Lane
  flags : BitVec 5
  /-- the flags raised in cycle `raisedAt`, which a clear in that cycle leaves set (R43) -/
  raised : BitVec 5
  raisedAt : Nat
  skid0 : List Item
  skid1 : List Item
  /-- EOS consumed at every used head and not yet emitted (R89) -/
  eos : Bool
  /-- the START of R173 has been consumed for this loop -/
  started : Bool
  /-- merge: the tag last emitted (R132) -/
  last : Option Lane
  /-- block lag (R112): the span's beats from the first of the block whose results are not all out -/
  lag : List LagBeat
  /-- block lag: beats of the span fired so far -/
  span : Nat
  /-- cnt: the period is open, and the finished mark (R134) -/
  opened : Bool
  finished : Bool
  /-- PARK (R295): the row in progress, its beats so far, the parked rows in arrival order, and the token held (R330) -/
  row : Option RowWay
  rowBeats : Nat
  /-- beats of the row when a BOUND says so (R49) -/
  rowLen : Option Nat
  parked : List Parked
  heldTok : Option Item
  deriving DecidableEq, Repr

/-! ## Memory tiles and address generators (R164 to R168) -/

/-- A bank token (Table 9.1). -/
structure Token where
  own : Nat
  ov : Bool
  nxt : Nat
  nv : Bool
  deriving DecidableEq, Repr

/-- A bank access an address generator waits for (R163). -/
structure BankReq where
  bank : Nat
  addr : Nat
  /-- what to write; a read without -/
  data : Option Beat
  /-- copies that start later do not hold it (R174) -/
  made : Nat
  deriving DecidableEq, Repr

/-- A phase of an address generator (R167, R185). -/
structure Phase where
  /-- the command that started it -/
  cmd : Option Nat
  /-- subop of that command; an AUTO or START phase reads or writes as subops 1 to 4 do -/
  sub : Nat
  base : Int
  offs : List Int
  trips : List Nat
  /-- ragged length, when the order is ragged and a command supplies it -/
  ragged : Option Nat
  /-- tile counters -/
  tc : List Nat
  /-- beat of the period, and whether the period's leading BOUND has been sent -/
  t : Nat
  opened : Bool
  /-- beats or records of the period gathered or still to deliver -/
  buf : List Beat
  /-- passes left (R191), list entries used (R190), records done (R187) -/
  passes : Nat
  entry : Nat
  /-- the list entry in use as the outermost counter's value, once read (R190) -/
  val : Option Nat
  /-- a DONE asks it to stop at the next period boundary (R173) -/
  stop : Bool
  /-- the last tile is written; more data is excess (R167) -/
  full : Bool
  /-- the outermost counter has wrapped (reading), or EOS has arrived (writing) -/
  ended : Bool
  bytes : Nat
  status : Cause
  /-- the name its writes carry -/
  id : Nat
  /-- beats of the period in progress, when a BOUND or a ragged length cuts it short (writing) -/
  limit : Nat
  /-- the rest of the phase is discarded up to EOS or an abort token -/
  discard : Bool
  /-- memory beats of the channel beat already taped or restored, and whether a full or empty tape has been reported (R303) -/
  part : Nat
  held : Bool
  deriving DecidableEq, Repr

/-- An address generator beside its configuration. -/
structure Ag where
  phase : Option Phase
  req : Option BankReq
  /-- banks released in this phase (R165), and the highest bank accessed -/
  released : List Nat
  curBank : Option Nat
  /-- AUTO asks for one phase (R167) -/
  auto : Bool
  /-- the tail published for a windowed tensor (R251): tensor and tile -/
  tail : Option (Nat × Nat)
  /-- the status with which its last phase ended (R249) -/
  last : Cause
  deriving DecidableEq, Repr

/-! ## Engine commands (R180 to R182) -/

/-- Where a completion goes (R180). -/
inductive Target where
  | handle (h : Nat)
  | sem (pa : Nat)
  | none
  deriving DecidableEq, Repr

/-- A captured command: class, subop, class-specific bits, the register values read at issue, and its target. -/
structure Cmd where
  id : Nat
  cls : Nat
  sub : Nat
  cs : Nat
  a : Word
  b : Word
  c : Word
  tag : Nat
  target : Target
  /-- the cp.mx a follow-on command belongs to (R195) -/
  parent : Option Nat
  /-- writes that the firing had read before they reached their home: it starts behind them (R223, cmd). DEDUCED (log entry 6). -/
  after : List Nat
  deriving DecidableEq, Repr

/-- What a running command has done. -/
structure Run where
  cmd : Cmd
  /-- the queue it came from: a class, or 16 + an engine-bound port -/
  q : Nat
  /-- address generator, scoreboard entry, or other unit it holds -/
  unit : Nat
  /-- next unit of progress -/
  k : Nat
  /-- units in all -/
  n : Nat
  count : Nat
  status : Cause
  /-- bytes to deliver: decompressed output, storage data, a collective's result, a copied line -/
  buf : List Byte
  /-- nothing more to do: it completes once its writes are performed -/
  done : Bool
  /-- units of progress already moved, when they may move in any sequence -/
  did : List Nat
  /-- barrier: the commands it waits for; a collective: its match number -/
  waits : List Nat
  aux : Nat
  deriving DecidableEq, Repr

/-! ## The matrix array (R176, R196 to R199) -/

/-- A stationary buffer: its type (none when it holds none), its 128 rows of 256 bytes, block scales and band scales. -/
structure WBuf where
  ty : Option Nat
  rows : SMap (BitVec 2048)
  scales : SMap (BitVec 512)
  bands : List Nat
  deriving DecidableEq, Repr

/-- The matrix array. Accumulator words are at 16384·tile + 128·row + column, default 0. -/
structure Mx where
  acc : SMap Lane
  /-- band state of each tile: the two A bands and the two B bands -/
  band : List (Option (List Nat))
  w0 : WBuf
  w1 : WBuf
  active : Bool
  flags : BitVec 5
  deriving DecidableEq, Repr

/-! ## The sequencer (R90 to R97) -/

/-- The status of an actor slot (Table 5.5). -/
inductive SlotStatus where
  | idle
  | fireable
  | running
  | suspended
  | exited
  deriving DecidableEq, Repr

/-- A binding of a message queue: cluster, slot, queue (R159). -/
structure Bind where
  cl : Nat
  slot : Nat
  qn : Nat
  deriving DecidableEq, Repr

/-- An actor slot (Table 5.5, R232). -/
structure Slot where
  status : SlotStatus
  k : Vector Word 16
  firing : Word
  ready : Nat
  binds : SMap Bind
  /-- join records by barrier index: the group joined and the phase of the last arrival (R232) -/
  joins : SMap (Nat × Word)
  /-- halt: the actor ends as by aexit when its firing reaches fend (R285) -/
  ending : Bool
  deriving DecidableEq, Repr

/-- A trap record (Table 19.3). -/
structure TrapRec where
  src : Lane
  r : Bool
  cause : Cause
  tsc : Word
  wid : Word
  epc : Word
  addr : Word
  aux : Word
  ctx : Nat
  slot : Nat
  level : Nat
  seqno : Word
  deriving DecidableEq, Repr

/-- What a load that rides the loops found when it issued: its program counter, the firing's registers, and its actor's keep registers (R95). -/
structure LoadStart where
  pc : Word
  s : Vector Word 32
  sp : Word
  k : Vector Word 16
  deriving DecidableEq, Repr

/-- A firing in one of the four contexts (R92). -/
structure Firing where
  slot : Nat
  wid : Word
  s : Vector Word 32
  sp : Word
  pc : Word
  /-- R152: items advanced and published per handle, and the written slots of handles as 16·slot + handle -/
  adv : SMap Nat
  pub : SMap Nat
  written : SMap Beat
  /-- cycle of its first issue, less suspended cycles (R95) -/
  started : Option Nat
  /-- the cycle it was suspended for a trap -/
  suspended : Option Nat
  /-- the trap it handles (R275), and epc as csrw left it -/
  handling : Option TrapRec
  epc : Word
  /-- it may not issue until the class that stopped it resumes (R272) -/
  parked : Bool
  /-- its `ert.evict` has issued and waits (R298) -/
  evicting : Bool
  /-- its last issue was blocked (R272) -/
  waiting : Bool
  /-- names of posted writes whose bytes it has read in the RDC of its die before they reached their home: what it does later is
  behind them (R223, ppo). DEDUCED (log entry 6). -/
  saw : List Nat
  /-- the cycles in which registers take what a slow instruction writes, by register code (R138) -/
  late : SMap Nat
  /-- the cycle before which its next instruction may not issue: after a taken branch or a jump, while a load's value is due (R138), and after
  `ldtsc` (R282) -/
  resumeAt : Nat
  /-- its last instruction was a load whose flits are on their way, and what it found (R95) -/
  back : Option LoadStart
  deriving DecidableEq, Repr

/-- A scoreboard entry: the copy's command and its range (R174). -/
structure Range where
  cmd : Nat
  lo : Nat
  hi : Nat
  /-- the cycle after the last byte was granted -/
  done : Option Nat
  made : Nat
  deriving DecidableEq, Repr

/-- A control token in transit (R173): tile address, START or DONE, arrival cycle. -/
structure CtlTok where
  tile : Nat
  done : Bool
  due : Nat
  deriving DecidableEq, Repr

/-- A bank hand-off in progress (R165): the bank and the cycle it ends. -/
structure Handoff where
  bank : Nat
  due : Nat
  deriving DecidableEq, Repr

/-- A fence or release that blocks a firing (R222, R229, R233): its context, its path mask, which a release and `fence.scope` give
as SQ alone, and the first name given after it issued. DEDUCED (log entry 27). -/
structure XFence where
  ctx : Nat
  paths : Nat
  upto : Nat
  /-- it belongs to a `gbar.arr`, which the budget does not cut off (R95) -/
  acts : Bool
  deriving DecidableEq, Repr

/-- A scratchpad access of a unit beside the generators that has been asked for and stands until it may go (R163, R174): the copy engine, the
tile fetch or the sequencer, or 12, the stream engine; the running command, or the firing context with the program counter of the access; its
bytes; the first name given after it was asked for; and which of its banks have granted it. -/
structure Want where
  unit : Nat
  id : Nat
  pc : Word
  addr : Nat
  n : Nat
  made : Nat
  got : List Nat
  deriving DecidableEq, Repr

/-- A cluster (R13). -/
structure Cluster where
  /-- configuration fields at 256·element + field; default 0 -/
  cfg : SMap (BitVec 16)
  pending : Option Pending
  /-- the fault report of the last commit: 0 when it was accepted (R8) -/
  report : Cause
  /-- dmode in force when each generator's configuration committed (R305) -/
  agMode : SMap Nat
  owner : Option Nat
  /-- indices bound into the WID (R270): die, macro, cluster of the macro -/
  widDie : Nat
  widMacro : Nat
  widCluster : Nat
  /-- channels by consumer: 16·element + unit port -/
  chans : SMap Chan
  ces : SMap Ce
  ags : SMap Ag
  tokens : SMap Token
  handoffs : List Handoff
  spad : Memory
  lastGrant : SMap Nat
  /-- requests of the units beside the generators that wait for a bank (R163) -/
  wants : List Want
  board : List Range
  /-- pending STARTs by tile address (R173) -/
  starts : List Nat
  /-- memory tiles that a START has begun a loop of, which has not ended (R173) -/
  looping : List Nat
  ctlFly : List CtlTok
  mx : Mx
  /-- owner of each claim unit: banks 0-31, pool blocks 32-159, matrix array 160; default free (R177) -/
  claims : SMap Nat
  /-- the pool blocks, 0 to 127, that the configuration's stores stand in (R177) -/
  poolBlocks : List Nat
  /-- engine queues by class: 0 ST and SB, 2 CP, 3 MX, 4 CO, 5 DX -/
  queues : SMap (List Cmd)
  /-- queues of engine-bound edge ports, by port -/
  portq : SMap (List Cmd)
  /-- the status with which an engine-bound port last ended its phase (R137) -/
  portEnd : SMap Cause
  running : List Run
  /-- the queue each engine class started from last (R181) -/
  lastq : SMap Nat
  /-- a pre-emption has reached the cluster: nothing new starts (R272) -/
  stopping : Bool
  slots : SMap Slot
  ctxs : SMap Firing
  /-- receive buffers at 4·slot + queue (R97) -/
  qbufs : SMap (List Word)
  /-- instruction cache: 128-byte lines by code offset / 128 (R98) -/
  icache : SMap Beat
  dmode : Nat
  tapeptr : Nat
  tapelim : Nat
  tapebase : Option Word
  tapeseq : Nat
  lscale : Word
  lpend : Option Word
  lsepoch : Word
  /-- spill region in bytes (R96) -/
  spill : Nat
  traps : List TrapRec
  xfences : List XFence
  /-- accumulates issued, by source number (R306) -/
  accSeq : SMap Nat
  /-- tags of the tile-entry caches (R249), the entry used last first: of address generators 0 to 7, the matrix array 8, the sequencer 9,
  the copy and collective engines 10 -/
  tileTags : SMap (List Nat)
  /-- model's own: the cycle of the sequencer's last issue slot -/
  lastIssue : Nat
  /-- the context that issued last: the firings in flight issue in turn (R92) -/
  lastCtx : Nat
  /-- names of posted writes whose bytes the sequencer has read in the RDC of its die before they reached their home, over all its firings:
  a later store to those bytes is behind them (COH of R225). DEDUCED (log entry 6). -/
  readBefore : List Nat
  deriving DecidableEq, Repr

/-! ## Memory requests and near-memory operations (R218 to R237) -/

/-- A posted write on its way to its home (R220). Source 0 is the sequencer, 1 + class an engine. -/
structure MemReq where
  /-- its name: names rise in issue order -/
  id : Nat
  cl : Nat
  src : Nat
  cmd : Option Nat
  pa : Nat
  /-- the page is memory-side (R243) -/
  ms : Bool
  bytes : List Byte
  /-- batch: die and number (R213); none for a host line (R212) -/
  batch : Option (Nat × Lane)
  /-- it updated the copy of the issuing die's RDC when it issued (R212) -/
  shown : Bool
  /-- counts among the sixteen outstanding stores of a firing (R138): the context -/
  ctx : Option Nat
  /-- the task that made it -/
  task : Option Nat
  /-- writes that the firing had read before they reached their home (R223). DEDUCED (log entry 6). -/
  after : List Nat
  /-- the frame of its flits, where it has come by the loops (R209) -/
  frame : Option Nat
  deriving DecidableEq, Repr

/-- What a near-memory operation does at its NMU. -/
inductive NmKind where
  /-- amo, red and cas forms (R236): operation, type, operand -/
  | rmw (op ty : Nat) (v : Word)
  /-- add to a semaphore (R229, R182) -/
  | sig (v : Word)
  /-- write an element in two places (R237): second PA, and the bytes -/
  | pair (pa2 : Nat) (bytes : List Byte)
  /-- taped write (R303) of a beat: the new bytes by offset, and where the header and payload go -/
  | taped (bytes : List (Nat × Byte)) (hdrPa payPa : Nat) (hdr : Nat)
  /-- mark record (R302) -/
  | mark (hdr : Nat)
  /-- reverse accumulate (R303): contribution, source, number, epoch, exponent, whether it is held (REV.DET) -/
  | acc (v : Lane) (source number : Nat) (epoch : Word) (exp : Int) (held : Bool)
  /-- restore of tape lanes (R304) -/
  | restore (lanes : Nat) (payload : Beat)
  deriving DecidableEq, Repr

/-- A near-memory operation in flight, in issue order (R226). -/
structure NmOp where
  /-- its name: names rise in issue order -/
  id : Nat
  cl : Nat
  cmd : Option Nat
  pa : Nat
  kind : NmKind
  /-- the batch that holds every line it writes: die and number (R213, R220) -/
  batch : Nat × Lane
  /-- counts among the sixteen outstanding stores of a firing (R138): the context -/
  ctx : Option Nat
  /-- the task that made it -/
  task : Option Nat
  /-- writes that the firing had read before they reached their home (R223). DEDUCED (log entry 6). -/
  after : List Nat
  /-- the frame of its flits, where it has come by the loops (R209) -/
  frame : Option Nat
  deriving DecidableEq, Repr

/-- A waiter of `sem.wge` (R230): firing, location, target, satisfied; or the firing polls. -/
structure Waiter where
  cl : Nat
  ctx : Nat
  pa : Nat
  target : Word
  ok : Bool
  polling : Bool
  /-- the launch queue whose head waits (R268) -/
  queue : Option Nat
  deriving DecidableEq, Repr

/-- A gang barrier (Table 15.4). -/
structure Barrier where
  c : Word
  n : Option Nat
  a : Nat
  d : Nat
  pd : Nat
  lv : Option Nat
  pz : Bool
  /-- what its arrivals release (R233): for each die, the latest batch that an arrival's writes or reads depend on. DEDUCED (log entry 6). -/
  clock : List Lane
  deriving DecidableEq, Repr

/-- A held contribution of REV.DET (R306). -/
structure Held where
  pa : Nat
  v : Lane
  source : Nat
  number : Nat
  epoch : Word
  exp : Int
  cl : Nat
  /-- the task that made it -/
  task : Option Nat
  deriving DecidableEq, Repr

/-- A flit in transit (R97). -/
structure Flit where
  fromCl : Nat
  fromSlot : Nat
  toCl : Nat
  toSlot : Nat
  qn : Nat
  v : Word
  deriving DecidableEq, Repr

/-! ## Dies (R204 to R216, R245, R264) -/

/-- A write batch: its number, clock, lines and the cycle of its first write (R213). -/
structure Batch where
  num : Lane
  clock : List Lane
  lines : List Nat
  since : Nat
  /-- the task of its first write, whose gang a failing flit of its notices ends (R208) -/
  task : Option Nat
  deriving DecidableEq, Repr

/-- A causal notice (R213). -/
structure Notice where
  src : Nat
  clock : List Lane
  lines : List Nat
  task : Option Nat
  deriving DecidableEq, Repr

/-- A leaf-cache entry (R245): root, virtual base, size, physical base, writable, memory-side, level and PA of the entry. -/
structure Leaf where
  root : Nat
  va : Nat
  size : Nat
  pa : Nat
  w : Bool
  ms : Bool
  level : Nat
  epa : Nat
  deriving DecidableEq, Repr

/-- A pointer-cache entry (R245): root, level of the entry, the index bits above it, and the next table. -/
structure Ptr where
  root : Nat
  level : Nat
  prefx : Nat
  table : Nat
  deriving DecidableEq, Repr

/-- A Bramble queue entry (Table 20.2); the row itself is in its node's park ring. -/
structure BramEntry where
  key : Lane
  dropped : Bool
  tag : Lane
  weight : Lane
  beats : Nat
  outp : Bool
  cl : Nat
  ce : Nat
  loc : Nat
  ptsc : Word
  task : Nat
  deriving DecidableEq, Repr

/-- A monitor unit (R264): event bound, minimum, maximum, sixteen bins. -/
structure Monitor where
  event : Nat
  lo : Nat
  hi : Nat
  bins : List Nat
  deriving DecidableEq, Repr

/-- A part of a message's way (R205, R215): a loop of a die to a position, a bridge from a gateway of a die, or the hub's bridge to one. -/
inductive Leg where
  | loop (die l dst : Nat)
  | bridge (die b idx : Nat)
  | fromHub (die idx : Nat)
  deriving DecidableEq, Repr

/-- What the flits on the loops and bridges carry (R207). A unit of a cluster is a firing context, or 4 and the name of a running command. -/
inductive Freight where
  /-- a posted write or near-memory operation, by name -/
  | posted (id : Nat)
  /-- the request of the access that a unit has just made at a home, and the response to it -/
  | request (cl unit : Nat)
  | response (cl unit : Nat)
  /-- the notice of a die's batch to a peer -/
  | notice (src num dst : Nat)
  /-- the newest item of a channel -/
  | item (cl key : Nat)
  /-- the packet of a CO or DX command to the hub, and its completion -/
  | command (cl id : Nat)
  | completion (cl id : Nat)
  /-- the slice-ready event of a key to a die's Bramble queue, and the update of a key to a die's ERT cache -/
  | sliceReady (key die : Nat)
  | ertUpdate (key die : Nat)
  /-- the request of a posted `ert.*` instruction to the hub -/
  | expert (cl : Nat)
  deriving DecidableEq, Repr

/-- A flit on the loops and bridges (R208): its header (Table 13.2), payload and CRC. -/
structure NetFlit where
  header : Word
  payload : BitVec 512
  crc : BitVec 16
  /-- what it belongs to, and the task whose access it is -/
  load : Freight
  task : Option Nat
  /-- its way, the part it is on first, and its position on that loop -/
  legs : List Leg
  pos : Nat
  /-- it waits to be injected into the loop or the bridge -/
  waiting : Bool
  /-- failures in succession -/
  tries : Nat
  deriving DecidableEq, Repr

/-- A source of flits (R209): the frame it stamps, and the flits it has stamped with it. -/
structure Source where
  stamp : Nat
  spent : Nat
  deriving DecidableEq, Repr

/-- A line in a way of an L2 slice (R210). -/
structure L2Line where
  line : Nat
  dirty : Bool
  /-- the command whose tile fetch holds it in a pinned way (R176) -/
  pin : Option Nat
  deriving DecidableEq, Repr

structure Die where
  /-- A_d and D_d, four 32-bit entries each (R213) -/
  aVec : List Lane
  dVec : List Lane
  batch : Option Batch
  closed : List Batch
  notices : List Notice
  rdc : SMap Beat
  /-- what a read of a byte of an RDC copy depends on, by PA, as `State.writers` has it. DEDUCED (log entry 6). -/
  rdcFrom : SMap (List Lane)
  /-- tags of the die's 64 L2 slices, at 1024·slice + set, the line last used first (R210); the values stand in `State.mem` -/
  l2 : SMap (List L2Line)
  leafs : List Leaf
  ptrs : List Ptr
  bramble : List BramEntry
  /-- ERT uses not yet reported (R289): key and TSC -/
  uses : List (Nat × Nat)
  /-- the ERT cache (R288): key, dw0 and dw1, the entry used last first -/
  ertCache : List (Nat × Word × Word)
  /-- flit quota that each priority class has in the current frame (R209) -/
  quota : List Nat
  /-- stamps of its sources (R209): stops 0 to 63, gateways 64 to 95 at 64 + 8·bridge + index, near-memory queues 96 and 97 -/
  sources : SMap Source
  /-- the input that each link's arbiter took last, and the cycle after it, at 16·loop + position, bridges from 1024 on (R206) -/
  linkLast : SMap Nat
  linkAt : SMap Nat
  /-- flits a stop has ejected in a cycle (R206): the cycle and the count -/
  ejects : SMap (Nat × Nat)
  monitors : SMap Monitor
  /-- TSC at which each stack's scrub last ended (R242) -/
  scrubbed : SMap Nat
  deriving DecidableEq, Repr

/-! ## Hub (R286 to R294, R315 to R327) -/

/-- An entry of the expert residency table (Table 20.1). -/
structure Ert where
  state : Nat
  failed : Bool
  nsl : Nat
  pre : Nat
  pfx : Nat
  pin : Nat
  slb : Nat
  pool : Nat
  sk : Bool
  src : Nat
  last : Nat
  deriving DecidableEq, Repr

/-- An expert fetch (R292): key, target, the cluster that started it and the task that held it, and whether it has its region. -/
structure Fetch where
  key : Nat
  target : Nat
  cl : Nat
  task : Option Nat
  allocated : Bool
  deriving DecidableEq, Repr

/-- An NVMe namespace bound to a handle (R325): its blocks and contents. -/
structure Nvme where
  blocks : Nat
  data : Memory
  deriving DecidableEq, Repr

structure Hub where
  ert : SMap Ert
  poolBase : Nat
  poolSize : Nat
  /-- regions allocated: base and size -/
  pool : List (Nat × Nat)
  fetches : List Fetch
  namespaces : SMap Nvme
  /-- what the hub reaches through CXL.io or PCIe peers: each namespace with the bytes of its LBA format (R325) -/
  devices : List (Nat × Nvme)
  /-- NVMe Read commands outstanding in each of the 64 queue pairs, as the `sto.rd` and its part, and the pair that serves `sto.rd`
  next (R325) -/
  qpairs : SMap (List (Nat × Nat))
  nextPair : Nat
  /-- Trelest Link ports that are down, and consecutive retries by port (R319) -/
  linkDown : List Nat
  linkRetry : SMap Nat
  deriving DecidableEq, Repr

/-! ## Firmware, tasks and objects (R246 to R285) -/

/-- A lease range (R250); a window size makes it windowed (R251). -/
structure Lease where
  base : Nat
  size : Nat
  window : Nat
  deriving DecidableEq, Repr

/-- A tensor-table entry (Table 17.5), as its eight dwords; an entry of a task has two more, where its storage and its adjoint's begin
(R246; DESIGN CHOICE, log entry 7). -/
abbrev Tensor := List Word

/-- A tile-table entry (Table 17.6). -/
structure Tile where
  r : Bool
  ms : Bool
  frame : Nat
  deriving DecidableEq, Repr

/-- A placed or declared macro: columns, rows and its configuration streams (R255). -/
structure Macro where
  cols : Nat
  rows : Nat
  streams : List (List Lane)
  deriving DecidableEq, Repr

/-- A data section: its largest alignment, its bytes (R255, R313). -/
structure DataSec where
  align : Nat
  bytes : List Byte
  deriving DecidableEq, Repr

/-- A Xabry object in section form (R255; DESIGN CHOICE, log entry 7). -/
structure XObject where
  header : List Word
  leases : List Lease
  /-- identifier and eight dwords -/
  tensors : List (Nat × Tensor)
  macros : List Macro
  code : List Lane
  relocs : List Lane
  succs : List (List Nat)
  data : List DataSec
  signature : List Byte
  /-- where the loader maps data and code (R255; DEDUCED, log entry 13) -/
  dataVA : Nat
  codeVA : Nat
  deriving DecidableEq, Repr

/-- A loaded object: the object, its root table and whether its ranges are leased. -/
structure Loaded where
  obj : XObject
  root : Option Nat
  leased : Bool
  deriving DecidableEq, Repr

inductive TaskStatus where
  | queued
  | running
  | preempted
  | ended
  deriving DecidableEq, Repr

/-- A task of this package. -/
structure Task where
  handle : Nat
  status : TaskStatus
  endCause : Cause
  cls : Nat
  rank : Nat
  key : Word
  /-- origin column and row of each macro, once its placement is decided -/
  origins : List (Nat × Nat)
  clusters : List Nat
  root : Nat
  leases : List Lease
  tensors : SMap Tensor
  /-- read-only tensors (R249) -/
  readOnly : List Nat
  /-- tiles at 2^32·tensor + tile -/
  tiles : SMap Tile
  /-- frame tags of adjoint tiles that have left their window, at the same keys (R311): epoch and exponent -/
  tags : SMap (Word × Int)
  widths : List Nat
  arg : Word
  spill : Nat
  csize : Nat
  codeVA : Nat
  /-- successor lists (R259) -/
  succs : List (List Nat)
  ring : List TrapRec
  seqno : Nat
  /-- an uncorrectable error is ending the gang: its cause (R274) -/
  aborting : Option Cause
  started : Nat
  /-- OBJID of its object -/
  objid : Lane
  /-- collective commands started, by communicator (R321) -/
  collectives : SMap Nat
  /-- level and entry PA of the refusal found while its launch was made ready (R268) -/
  refusal : Nat
  /-- its semaphore condition holds and its ranges are resident and checked (R268) -/
  ready : Bool
  /-- a pre-emption of it has been requested and is not complete (R272) -/
  yielding : Bool
  /-- launch semaphore and target (R256) -/
  sema : Nat
  semt : Word
  deriving DecidableEq, Repr

/-- A gang of the domain: key, object, rank, package, ended (R268). -/
structure Gang where
  pkg : Nat
  key : Word
  objid : Lane
  rank : Nat
  ended : Bool
  deriving DecidableEq, Repr

/-- A collective command another package's gang has issued (R321). -/
structure PeerCmd where
  key : Word
  objid : Lane
  id : Lane
  k : Nat
  rank : Nat
  typ : Nat
  op : Nat
  n : Nat
  s : Nat
  src : List Byte
  deriving DecidableEq, Repr

/-- The saved context of a pre-empted task on a cluster (R272): the cluster as the save found it. The contents of its claim
units cannot change while the task is away, so the snapshot holds them too (R177). -/
structure Saved where
  task : Nat
  cl : Nat
  ctx : Cluster
  /-- the cycle of the save -/
  since : Nat
  deriving DecidableEq, Repr

structure Firmware where
  block : List Word
  busy : Bool
  status : Word
  count : Word
  ie : Bool
  msix : Nat
  queues : SMap (List Nat)
  served : SMap Nat
  tasks : SMap Task
  objects : SMap Loaded
  nextHandle : Nat
  nextTask : Nat
  fuse : Nat
  /-- relocated-configuration cache: OBJID, origin, SVN (R258) -/
  reloc : List (Nat × Nat × Nat)
  bistOk : Bool
  /-- the part has a defect, which its next self-test finds (R266) -/
  defect : Bool
  throttled : Nat
  /-- the limit of the module's draw in watts, set by QUERY (R267) -/
  drawLimit : Nat
  /-- flit quota of each priority class from the next frame on (R209, R267) -/
  quotas : List Nat
  saved : List Saved
  gangs : List Gang
  images : SMap XObject
  deriving DecidableEq, Repr

/-! ## Package -/

/-- A soft error on a path without protection (R265): stage to channel, decompressor to scratchpad, a CXL hop, of memory or of storage
data. -/
inductive SoftError where
  | item (cl ce out k : Nat) (mask : Beat)
  | decompressed (cl id k : Nat) (mask : Byte)
  | cxl (pa : Nat) (mask : Byte)
  | stored (cl id k : Nat) (mask : Byte)
  deriving DecidableEq, Repr

/-- Which agent moves next (DESIGN CHOICE, log entry 1). -/
inductive Turn where
  /-- a step of another agent, a host write or a firmware command -/
  | event (i : Instr)
  /-- the sequencer of a cluster issues from a firing context -/
  | issue (cl ctx : Nat)
  /-- a running command of a cluster's engine moves one unit of its work -/
  | engine (cl id unit : Nat)
  /-- a clean copy leaves an RDC, a walk cache or an instruction cache silently (R98, R212, R245) -/
  | evictLine (die line : Nat)
  | evictWalk (die : Nat) (ptr : Bool) (k : Nat)
  | evictCode (cl line : Nat)
  /-- a line of an L2 slice (or of a stack) has an uncorrectable error (R217, R242) -/
  | spoilLine (line : Nat) (l2 : Bool)
  /-- the prefetcher fills a line of code ahead of need (R259) -/
  | prefetch (cl line : Nat)
  /-- a message enters the network, a link of a loop takes a flit, a bridge carries one (R204 to R209, R215) -/
  | inject (load : Freight)
  | link (die l pos : Nat)
  | cross (die b idx : Nat)
  | fromHub (die idx : Nat)
  /-- the oldest item of a channel that rides the loops comes to its consumer's end -/
  | land (cl key : Nat)
  /-- the hub sends a back-invalidate snoop for a line of HBM that the host may hold; the host answers, with what it has written (R317) -/
  | hubSnoop (line : Nat)
  | hostAnswer (line : Nat) (data : Option (List Byte))
  /-- a monitor unit samples its event (R264) -/
  | sample (die unit : Nat)
  /-- a soft error on an unprotected path, and a defect that the next self-test finds (R265, R266) -/
  | softError (e : SoftError)
  | defect
  /-- the storage that the hub reaches, for the next RESET to enumerate (R325) -/
  | devices (ds : List (Nat × Nvme))
  /-- cycles pass -/
  | wait (n : Nat)
  deriving DecidableEq, Repr

/-- A record of the bounce buffer (R253): task, tensor, tile, offset, bytes. -/
structure Bounce where
  task : Nat
  tensor : Nat
  tile : Nat
  off : Nat
  bytes : List Byte
  deriving DecidableEq, Repr

/-- A cancelled command whose add to a semaphore waits until its writes are performed (R182, R200). -/
structure Cancel where
  cl : Nat
  id : Nat
  pa : Nat
  deriving DecidableEq, Repr

structure State where
  /-- the cycle clock (R11) -/
  now : Nat
  /-- TSC at cycle 0 -/
  tscBase : Nat
  /-- all memory by physical address (R241) -/
  mem : Memory
  /-- poisoned lines, by PA / 128 (R242, R318) -/
  poison : List Nat
  /-- L2 lines with an uncorrectable error, by PA / 128 (R217) -/
  ecc : List Nat
  /-- the batch that a line's tag records at its home, a die and a number (R213), by PA / 128 -/
  stamps : SMap (Nat × Lane)
  /-- what a read of a byte depends on, by PA: for each die, its latest batch among the write that the byte holds and, where that is an
  update, the writes that it read (rf and so of R223). DEDUCED (log entry 6). -/
  writers : SMap (List Lane)
  inflight : List MemReq
  nmops : List NmOp
  /-- flits that are on their way (R206) -/
  net : List NetFlit
  /-- model's own: cluster and address of the last answered access at a home, at its near-memory unit with `true`: what a request carries -/
  asked : Option (Nat × Nat × Bool)
  /-- lines of HBM that the host may hold, by PA / 128, and those for which a back-invalidate snoop awaits its answer (R317) -/
  hostLines : List Nat
  snoops : List Nat
  waiters : List Waiter
  cancels : List Cancel
  /-- model's own: commands by cluster and name in the sequence in which the last of their work, or of their writes, was done: the sequence in
  which they complete (R182, R185) -/
  settled : List (Nat × Nat)
  /-- barriers by task, index and group -/
  barriers : List ((Nat × Nat × Nat) × Barrier)
  /-- adjoint frame tags, by PA / 65536: epoch and exponent (R311) -/
  adjTags : SMap (Word × Int)
  held : List Held
  bounce : List Bounce
  /-- first resident tile of each windowed tensor, at 2^32·task + tensor (R251) -/
  windows : SMap Nat
  flits : List Flit
  dies : SMap Die
  clusters : SMap Cluster
  hub : Hub
  fw : Firmware
  peers : List PeerCmd
  /-- model's own: which agent moves next, and who issues when nothing is said -/
  agenda : List Turn
  cur : Nat × Nat
  /-- model's own: free values used so far, and names given so far -/
  freeCtr : Nat
  nextId : Nat
  deriving DecidableEq, Repr

/-- Why a step has no next state. -/
inductive Fault where
  /-- An instruction is given to `exec` while the cursor names no running firing. Raised by the sequencer's instructions
  alone: there is then nothing that could execute them (R92). Safe: `step` never raises it, since it gives `exec` a
  sequencer's instruction only for the firing that fetched it. -/
  | noFiring
  deriving DecidableEq, Repr

/-- Why an instruction has no meaning in the model. -/
inductive Refusal where
  /-- The instruction of that mnemonic has no meaning yet. Raised by `exec` alone. Safe: the run stops. -/
  | notModelled (mnemonic : String)
  deriving DecidableEq, Repr

/-! ## Reset -/

def Ce.reset : Ce :=
  { pregs := List.replicate 6 0#1024, pipe := [], lc := [0, 0, 0, 0], gens := [], flags := 0#5, raised := 0#5, raisedAt := 0, skid0 := [], skid1 := [],
    eos := false, started := false, last := none, lag := [], span := 0, opened := false, finished := false,
    row := none, rowBeats := 0, rowLen := none, parked := [], heldTok := none }

def Token.reset : Token := { own := 0, ov := false, nxt := 0, nv := false }

def Ag.reset : Ag := { phase := none, req := none, released := [], curBank := none, auto := false, tail := none, last := 0#16 }

def WBuf.reset : WBuf := { ty := none, rows := [], scales := [], bands := [] }

def Mx.reset : Mx :=
  { acc := [], band := [none, none, none, none], w0 := WBuf.reset, w1 := WBuf.reset, active := false, flags := 0#5 }

def Slot.reset : Slot :=
  { status := .idle, k := Vector.replicate 16 0#64, firing := 0#64, ready := 0, binds := [], joins := [], ending := false }

/-- Every field at the reset value of its table; registers without one as INVENTORY.md lists them. DESIGN CHOICE (log entry 11). -/
def Cluster.reset : Cluster :=
  { cfg := [], pending := none, report := 0#16, agMode := [], owner := none, widDie := 0, widMacro := 0, widCluster := 0, chans := [], ces := [],
    ags := [], tokens := [], handoffs := [], spad := [], lastGrant := [], wants := [], board := [], starts := [], looping := [], ctlFly := [],
    mx := Mx.reset, claims := [], poolBlocks := [], queues := [], portq := [], portEnd := [], running := [], lastq := [], stopping := false, slots := [],
    ctxs := [], qbufs := [], icache := [], dmode := 0, tapeptr := 0, tapelim := 0, tapebase := none, tapeseq := 0,
    lscale := 0x3F800000#64, lpend := none, lsepoch := 0#64, spill := 32768, traps := [], xfences := [], accSeq := [], tileTags := [],
    lastIssue := 0, lastCtx := 3, readBefore := [] }

/-- Flit quotas of RT, HIGH, NORMAL and BULK (R209). -/
def fullQuota : List Nat := [4096, 3072, 2048, 1024]

/-- A vector of four zero entries. -/
def zeroClock : List Lane := [0#32, 0#32, 0#32, 0#32]

def Die.reset : Die :=
  { aVec := zeroClock, dVec := zeroClock, batch := none, closed := [], notices := [], rdc := [], rdcFrom := [], l2 := [], leafs := [], ptrs := [],
    bramble := [], uses := [], ertCache := [], quota := fullQuota, sources := [], linkLast := [], linkAt := [], ejects := [], monitors := [], scrubbed := [] }

def Hub.reset : Hub :=
  { ert := [], poolBase := 0, poolSize := 0, pool := [], fetches := [], namespaces := [], devices := [], qpairs := [], nextPair := 4, linkDown := [],
    linkRetry := [] }

def Firmware.reset : Firmware :=
  { block := List.replicate 8 0#64, busy := false, status := 0#64, count := 0#64, ie := false, msix := 0, queues := [],
    served := [], tasks := [], objects := [], nextHandle := 0, nextTask := 0, fuse := 0, reloc := [], bistOk := true,
    defect := false, throttled := 0, drawLimit := 3600, quotas := fullQuota, saved := [], gangs := [], images := [] }

/-- The package right after power-on (R266): every field at its reset value, nothing loaded, nothing running. DESIGN CHOICE (log entry 4). DESIGN CHOICE (log entry 11). -/
def State.reset : State :=
  { now := 0, tscBase := 0, mem := [], poison := [], ecc := [], stamps := [], writers := [], inflight := [], nmops := [], net := [], asked := none, hostLines := [], snoops := [], waiters := [], cancels := [], settled := [], barriers := [],
    adjTags := [], held := [], bounce := [], windows := [], flits := [], dies := [], clusters := [], hub := Hub.reset,
    fw := Firmware.reset, peers := [], agenda := [], cur := (0, 0), freeCtr := 0, nextId := 0 }

end Sys2Proof.Machine
end

