-- ==== Sys2Proof/Machine/Flags.lean ====
section
/-! DEFINITION. The sticky flags (R41 to R43): their bits, what raises them, reading and clearing them. The sequencer's ALU
has none (R139). -/

namespace Sys2Proof.Machine

/-- Flag sets, in the layout of Table 2.7. -/
abbrev Flags := BitVec 5

namespace Flag
def none : Flags := 0#5
/-- inexact result -/
def ix : Flags := 1#5
/-- tiny and inexact, or a block scale raised to 2^−8 -/
def uf : Flags := 2#5
/-- overflow, saturation, or accumulation wrap -/
def of : Flags := 4#5
/-- division by zero -/
def dz : Flags := 8#5
/-- invalid operation -/
def nv : Flags := 16#5
end Flag

/-- A condition's flag. -/
def flagIf (c : Bool) (f : Flags) : Flags := if c then f else Flag.none

/-- The `flags` control register of a cluster: the OR over its elements and its matrix array (R41). -/
def Cluster.flags (c : Cluster) : Flags := c.ces.foldl (fun f e => f ||| e.2.flags) c.mx.flags

/-- A firing of an element raises flags in a cycle: its own, those of all six stages at once, so that a beat in the pipeline raises none after
a read or a clear of `flags`. DESIGN CHOICE: the manual gives no cycle in which the flags of a beat become visible there (log entry 49). -/
def Ce.raise (x : Ce) (now : Nat) (f : Flags) : Ce :=
  { x with flags := x.flags ||| f, raised := if x.raisedAt = now then x.raised ||| f else f, raisedAt := now }

/-- Flags of an element that a clear in a cycle leaves set: a firing raised them in that cycle. -/
def Ce.kept (x : Ce) (now : Nat) : Flags := if x.raisedAt = now then x.raised else Flag.none

/-- A write to `flags` clears the bits written as 1 in every element and in the matrix array, but for those that a firing raises in
that cycle (R43). -/
def Cluster.clearFlags (c : Cluster) (now : Nat) (w : Flags) : Cluster :=
  { c with ces := c.ces.map (fun e => (e.1, { e.2 with flags := e.2.flags &&& ~~~(w &&& ~~~e.2.kept now) })),
           mx := { c.mx with flags := c.mx.flags &&& ~~~w } }

end Sys2Proof.Machine
end

