-- ==== Sys2Proof/Machine/Float.lean ====
section
/-! DEFINITION. Floating-point formats and the one rounding of every operation (R19 to R22, R27 to R33, R42). Values are
exact; each result is rounded once. -/

namespace Sys2Proof.Machine

/-- A floating-point format (Table 2.2): exponent and fraction bits, bias, and which of infinity and NaN it has. -/
structure Fmt where
  ebits : Nat
  fbits : Nat
  bias : Nat
  hasInf : Bool
  hasNan : Bool
  /-- the canonical NaN; the largest finite magnitude when the format has none -/
  qnan : Nat
  deriving DecidableEq, Repr

namespace Fmt
def f32 : Fmt := { ebits := 8, fbits := 23, bias := 127, hasInf := true, hasNan := true, qnan := 0x7FC00000 }
def bf16 : Fmt := { ebits := 8, fbits := 7, bias := 127, hasInf := true, hasNan := true, qnan := 0x7FC0 }
def f16 : Fmt := { ebits := 5, fbits := 10, bias := 15, hasInf := true, hasNan := true, qnan := 0x7E00 }
def e5m2 : Fmt := { ebits := 5, fbits := 2, bias := 15, hasInf := true, hasNan := true, qnan := 0x7E }
def e4m3 : Fmt := { ebits := 4, fbits := 3, bias := 7, hasInf := false, hasNan := true, qnan := 0x7F }
def e2m1 : Fmt := { ebits := 2, fbits := 1, bias := 1, hasInf := false, hasNan := false, qnan := 0x7 }
end Fmt

/-- Bits of a format. -/
def Fmt.width (f : Fmt) : Nat := f.ebits + f.fbits + 1

/-- The value of an encoding: a NaN, an infinity, or (−1)^neg · m · 2^e exactly. -/
inductive FVal where
  | nan (signalling : Bool)
  | inf (neg : Bool)
  | fin (neg : Bool) (m : Nat) (e : Int)
  deriving DecidableEq, Repr

/-- Reads an encoding (R19). -/
def Fmt.read (f : Fmt) (v : Nat) : FVal :=
  let frac := bitsAt v 0 f.fbits
  let ex := bitsAt v f.fbits f.ebits
  let neg := bitAt v (f.ebits + f.fbits)
  let top := 2 ^ f.ebits - 1
  if f.hasInf ∧ ex = top then
    if frac = 0 then .inf neg else .nan (!bitAt frac (f.fbits - 1))
  else if f.hasNan ∧ !f.hasInf ∧ ex = top ∧ frac = 2 ^ f.fbits - 1 then .nan false
  else if ex = 0 then .fin neg frac (1 - (f.bias : Int) - (f.fbits : Int))
  else .fin neg (2 ^ f.fbits + frac) ((ex : Int) - (f.bias : Int) - (f.fbits : Int))

/-- The magnitude bits of the largest finite value. -/
def Fmt.maxBits (f : Fmt) : Nat :=
  if f.hasInf then (2 ^ f.ebits - 1) * 2 ^ f.fbits - 1
  else if f.hasNan then 2 ^ (f.ebits + f.fbits) - 2 else 2 ^ (f.ebits + f.fbits) - 1

/-- An encoding with a sign. -/
def Fmt.signed (f : Fmt) (neg : Bool) (mag : Nat) : Nat := if neg then 2 ^ (f.ebits + f.fbits) + mag else mag

/-- Infinity, or the canonical NaN of a format without one. -/
def Fmt.infinity (f : Fmt) (neg : Bool) : Nat :=
  if f.hasInf then f.signed neg ((2 ^ f.ebits - 1) * 2 ^ f.fbits) else f.qnan

/-! ## Modes (R27) -/

/-- The 4-bit mode field: [2:0] rounding, [3] SAT. -/
abbrev Mode := Nat

def Mode.rne : Mode := 0
def Mode.rtz : Mode := 1
def Mode.rdn : Mode := 2
def Mode.rup : Mode := 3
def Mode.sr : Mode := 4
/-- The rounding of a mode. -/
def Mode.rounding (m : Mode) : Nat := m % 8
def Mode.sat (m : Mode) : Bool := bitAt m 3

/-! ## Rounding (R28 to R30) -/

/-- floor(log2 (n/d)) for n, d > 0. -/
def ratLog2 (n d : Nat) : Int :=
  let k : Int := (Nat.log2 n : Int) - (Nat.log2 d : Int)
  let below := if 0 ≤ k then decide (n < d * 2 ^ k.toNat) else decide (n * 2 ^ (-k).toNat < d)
  if below then k - 1 else k

/-- n/d scaled by 2^(−q), as a fraction. -/
def scaled (n d : Nat) (q : Int) : Nat × Nat := if 0 ≤ q then (n, d * 2 ^ q.toNat) else (n * 2 ^ (-q).toNat, d)

/-- Rounds the fraction n/d to a whole number by a rounding, for a magnitude of a given sign; u is the stochastic draw. -/
def roundNat (rounding : Nat) (neg : Bool) (u n d : Nat) : Nat :=
  let k := n / d
  let r := n % d
  let up := match rounding with
    | 0 => decide (d < 2 * r) || (decide (2 * r = d) && decide (k % 2 = 1))
    | 2 => neg && decide (r ≠ 0)
    | 3 => !neg && decide (r ≠ 0)
    | 4 => decide (u * d < r * 4294967296)
    | _ => false
  if up then k + 1 else k

/-- A rounded result: encoding and the flags raised. -/
structure Rounded where
  bits : Nat
  flags : Flags
  deriving DecidableEq, Repr

/-- What an overflow gives (R30). -/
def overflowBits (f : Fmt) (mode : Mode) (neg : Bool) : Nat :=
  if mode.sat || !f.hasNan then f.signed neg f.maxBits
  else match mode.rounding with
    | 1 => f.signed neg f.maxBits
    | 2 => if neg then f.infinity neg else f.signed neg f.maxBits
    | 3 => if neg then f.signed neg f.maxBits else f.infinity neg
    | _ => f.infinity neg

/-- The magnitude bits of k·2^q, k at most 2^(fbits+1), q at least the format's lowest ulp. -/
def Fmt.pack (f : Fmt) (k : Nat) (q : Int) : Nat :=
  let lowq : Int := 1 - (f.bias : Int) - (f.fbits : Int)
  -- the exponent field grows with q; a carry out of the significand carries into it
  if k < 2 ^ f.fbits then k else k + ((q - lowq).toNat) * 2 ^ f.fbits

/-- Rounds (−1)^neg · n/d, n > 0 and d > 0, once to a format (R28). Tininess is found after rounding with an unbounded exponent (R42), in SR
with the same draw u. DESIGN CHOICE: the manual says nothing of a draw for that test (log entry 49). -/
def roundRat (f : Fmt) (mode : Mode) (u : Nat) (neg : Bool) (n d : Nat) : Rounded :=
  let e := ratLog2 n d
  let lowq : Int := 1 - (f.bias : Int) - (f.fbits : Int)
  let qn : Int := e - (f.fbits : Int)
  let q := if qn < lowq then lowq else qn
  let (a, b) := scaled n d q
  let k := roundNat mode.rounding neg u a b
  let exact := decide (a % b = 0)
  let mag := f.pack k q
  if f.maxBits < mag then { bits := overflowBits f mode neg, flags := Flag.of ||| Flag.ix }
  else
    let tiny :=
      if lowq ≤ qn then false
      else
        let (a', b') := scaled n d qn
        -- rounded with an unbounded exponent, is the magnitude still below the least normal?
        let k' := roundNat mode.rounding neg u a' b'
        decide (qn + ((if k' = 2 ^ (f.fbits + 1) then 1 else 0 : Nat) : Int) < lowq)
    { bits := f.signed neg mag,
      flags := if exact then Flag.none else Flag.ix ||| flagIf (tiny && f.hasNan) Flag.uf }

/-! ## Exact values -/

/-- A dyadic number n·2^e. -/
structure Dyad where
  n : Int
  e : Int
  deriving DecidableEq, Repr

/-- The dyadic number of a finite value. -/
def dyad (neg : Bool) (m : Nat) (e : Int) : Dyad := { n := if neg then -(m : Int) else (m : Int), e := e }

def Dyad.add (x y : Dyad) : Dyad :=
  let e := if x.e < y.e then x.e else y.e
  { n := x.n * (2 ^ (x.e - e).toNat : Nat) + y.n * (2 ^ (y.e - e).toNat : Nat), e := e }

def Dyad.mul (x y : Dyad) : Dyad := { n := x.n * y.n, e := x.e + y.e }
def Dyad.neg (x : Dyad) : Dyad := { x with n := -x.n }

/-- x < y. -/
def Dyad.less (x y : Dyad) : Bool := decide ((Dyad.add x y.neg).n < 0)

/-- Rounds a dyadic number once; an exact zero takes the sign given. DEDUCED (log entry 35). -/
def roundDyad (f : Fmt) (mode : Mode) (u : Nat) (zeroNeg : Bool) (x : Dyad) : Rounded :=
  if x.n = 0 then { bits := f.signed zeroNeg 0, flags := Flag.none }
  else
    let (a, b) := scaled x.n.natAbs 1 (-x.e)
    roundRat f mode u (decide (x.n < 0)) a b

/-- A value that needs no rounding. -/
def plain (bits : Nat) : Rounded := { bits := bits, flags := Flag.none }
/-- The canonical NaN, with NV when it is an invalid operation. -/
def nanOf (f : Fmt) (invalid : Bool) : Rounded := { bits := f.qnan, flags := flagIf invalid Flag.nv }

/-- Whether a value is a signalling NaN. -/
def FVal.snan : FVal → Bool
  | .nan s => s
  | _ => false
def FVal.isNan : FVal → Bool
  | .nan _ => true
  | _ => false
def FVal.isInf : FVal → Bool
  | .inf _ => true
  | _ => false
def FVal.isZero : FVal → Bool
  | .fin _ m _ => m == 0
  | _ => false
def FVal.neg : FVal → FVal
  | .nan s => .nan s
  | .inf n => .inf (!n)
  | .fin n m e => .fin (!n) m e
def FVal.isNeg : FVal → Bool
  | .nan _ => false
  | .inf n => n
  | .fin n _ _ => n
/-- The dyadic number of a finite value, 0 otherwise. -/
def FVal.value : FVal → Dyad
  | .fin n m e => Machine.dyad n m e
  | _ => { n := 0, e := 0 }

/-- The sign of an exact zero sum (R21): the common sign of two zeros, else − under RDN only. -/
def zeroSum (mode : Mode) (x y : Bool) : Bool := if x == y then x else mode.rounding == 2

/-- x + y, rounded once (R102). -/
def fadd (f : Fmt) (mode : Mode) (u : Nat) (x y : FVal) : Rounded :=
  match x, y with
  | .nan _, _ => nanOf f (x.snan || y.snan)
  | _, .nan _ => nanOf f (x.snan || y.snan)
  | .inf a, .inf b => if a == b then plain (f.infinity a) else nanOf f true
  | .inf a, _ => plain (f.infinity a)
  | _, .inf b => plain (f.infinity b)
  | .fin a m e, .fin b n g =>
    let both := m == 0 && n == 0
    roundDyad f mode u (if both then zeroSum mode a b else mode.rounding == 2) (Dyad.add (dyad a m e) (dyad b n g))

/-- x·y, rounded once. -/
def fmul (f : Fmt) (mode : Mode) (u : Nat) (x y : FVal) : Rounded :=
  match x, y with
  | .nan _, _ => nanOf f (x.snan || y.snan)
  | _, .nan _ => nanOf f (x.snan || y.snan)
  | .inf a, _ => if y.isZero then nanOf f true else plain (f.infinity (a != y.isNeg))
  | _, .inf b => if x.isZero then nanOf f true else plain (f.infinity (x.isNeg != b))
  | .fin a m e, .fin b n g => roundDyad f mode u (a != b) (Dyad.mul (dyad a m e) (dyad b n g))

/-- x·y + z, rounded once (R40). -/
def ffma (f : Fmt) (mode : Mode) (u : Nat) (x y z : FVal) : Rounded :=
  let sn := x.snan || y.snan || z.snan
  let badMul := (x.isInf && y.isZero) || (x.isZero && y.isInf)
  if x.isNan || y.isNan || z.isNan then nanOf f (sn || badMul)
  else if badMul then nanOf f true
  else
    let pneg := x.isNeg != y.isNeg
    if x.isInf || y.isInf then
      if z.isInf && z.isNeg != pneg then nanOf f true else plain (f.infinity pneg)
    else if z.isInf then plain (f.infinity z.isNeg)
    else
      let p := Dyad.mul x.value y.value
      let zeros := p.n == 0 && z.isZero
      roundDyad f mode u (if zeros then zeroSum mode pneg z.isNeg else mode.rounding == 2) (Dyad.add p z.value)

/-- The sum of exact products and addends, rounded once (R36, R40). Several infinities of both signs are ∞ − ∞, which is an invalid
operation only where no operand is a NaN, as in R102. DEDUCED (log entry 18). -/
def fsum (f : Fmt) (mode : Mode) (u : Nat) (ps : List (FVal × FVal)) (zs : List FVal) : Rounded :=
  let sn := ps.any (fun p => p.1.snan || p.2.snan) || zs.any FVal.snan
  let bad := ps.any (fun p => (p.1.isInf && p.2.isZero) || (p.1.isZero && p.2.isInf))
  let nan := ps.any (fun p => p.1.isNan || p.2.isNan) || zs.any FVal.isNan
  let infs := (ps.filter (fun p => (p.1.isInf || p.2.isInf) && !p.1.isNan && !p.2.isNan && !p.1.isZero && !p.2.isZero)).map
      (fun p => p.1.isNeg != p.2.isNeg) ++ (zs.filter FVal.isInf).map FVal.isNeg
  let clash := infs.contains true && infs.contains false
  if nan || bad || clash then nanOf f (sn || bad || (clash && !nan))
  else match infs with
    | n :: _ => plain (f.infinity n)
    | [] =>
      let terms := ps.map (fun p => (p.1.isNeg != p.2.isNeg, p.1.isZero || p.2.isZero, Dyad.mul p.1.value p.2.value))
        ++ zs.map (fun z => (z.isNeg, z.isZero, z.value))
      let total := terms.foldl (fun a t => Dyad.add a t.2.2) { n := 0, e := 0 }
      let zeroNeg :=
        if terms.all (fun t => t.2.1 && t.1) then true
        else if terms.all (fun t => t.2.1 && !t.1) then false
        else mode.rounding == 2
      roundDyad f mode u zeroNeg total

/-- The order of two numbers: less, when neither is a NaN; ±0 are equal. -/
def FVal.less (x y : FVal) : Bool :=
  match x, y with
  | .nan _, _ => false
  | _, .nan _ => false
  | .inf a, .inf b => a && !b
  | .inf a, _ => a
  | _, .inf b => !b
  | .fin a m e, .fin b n g => (dyad a m e).less (dyad b n g)

def FVal.eq (x y : FVal) : Bool := !x.isNan && !y.isNan && !x.less y && !y.less x

/-- Rounds an exact value of another format (R31): a NaN to the canonical NaN, an infinity to infinity or what R31 says. -/
def convert (f : Fmt) (mode : Mode) (u : Nat) (x : FVal) : Rounded :=
  match x with
  | .nan s => nanOf f s
  | .inf n =>
    if f.hasInf then plain (f.infinity n)
    else if mode.sat || !f.hasNan then { bits := f.signed n f.maxBits, flags := Flag.of }
    else { bits := f.qnan, flags := Flag.nv }
  | .fin n m e => roundDyad f mode u n (dyad n m e)

/-- Minimum or maximum of two encodings (R103): an operand unchanged, −0 below +0; one NaN gives the other operand, two the
canonical NaN; a signalling NaN raises NV. -/
def fminmax (f : Fmt) (max : Bool) (a b : Nat) : Rounded :=
  let x := f.read a
  let y := f.read b
  let bits :=
    if x.isNan && y.isNan then f.qnan
    else if x.isNan then b
    else if y.isNan then a
    else
      let aLess := x.less y || (x.eq y && x.isNeg && !y.isNeg)
      if aLess == max then b else a
  { bits := bits, flags := flagIf (x.snan || y.snan) Flag.nv }

/-- FP32 a + b with one RNE rounding, as encodings. DEDUCED (log entry 35). -/
def addF32 (a b : Nat) : Nat := (fadd Fmt.f32 Mode.rne 0 (Fmt.f32.read a) (Fmt.f32.read b)).bits

end Sys2Proof.Machine
end

