-- ==== Sys2Proof/Machine/Adjoint.lean ====
section
/-! DEFINITION. Reverse accumulates at the near-memory units: loss-scale tags of adjoint frames (R311) and the contributions
that REV.DET holds (R306). -/

namespace Sys2Proof.Machine

/-- An FP32 encoding times 2^k, rounded once RNE under R30. -/
def scaleF32 (v : Nat) (k : Int) : Nat :=
  match Fmt.f32.read v with
  | .nan _ => Fmt.f32.qnan
  | .inf n => Fmt.f32.infinity n
  | .fin n m e => (roundDyad Fmt.f32 Mode.rne 0 n (dyad n m (e + k))).bits

/-- Cell + contribution·2^k, formed exactly and rounded once. -/
def addScaled (cell v : Nat) (k : Int) : Nat :=
  match Fmt.f32.read v with
  | .fin n m e => (fadd Fmt.f32 Mode.rne 0 (Fmt.f32.read cell) (.fin n m (e + k))).bits
  | x => (fadd Fmt.f32 Mode.rne 0 (Fmt.f32.read cell) x).bits

/-- The listed words of a frame, each once: a word that lists no byte holds +0, which scaling leaves. -/
def frameWords (m : Memory) (frame : Nat) : List Nat :=
  ((m.filter (fun c => c.1 / 65536 == frame)).map (fun c => c.1 / 4)).foldl (fun ws w => if ws.head? = some w then ws else w :: ws) []

/-- Every cell of a frame is multiplied by 2^k. -/
def scaleFrame (m : Memory) (frame : Nat) (k : Int) : Memory :=
  (frameWords m frame).foldl (fun m w => m.write 4 (4 * w) (scaleF32 (m.read 4 (4 * w)) k)) m

/-- An accumulate of an epoch rescales the frame of its cell: the frame's tag has an older one (R311). -/
def rescales (tags : SMap (Word × Int)) (pa : Nat) (epoch : Word) : Bool :=
  match SMap.find tags (pa / 65536) with
  | none => false
  | some (p, _) => epoch != p && decide (0 < (epoch - p).toInt)

/-- The memory and the frame's tag after one accumulate into the cell at pa, with its epoch and scale exponent, as one update (R303, R311),
and whether the frame has been rescaled. -/
def accumulated (mem : Memory) (tags : SMap (Word × Int)) (pa : Nat) (v : Lane) (epoch : Word) (exp : Int) :
    Memory × SMap (Word × Int) × Bool :=
  let frame := pa / 65536
  match SMap.find tags frame with
  | none => (mem.write 4 pa (addScaled (mem.read 4 pa) v.toNat 0), SMap.set tags frame (epoch, exp), false)
  | some (p, f) =>
    if epoch = p then (mem.write 4 pa (addScaled (mem.read 4 pa) v.toNat 0), tags, false)
    else if 0 < (epoch - p).toInt then
      let m := scaleFrame mem frame (exp - f)
      (m.write 4 pa (addScaled (m.read 4 pa) v.toNat 0), SMap.set tags frame (epoch, exp), true)
    else (mem.write 4 pa (addScaled (mem.read 4 pa) v.toNat (f - exp)), tags, false)

/-- Held contributions in the order of R306: by source number, then by number within the source. -/
def insertHeld (h : Held) : List Held → List Held
  | [] => [h]
  | g :: gs => if h.source < g.source ∨ (h.source = g.source ∧ h.number < g.number) then h :: g :: gs else g :: insertHeld h gs

end Sys2Proof.Machine
end

