-- ==== Sys2Proof/Machine/Ops.lean ====
section
/-! DEFINITION. The named operations over the state: units and fields, the clock, registers and message queues, translation
and leases, memory on its paths, taking a trap and returning from one, and the ends of firings and tasks. -/

namespace Sys2Proof.Machine

/-! ## Units -/

def State.cluster (s : State) (cl : Nat) : Cluster := SMap.get s.clusters Cluster.reset cl
def State.setCluster (s : State) (cl : Nat) (c : Cluster) : State := { s with clusters := SMap.set s.clusters cl c }
def State.modCluster (s : State) (cl : Nat) (f : Cluster → Cluster) : State := s.setCluster cl (f (s.cluster cl))

def State.die (s : State) (d : Nat) : Die := SMap.get s.dies Die.reset d
def State.setDie (s : State) (d : Nat) (x : Die) : State := { s with dies := SMap.set s.dies d x }
def State.modDie (s : State) (d : Nat) (f : Die → Die) : State := s.setDie d (f (s.die d))

def State.task (s : State) (t : Nat) : Option Task := SMap.find s.fw.tasks t
def State.setTask (s : State) (t : Nat) (x : Task) : State := { s with fw := { s.fw with tasks := SMap.set s.fw.tasks t x } }
def State.modTask (s : State) (t : Nat) (f : Task → Task) : State :=
  match s.task t with
  | some x => s.setTask t (f x)
  | none => s

/-- The die of a cluster (R12). -/
def dieOf (cl : Nat) : Nat := cl / 64

/-- The task that owns a cluster. -/
def State.taskOf (s : State) (cl : Nat) : Option Task := (s.cluster cl).owner.bind s.task

/-- A configuration field of a unit (R59): element address and field number. -/
def Cluster.field (c : Cluster) (el f : Nat) : BitVec 16 := SMap.get c.cfg 0#16 (256 * el + f)
/-- The same as a number. -/
def Cluster.fieldN (c : Cluster) (el f : Nat) : Nat := (c.field el f).toNat

def Cluster.ce (c : Cluster) (n : Nat) : Ce := SMap.get c.ces Ce.reset n
def Cluster.setCe (c : Cluster) (n : Nat) (x : Ce) : Cluster := { c with ces := SMap.set c.ces n x }
def Cluster.ag (c : Cluster) (n : Nat) : Ag := SMap.get c.ags Ag.reset n
def Cluster.setAg (c : Cluster) (n : Nat) (x : Ag) : Cluster := { c with ags := SMap.set c.ags n x }
def Cluster.slot (c : Cluster) (n : Nat) : Slot := SMap.get c.slots Slot.reset n
def Cluster.setSlot (c : Cluster) (n : Nat) (x : Slot) : Cluster := { c with slots := SMap.set c.slots n x }
def Cluster.chan (c : Cluster) (port : Nat) : Option Chan := SMap.find c.chans port
def Cluster.setChan (c : Cluster) (port : Nat) (x : Chan) : Cluster := { c with chans := SMap.set c.chans port x }
def Cluster.queue (c : Cluster) (q : Nat) : List Cmd := SMap.get c.queues [] q
def Cluster.setQueue (c : Cluster) (q : Nat) (l : List Cmd) : Cluster := { c with queues := SMap.set c.queues q l }

/-- The firing of a context. -/
def State.firing (s : State) (cl ctx : Nat) : Option Firing := SMap.find (s.cluster cl).ctxs ctx
def State.setFiring (s : State) (cl ctx : Nat) (f : Firing) : State :=
  s.modCluster cl (fun c => { c with ctxs := SMap.set c.ctxs ctx f })
def State.delFiring (s : State) (cl ctx : Nat) : State :=
  s.modCluster cl (fun c => { c with ctxs := SMap.del c.ctxs ctx })

/-! ## Clock (log entries 1 and 2) -/

/-- The time-stamp counter (R15): 1 GHz against the 1.3 GHz clock. DESIGN CHOICE (log entry 4). -/
def State.tsc (s : State) : Nat := s.tscBase + s.now * 10 / 13

/-- Time reaches a cycle, if it lies ahead. DEDUCED (log entry 2). -/
def State.upTo (s : State) (cycle : Nat) : State := { s with now := Nat.max s.now cycle }

/-- The cycle of the next issue slot of a cluster's sequencer: one instruction in a cycle (R92). -/
def State.slotTime (s : State) (cl : Nat) : Nat := Nat.max s.now ((s.cluster cl).lastIssue + 1)

/-- One issue slot of a cluster's sequencer passes (R92). -/
def State.tick (s : State) (cl : Nat) : State :=
  let t := s.slotTime cl
  ({ s with now := t }).modCluster cl (fun c => { c with lastIssue := t })

/-- Flits of something are on the loops or bridges (R206). -/
def State.onWay (s : State) (x : Freight) : Bool := s.net.any (fun f => f.load == x)

/-- The hub as an access's place: what a request to it and its response are routed by. -/
def hubPlace : Nat := 562949953421312

/-- The request of an `ert.*` instruction has gone to the hub and acted there; a posted one awaits no answer (R298). -/
def State.askHub (s : State) (cl : Nat) (posted : Bool) : State := { s with asked := some (cl, hubPlace, posted) }

/-! ## Frames of the loops (R209) -/

/-- The priority class of the task that owns a cluster, BULK without one. DESIGN CHOICE (log entry 33). -/
def State.classAt (s : State) (cl : Nat) : Nat := ((s.taskOf cl).map (·.cls)).getD 3

/-- The number of the current frame, counted without end. -/
def State.frameNo (s : State) : Nat := s.now / Config.frameCycles

/-- A source stamps one flit: with the current frame until its quota is spent, then with the next, at most three ahead. -/
def Source.stampFlit (x : Source) (now quota : Nat) : Option (Nat × Source) :=
  let x0 : Source := if x.stamp < now then { stamp := now, spent := 0 } else x
  let x1 : Source := if x0.spent < quota then x0 else { stamp := x0.stamp + 1, spent := 0 }
  if x1.spent < quota ∧ x1.stamp < now + 4 then some (x1.stamp, { x1 with spent := x1.spent + 1 }) else none

/-- Stamps for n flits, or none while the source stalls. -/
def stampFlits (quota now : Nat) : Nat → Source → Option (List Nat × Source)
  | 0, x => some ([], x)
  | n + 1, x => match x.stampFlit now quota with
    | none => none
    | some (f, x1) => (stampFlits quota now n x1).map (fun r => (f :: r.1, r.2))

/-- The stamps that a source of a die has for n flits of a class. -/
def State.stampsOf (s : State) (die source cls n : Nat) : Option (List Nat × Source) :=
  stampFlits ((s.die die).quota.getD cls 0) s.frameNo n (SMap.get (s.die die).sources { stamp := 0, spent := 0 } source)

/-- The stop of a cluster has no stamp for n more flits: it sends nothing until the frame advances. -/
def State.stopStalls (s : State) (cl n : Nat) : Bool := (s.stampsOf (dieOf cl) (cl % 64) (s.classAt cl) n).isNone

/-- A packet of frame a beats one of frame b. -/
def beatsFrame (a b : Nat) : Bool := decide (1 ≤ (b + 8 - a % 8) % 8) && decide ((b + 8 - a % 8) % 8 ≤ 3)

/-- A unit of a cluster, a firing context or 4 and the name of a running command, waits for the request or the response of the access it has
made, or for its packet to reach the hub. -/
def State.rides (s : State) (cl unit : Nat) : Bool :=
  s.onWay (.request cl unit) || s.onWay (.response cl unit) || (decide (4 ≤ unit) && s.onWay (.command cl (unit - 4)))

/-- A fresh name for a request or a command. -/
def State.fresh (s : State) : Nat × State := (s.nextId, { s with nextId := s.nextId + 1 })

/-- A free value (DESIGN CHOICE, log entry 12). -/
def State.free (s : State) : Word × State := (Config.freeWord s.freeCtr, { s with freeCtr := s.freeCtr + 1 })

/-! ## The outcome of an instruction's body -/

/-- What a trap record says beyond the firing (Table 19.3). -/
structure TrapInfo where
  cause : Cause
  addr : Word
  aux : Word
  level : Nat
  deriving DecidableEq, Repr

def trapOf (cause : Cause) (addr : Word) : TrapInfo := { cause := cause, addr := addr, aux := 0#64, level := 0 }

/-- The outcome of a part of an instruction: it goes on with a value; it blocks, having done nothing or having changed the
state; it raises a fault before any effect (R138); or it ends the task. -/
inductive Res (α : Type) where
  | ok (a : α) (s : State)
  | stall
  | stallIn (s : State)
  | trap (t : TrapInfo)
  | kill (c : Cause)
  | abort (c : Cause)
  /-- the budget ends at a cycle, before a load's value returns (R95) -/
  | cut (cycle : Nat)

def Res.bind {α β : Type} (r : Res α) (f : α → State → Res β) : Res β :=
  match r with
  | .ok a s => f a s
  | .stall => .stall
  | .stallIn s => .stallIn s
  | .trap t => .trap t
  | .kill c => .kill c
  | .abort c => .abort c
  | .cut n => .cut n

/-! ## Message queues and registers (R74, R97) -/

/-- Flits waiting for a queue: those in its buffer, and those on their way, which count against its four places too. DESIGN CHOICE (log
entry 48): R97 blocks a write while the buffer is full, and says nothing of flits still on their way. -/
def State.queued (s : State) (b : Bind) : Nat :=
  (SMap.get (s.cluster b.cl).qbufs [] (4 * b.slot + b.qn)).length
    + (s.flits.filter (fun f => f.toCl == b.cl && f.toSlot == b.slot && f.qn == b.qn)).length

/-- Takes a flit from a queue of the firing's slot. -/
def readQ (cl slot q : Nat) (s : State) : Res Word :=
  match SMap.find ((s.cluster cl).slot slot).binds q with
  | none => .trap (trapOf Cause.seqQueue 0#64)
  | some _ =>
    match SMap.get (s.cluster cl).qbufs [] (4 * slot + q) with
    | [] => .stall
    | v :: rest => .ok v (s.modCluster cl (fun c => { c with qbufs := SMap.set c.qbufs (4 * slot + q) rest }))

/-- Sends a flit to where a queue of the firing's slot is bound. -/
def writeQ (cl slot q : Nat) (v : Word) (s : State) : Res Unit :=
  match SMap.find ((s.cluster cl).slot slot).binds q with
  | none => .trap (trapOf Cause.seqQueue 0#64)
  | some b =>
    if s.queued b < 4 then
      .ok () { s with flits := s.flits ++ [{ fromCl := cl, fromSlot := slot, toCl := b.cl, toSlot := b.slot, qn := b.qn, v := v }] }
    else .stall

/-- Reads the register of a 6-bit code (Table 4.9). -/
def rd (cl ctx : Nat) (r : Reg) (s : State) : Res Word :=
  match s.firing cl ctx with
  | none => .stall
  | some f =>
    let n := r.toNat
    if n = 0 then .ok 0#64 s
    else if n < 32 then .ok (f.s.toList.getD n 0#64) s
    else if n < 48 then .ok ((((s.cluster cl).slot f.slot).k).toList.getD (n - 32) 0#64) s
    else if n < 52 then readQ cl f.slot (n - 48) s
    else if n = 52 then .ok f.sp s
    else .trap (trapOf Cause.seqIll 0#64)

/-- Writes the register of a 6-bit code (Table 4.9). -/
def wr (cl ctx : Nat) (r : Reg) (v : Word) (s : State) : Res Unit :=
  match s.firing cl ctx with
  | none => .stall
  | some f =>
    let n := r.toNat
    if n = 0 then .ok () s
    else if n < 32 then .ok () (s.setFiring cl ctx { f with s := f.s.setIfInBounds n v })
    else if n < 48 then
      .ok () (s.modCluster cl (fun c =>
        c.setSlot f.slot { c.slot f.slot with k := (c.slot f.slot).k.setIfInBounds (n - 32) v }))
    else if n < 52 then writeQ cl f.slot (n - 48) v s
    else if n = 52 then .ok () (s.setFiring cl ctx { f with sp := v })
    else .trap (trapOf Cause.seqIll 0#64)

/-- Reads two registers, a before b (R74). -/
def rd2 (cl ctx : Nat) (a b : Reg) (s : State) : Res (Word × Word) :=
  (rd cl ctx a s).bind (fun x s1 => (rd cl ctx b s1).bind (fun y s2 => .ok (x, y) s2))

/-! ## Physical addresses (R210, R241) -/

/-- PA[51:48]. -/
def regionOf (pa : Nat) : Nat := pa / 281474976710656 % 16

/-- A region-%0001 address that names this package is the region-%0000 address of the same offset. DESIGN CHOICE (log entry 8). -/
def homePa (pa : Nat) : Nat :=
  if regionOf pa = 1 ∧ bitsAt pa 39 9 = Config.packageNumber then bitsAt pa 0 39 else pa

/-- The address lies in a region that memory may occupy and below its limit. DEDUCED (log entry 9). -/
def paOk (pa : Nat) : Bool :=
  match regionOf pa with
  | 0 => decide (bitsAt pa 0 48 < Config.hbmLimit)
  | 1 => decide (bitsAt pa 0 39 < Config.hbmLimit)
  | 2 => true
  | 3 => true
  | _ => false

/-- The die a line of this package's HBM is homed on (R210); none for what lies elsewhere. -/
def homeDie (pa : Nat) : Option Nat :=
  if regionOf pa = 0 then some (pa / Config.stackBytes / 2) else none

/-! ## Page walks (R243 to R245) -/

/-- A translation fault: cause, level and PA of the entry. -/
structure XFault where
  cause : Cause
  level : Nat
  epa : Nat
  deriving DecidableEq, Repr

/-- Base-2 logarithm of the bytes a leaf of a level maps. -/
def leafShift (level : Nat) : Nat := if level = 1 then 12 else if level = 2 then 21 else 30

/-- The reserved-bit rules of an entry at a level (R243, step 2). -/
def pteReserved (e level : Nat) : Bool :=
  let l := bitAt e 1
  decide (bitsAt e 52 12 ≠ 0 ∨ bitsAt e 5 7 ≠ 0)
    || (!l && decide (bitsAt e 2 3 ≠ 0))
    || (decide (level ≠ 1) && l && bitAt e 3)
    || (decide (level = 1) && !l) || (decide (4 ≤ level) && l)
    || (l && decide (level ≤ 3) && decide (bitsAt e 12 (leafShift level - 12) ≠ 0))

/-- The frame or table address of an entry: ADDR, PA[51:12]. -/
def pteAddr (e : Nat) : Nat := bitsAt e 12 40 * 4096

/-- The 16 entries of a leaf's line form one 64 KiB translation (R244). -/
def contiguous (mem : Memory) (lineEpa : Nat) : Bool :=
  let es := (List.range 16).map (fun k => mem.read 8 (lineEpa + 8 * k))
  let e0 := es.getD 0 0
  decide (pteAddr e0 % 65536 = 0) &&
  (List.range 16).all (fun k =>
    let e := es.getD k 0
    bitAt e 0 && bitAt e 1 && bitAt e 3 && !pteReserved e 1 && (bitAt e 2 == bitAt e0 2) && (bitAt e 4 == bitAt e0 4)
      && pteAddr e == pteAddr e0 + 4096 * k)

/-- The uncorrectable error of a line of HBM: in its home L2 (R217), or in the stack (R242). -/
def State.lineError (s : State) (pa : Nat) : Option Cause :=
  if s.ecc.contains (pa / 128) then some Cause.errEcc
  else if s.poison.contains (pa / 128) then some Cause.errHbm
  else none

/-- The walk from a table of a level down (R243): the pointers it read and the leaf it reached. An entry on a line with an
uncorrectable error meets that error (R217, R242). -/
def walkFrom (mem : Memory) (err : Nat → Option Cause) (root va : Nat) : Nat → Nat → List Ptr → Except XFault (Leaf × List Ptr)
  | 0, _, _ => .error { cause := Cause.xlateRsvd, level := 0, epa := 0 }
  | level + 1, table, ps =>
    let lv := level + 1
    let epa := table + 8 * bitsAt va (12 + 9 * level) 9
    let e := mem.read 8 epa
    if let some c := err epa then .error { cause := c, level := lv, epa := epa }
    else if !bitAt e 0 then .error { cause := Cause.xlateNp, level := lv, epa := epa }
    else if pteReserved e lv then .error { cause := Cause.xlateRsvd, level := lv, epa := epa }
    else if bitAt e 1 then
      let sh := leafShift lv
      if lv = 1 ∧ bitAt e 3 ∧ contiguous mem (epa / 128 * 128) then
        .ok ({ root := root, va := va / 65536 * 65536, size := 65536, pa := pteAddr e / 65536 * 65536, w := bitAt e 2,
               ms := bitAt e 4, level := lv, epa := epa / 128 * 128 }, ps)
      else
        .ok ({ root := root, va := va / 2 ^ sh * 2 ^ sh, size := 2 ^ sh, pa := pteAddr e, w := bitAt e 2, ms := bitAt e 4,
               level := lv, epa := epa }, ps)
    else if regionOf (pteAddr e) ≠ 0 ∨ Config.hbmLimit ≤ pteAddr e then
      .error { cause := Cause.xlatePa, level := lv, epa := epa }
    else
      walkFrom mem err root va level (pteAddr e)
        ({ root := root, level := lv, prefx := va / 2 ^ (12 + 9 * level), table := pteAddr e } :: ps)

/-- The deepest cached pointer that covers an address: the level to go on with and the table. -/
def deepestPtr (ps : List Ptr) (root va : Nat) : Nat × Nat :=
  let hit := fun lv => ps.find? (fun p => p.root == root && p.level == lv && p.prefx == va / 2 ^ (12 + 9 * (lv - 1)))
  match hit 2 with
  | some p => (1, p.table)
  | none => match hit 3 with
    | some p => (2, p.table)
    | none => match hit 4 with
      | some p => (3, p.table)
      | none => match hit 5 with
        | some p => (4, p.table)
        | none => (5, root)

/-- The PA of the leaf entry of an address: of its own entry where sixteen form one translation (R244). -/
def Leaf.entry (lf : Leaf) (va : Nat) : Nat := if lf.size = 65536 then lf.epa + 8 * ((va - lf.va) / 4096) else lf.epa

/-- A translated address: PA, memory-side, and the state with the walk caches filled. -/
structure Xlated where
  pa : Nat
  ms : Bool
  s : State

/-- The pointer cache keeps the newest 64 entries of each of levels 5 to 2 (R245). -/
def keepPtrs (ps : List Ptr) : List Ptr :=
  [5, 4, 3, 2].flatMap (fun lv => (ps.filter (fun p => p.level == lv)).take Config.ptrEntries)

/-- Translates a virtual address on a die for a root table, for a read or a write. -/
def translate (s : State) (die root : Nat) (va : Nat) (write : Bool) : Except XFault Xlated :=
  if 144115188075855872 ≤ va then .error { cause := Cause.xlateRange, level := 0, epa := 0 }
  else
    let d := s.die die
    let finish := fun (lf : Leaf) (s' : State) =>
      let pa := lf.pa + (va - lf.va)
      if write && !lf.w then Except.error { cause := Cause.xlatePerm, level := lf.level, epa := lf.entry va }
      else if !paOk pa then Except.error { cause := Cause.xlatePa, level := lf.level, epa := lf.entry va }
      else Except.ok { pa := homePa pa, ms := lf.ms, s := s' }
    match d.leafs.find? (fun l => l.root == root && decide (l.va ≤ va) && decide (va < l.va + l.size)) with
    | some lf => finish lf s
    | none =>
      let (lv, table) := deepestPtr d.ptrs root va
      match walkFrom s.mem s.lineError root va lv table [] with
      | .error f => .error f
      | .ok (lf, ps) => finish lf (s.setDie die { d with leafs := (lf :: d.leafs).take Config.leafEntries, ptrs := keepPtrs (ps ++ d.ptrs) })

/-- The entries of a root that map a byte of [lo, hi) go, on every die. -/
def dropWalks (s : State) (root lo hi : Nat) : State :=
  let meet := fun (a n : Nat) => decide (lo < hi) && decide (a < hi) && decide (lo < a + n)
  { s with dies := s.dies.map (fun (k, d) =>
      (k, { d with leafs := d.leafs.filter (fun l => !(l.root == root && meet l.va l.size)),
                   ptrs := d.ptrs.filter (fun p => !(p.root == root && meet (p.prefx * 2 ^ (12 + 9 * (p.level - 1))) (2 ^ (12 + 9 * (p.level - 1))))) })) }

/-- What a translation fault makes of an access at a virtual address: an uncorrectable error aborts the gang (R242), any other
suspends the firing with its level and entry PA (R254). -/
def XFault.res {α : Type} (f : XFault) (va : Nat) : Res α :=
  if Cause.classOf f.cause = 10 then .abort f.cause
  else .trap { cause := f.cause, addr := BitVec.ofNat 64 va, aux := BitVec.ofNat 64 f.epa, level := f.level }

/-- The leaf and PA of a virtual address, from the page tables in memory. -/
def walkVa (s : State) (root va : Nat) : Except XFault (Leaf × Nat) :=
  if 144115188075855872 ≤ va then .error { cause := Cause.xlateRange, level := 0, epa := 0 }
  else match walkFrom s.mem s.lineError root va 5 root [] with
  | .error f => .error f
  | .ok (lf, _) =>
    let pa := lf.pa + (va - lf.va)
    if paOk pa then .ok (lf, homePa pa) else .error { cause := Cause.xlatePa, level := lf.level, epa := lf.entry va }

/-! ## Leases (R250, R251) -/

/-- The n bytes at va lie wholly inside one lease range that is not windowed. -/
def Task.leased (t : Task) (va n : Nat) : Bool :=
  t.leases.any (fun l => l.window == 0 && decide (l.base ≤ va) && decide (va + n ≤ l.base + l.size))

/-- n bytes at pa meet the expert pool, which lies in no lease: a flat access there ends the task with LEASE.OUT (R287, R290). -/
def State.inPool (s : State) (pa n : Nat) : Bool :=
  decide (s.hub.poolBase < pa + n) && decide (pa < s.hub.poolBase + s.hub.poolSize)

/-- No port reaches the package that an address of another package's HBM names (R319). -/
def State.cutOff (s : State) (pa : Nat) : Bool := regionOf pa == 1 && decide (16 ≤ s.hub.linkDown.length)

/-- Translates and then checks an access of the sequencer of a cluster (R146, R250, R319). A cluster without a task has no root
table: nothing is mapped. DEDUCED (log entry 9). -/
def sqAddress (cl : Nat) (va n : Nat) (write : Bool) (s : State) : Res (Nat × Bool) :=
  match s.taskOf cl with
  | none => .trap (trapOf Cause.xlateNp (BitVec.ofNat 64 va))
  | some t =>
    match translate s (dieOf cl) t.root va write with
    | .error f => f.res va
    | .ok x =>
      if !t.leased va n || x.s.inPool x.pa n then .kill Cause.leaseOut
      else if x.s.cutOff x.pa then .trap (trapOf Cause.linkDown (BitVec.ofNat 64 va))
      else .ok (x.pa, x.ms) x.s

/-! ## Batches (R213, R220) -/

/-- An entry of a vector of dies, and the greater of two vectors entry by entry. -/
def clockAt (v : List Lane) (k : Nat) : Lane := v.getD k 0#32
def clockMax (v w : List Lane) : List Lane :=
  (List.range 4).map (fun k => if (clockAt v k).toNat < (clockAt w k).toNat then clockAt w k else clockAt v k)

/-- The die may serve reads from its RDC: A_d ≥ D_d (R220). -/
def Die.current (d : Die) : Bool := (List.range 4).all (fun k => decide ((clockAt d.dVec k).toNat ≤ (clockAt d.aVec k).toNat))

/-- A die depends on a vector of batches: D_d takes the greater entries (R213). -/
def State.dependOn (s : State) (die : Nat) (v : List Lane) : State := s.modDie die (fun d => { d with dVec := clockMax d.dVec v })

/-- The batch that a table records at a key raises its die's entry of D_d. -/
def State.learnAt (s : State) (die : Nat) (m : SMap (Nat × Lane)) (k : Nat) : State :=
  match SMap.find m k with
  | some b => s.dependOn die (zeroClock.set b.1 b.2)
  | none => s

/-- What a read of n bytes depends on, by a table of what each byte does. -/
def wrote (m : SMap (List Lane)) (pa n : Nat) : List Lane :=
  (List.range n).foldl (fun v k => clockMax v (SMap.get m zeroClock (pa + k))) zeroClock

/-- A read of n bytes depends on the writes they hold (rf, so and CAU of R223 to R225). DEDUCED (log entry 6). -/
def State.learnFrom (s : State) (die : Nat) (m : SMap (List Lane)) (pa n : Nat) : State := s.dependOn die (wrote m pa n)

/-- A read of n bytes of a line at its home brings the batch of the line's tag into D_d (R213), and those of the writes it reads from.
Only lines of this package's HBM have any. -/
def State.learn (s : State) (die pa n : Nat) : State :=
  if regionOf pa = 0 then (s.learnAt die s.stamps (pa / 128)).learnFrom die s.writers pa n else s

/-- The lines that n bytes at pa meet. -/
def linesOf (pa n : Nat) : List Nat := (List.range ((pa + n - 1) / 128 + 1 - pa / 128)).map (fun k => pa / 128 + k)

/-- The home records a write's batch in the tag of each of its lines (R213), and with its bytes, beside what `v` says that it has read. -/
def State.record (s : State) (b : Nat × Lane) (v : List Lane) (pa n : Nat) : State :=
  if regionOf pa = 0 then
    { s with stamps := (linesOf pa n).foldl (fun m l => SMap.set m l b) s.stamps,
             writers := (List.range n).foldl (fun m k => SMap.set m (pa + k) (clockMax v (zeroClock.set b.1 b.2))) s.writers }
  else s

/-- Closes the open batch of a die. -/
def closeBatch (s : State) (die : Nat) : State :=
  s.modDie die (fun d => match d.batch with
    | some b => { d with batch := none, closed := d.closed ++ [b] }
    | none => d)

/-- The lines of a batch once others have joined. -/
def joinedLines (old ls : List Nat) : List Nat := ls.foldl (fun xs l => if xs.contains l then xs else xs ++ [l]) old

/-- The clock of a batch has all that its die has come to depend on. -/
def Batch.covers (b : Batch) (die : Nat) (dep : List Lane) : Bool :=
  (List.range 4).all (fun k => k == die || decide ((clockAt dep k).toNat ≤ (clockAt b.clock k).toNat))

/-- Adds the lines of one write to the die's open batch, opening one where none is open, and closes it with its seventh line: a write
of several lines is one event, and belongs to one batch, so that one which it would fill past its seventh line closes first. A batch older
than 32 cycles has closed; one that opened before its die came to depend on a batch that its clock lacks closes too, since the CAU axiom
places what its die has read before the write. DEDUCED (log entry 10). -/
def joinLines (s : State) (die : Nat) (task : Option Nat) (ls : List Nat) : (Nat × Lane) × State :=
  let s1 := match (s.die die).batch with
    | some b => if b.since + 32 ≤ s.now ∨ 7 < (joinedLines b.lines ls).length ∨ !b.covers die (s.die die).dVec then closeBatch s die else s
    | none => s
  let d := s1.die die
  let d1 := match d.batch with
    | some _ => d
    | none =>
      let n := clockAt d.aVec die + 1#32
      { d with aVec := d.aVec.set die n, batch := some { num := n, clock := d.dVec.set die n, lines := [], since := s1.now, task := task } }
  match d1.batch with
  | none => ((die, 0#32), s1)
  | some b =>
    let b1 := { b with lines := joinedLines b.lines ls }
    let s2 := s1.setDie die { d1 with batch := some b1 }
    ((die, b.num), if 7 ≤ b1.lines.length then closeBatch s2 die else s2)

/-! ## The L2 (R210, R217) -/

/-- The slice of a line of HBM, which is also the die index of the cluster at its stop, and the set in it. -/
def sliceOf (pa : Nat) : Nat := bitsAt pa 16 6 ^^^ bitsAt pa 22 6
def l2Set (pa : Nat) : Nat := bitsAt pa 7 10

/-- The stop at which a line of HBM is served: its home die, and its slice there (R210). -/
def homeStop (pa : Nat) : Option (Nat × Nat) := (homeDie pa).map (fun d => (d, sliceOf pa))

/-- The cluster's own slice serves a line: a message to it enters no loop (R205). -/
def ownSlice (cl pa : Nat) : Bool := homeStop pa == some (dieOf cl, cl % 64)

/-- Requests of a cluster's stop for two addresses go to one other stop, where they arrive in sending order (R205, R215). -/
def samePath (cl a b : Nat) : Bool :=
  match homeStop a, homeStop b with
  | some x, some y => x == y && x != (dieOf cl, cl % 64)
  | _, _ => false

/-- The pseudo-channel of the line's stack. -/
def pseudoChannel (pa : Nat) : Nat := 3 * (sliceOf pa % 32) + bitsAt pa 7 29 % 3

/-- Ways of a slice that PINW leaves to replacement (R176). -/
def State.freeWays (s : State) (die slice : Nat) : Nat := 16 - (s.cluster (64 * die + slice)).fieldN 0x21 1 % 8

/-- A line passes its home slice: it is the last used of its set; a write leaves it dirty; the least recently used line of the ways
that PINW leaves is written back and goes, and pinned lines stay. Memory-side lines and lines outside this package's HBM are never in an L2. -/
def l2Touch (s : State) (pa : Nat) (ms write : Bool) : State :=
  match homeDie pa with
  | some die =>
    if ms then s
    else
      let slice := sliceOf pa
      let key := 1024 * slice + l2Set pa
      let ways := SMap.get (s.die die).l2 [] key
      let dirty := write || ways.any (fun x => x.line == pa / 128 && x.dirty)
      let others := ways.filter (fun x => x.line != pa / 128)
      let pin := (ways.find? (fun x => x.line == pa / 128)).bind (·.pin)
      let own : L2Line := { line := pa / 128, dirty := dirty, pin := pin }
      let pinned := others.filter (fun x => x.pin.isSome)
      let rest := others.filter (fun x => x.pin.isNone)
      let room := Nat.min (s.freeWays die slice) (16 - pinned.length)
      let kept := if pin.isSome then own :: pinned ++ rest.take (15 - pinned.length) else (own :: rest).take room ++ pinned
      s.modDie die (fun d => { d with l2 := SMap.set d.l2 key kept })
  | none => s

/-- A line that tile fetch brings in is pinned for its command, while the slice has a pinned way free in its set (R176). -/
def l2Pin (s : State) (pa id : Nat) : State :=
  match homeDie pa with
  | some die =>
    let slice := sliceOf pa
    let key := 1024 * slice + l2Set pa
    s.modDie die (fun d =>
      let ways := SMap.get d.l2 [] key
      if (ways.filter (fun x => x.pin.isSome)).length + s.freeWays die slice < 16 then
        { d with l2 := SMap.set d.l2 key (ways.map (fun x => if x.line == pa / 128 then { x with pin := some id } else x)) }
      else d)
  | none => s

/-- The lines pinned for a command are pinned no longer. -/
def l2Unpin (s : State) (id : Nat) : State :=
  { s with dies := s.dies.map (fun d => (d.1, { d.2 with l2 := d.2.l2.map (fun e =>
      (e.1, e.2.map (fun x => if x.pin = some id then { x with pin := none } else x))) })) }

/-- A near-memory operation passes the home slice: a dirty copy is written back, a clean one goes (the ATOM axiom). -/
def l2Drop (s : State) (pa : Nat) : State :=
  match homeDie pa with
  | some die => s.modDie die (fun d =>
      let key := 1024 * sliceOf pa + l2Set pa
      { d with l2 := SMap.set d.l2 key ((SMap.get d.l2 [] key).filter (fun x => x.line != pa / 128)) })
  | none => s

/-! ## Memory at its home and in the RDC (R212, R220) -/

/-- The bytes of a line with some replaced. -/
def patchLine (b : Beat) (off : Nat) (bytes : List Byte) : Beat :=
  Beat.ofBytes ((b.toBytes.take off) ++ bytes.take (128 - off) ++ (b.toBytes.drop (off + bytes.length)))

/-- A die's RDC copy of a line, if there is one, takes the bytes. -/
def patchRdc (s : State) (die pa : Nat) (bytes : List Byte) : State :=
  match SMap.find (s.die die).rdc (pa / 128) with
  | none => s
  | some b => s.modDie die (fun d => { d with rdc := SMap.set d.rdc (pa / 128) (patchLine b (pa % 128) bytes),
                                              rdcFrom := d.rdcFrom.filter (fun x => !(decide (pa ≤ x.1) && decide (x.1 < pa + bytes.length))) })

/-- The bytes of two ranges meet. -/
def meets (a n b m : Nat) : Bool := decide (a < b + m) && decide (b < a + n)

/-- A die's copy of a line takes the bytes of a write, but for those that a write of the die still on its way has already put
there (COH: a copy never goes back to an older write). DEDUCED (log entry 6). -/
def patchOlder (s : State) (die pa : Nat) (bytes : List Byte) : State :=
  ((List.range bytes.length).zip bytes).foldl (fun s x =>
    if s.inflight.any (fun p => p.shown && dieOf p.cl == die && meets p.pa p.bytes.length (pa + x.1) 1) then s
    else patchRdc s die (pa + x.1) [x.2]) s

/-- A die's own RDC copy of a line goes: a near-memory operation of that die changes the line at its home (R220, R226). DEDUCED (log entry 10). -/
def dropRdc (s : State) (die line : Nat) : State := s.modDie die (fun d => { d with rdc := SMap.del d.rdc line })

/-- The same for several lines. -/
def dropRdcs (s : State) (die : Nat) (ls : List Nat) : State := ls.foldl (fun s l => dropRdc s die l) s

/-- A line leaves the RDC of every die. -/
def dropEverywhere (s : State) (line : Nat) : State :=
  { s with dies := s.dies.map (fun d => (d.1, { d.2 with rdc := SMap.del d.2.rdc line })) }

/-- A line leaves the RDC of every die but one. -/
def dropOthers (s : State) (die line : Nat) : State :=
  { s with dies := s.dies.map (fun d => (d.1, if d.1 = die then d.2 else { d.2 with rdc := SMap.del d.2.rdc line })) }

/-- A posted write takes effect at its home (R220): memory, the line's tag, and the issuing die's own copy. A write to a host line is
performed once the host reports it globally observed: no other die's RDC then keeps the old line (R316). -/
def applyReq (s : State) (r : MemReq) : State :=
  let s0 := if regionOf r.pa = 3 then dropOthers s (dieOf r.cl) (r.pa / 128) else s
  let s1 := { s0 with mem := s0.mem.writeBytes r.pa r.bytes }
  let s2 := match r.batch with
    | some b => s1.record b zeroClock r.pa r.bytes.length
    | none => s1
  patchOlder (l2Touch s2 r.pa r.ms true) (dieOf r.cl) r.pa r.bytes

/-! ## Lines that the host may hold (R317) -/

/-- The host may hold a line that n bytes of HBM meet: a device write there waits for the answer to the hub's snoop. -/
def State.hostHolds (s : State) (pa n : Nat) : Bool := s.hostLines.any (fun l => meets (128 * l) 128 pa n)

/-- Some lines are the host's no longer. -/
def State.hostDrops (s : State) (ls : List Nat) : State :=
  { s with hostLines := s.hostLines.filter (fun l => !ls.contains l), snoops := s.snoops.filter (fun l => !ls.contains l) }

/-- A held contribution to a cell that n bytes at pa meet. -/
def Held.on (pa n : Nat) (h : Held) : Bool := decide (h.pa < pa + n) && decide (pa < h.pa + 4)

/-- What is held for n bytes at pa may be applied: the host may hold no line of its frames, all of which a new scale writes (R306, R311,
R317). -/
def State.heldOpen (s : State) (pa n : Nat) : Bool :=
  !(s.held.any (fun h => h.on pa n && s.hostHolds (h.pa / 65536 * 65536) 65536))

/-- What a read of memory gives. -/
inductive MRes where
  | ok (bytes : List Byte) (s : State)
  | stall
  | trap (c : Cause)
  | abort (c : Cause)

/-- The poison a line carries, as the region's fault (R217, R242, R318). DEDUCED (log entry 9). -/
def lineFault (s : State) (pa : Nat) : Option MRes :=
  if regionOf pa = 2 ∧ s.poison.contains (pa / 128) then some (.trap Cause.cxlPoison)
  else if let some c := s.lineError pa then some (.abort c)
  else if s.cutOff pa then some (.trap Cause.linkDown)
  else none

/-- The bank and set of a line in an RDC (R212): 64 banks of 256 sets. DEDUCED (log entry 10). -/
def rdcSet (line : Nat) : Nat := 256 * sliceOf (128 * line) + line % 256

/-- Installs a line in an RDC: a set that already holds 16 lines loses one of them silently (R212). DESIGN CHOICE (log entry 40). -/
def rdcInstall (m : SMap Beat) (line : Nat) (b : Beat) : SMap Beat :=
  let mates := m.filter (fun x => rdcSet x.1 == rdcSet line && x.1 != line)
  let m1 := if 16 ≤ mates.length then SMap.del m ((mates.map (·.1)).headD 0) else m
  SMap.set m1 line b

/-- A fill from the home: the line, with the batches of the writes its bytes hold. -/
def fillRdc (s : State) (die line : Nat) : State :=
  s.modDie die (fun d => { d with
    rdc := rdcInstall d.rdc line (s.mem.readBeat (128 * line)),
    rdcFrom := (s.writers.filter (fun x => x.1 / 128 == line)).foldl (fun m x => SMap.set m x.1 x.2)
      (d.rdcFrom.filter (fun x => x.1 / 128 != line)) })

/-- A write of the die to the line, already in a copy of the die's RDC that has gone, is still on its way: a read at the home waits
for it, or a unit of the die could see the write and then its absence (COH). DEDUCED (log entry 6). -/
def State.shownAway (s : State) (die line : Nat) : Bool :=
  s.inflight.any (fun r => r.shown && dieOf r.cl == die && r.pa / 128 == line)

/-- The notices that have come to a die: those whose flit is on no bridge. -/
def State.atDie (s : State) (die : Nat) : List Notice :=
  (s.die die).notices.filter (fun n => !s.onWay (.notice n.src (clockAt n.clock n.src).toNat die))

/-- A notice from another die waits at the bridge, its flit or what has come without one, the notice buffer being full: nothing else passes
there on virtual channel 1 (R214). -/
def State.heldBack (s : State) (die src : Nat) : Bool :=
  src != die && (((s.atDie die).drop Config.noticeEntries).any (fun n => n.src == src)
    || (decide (Config.noticeEntries ≤ (s.atDie die).length)
        && (s.die die).notices.any (fun n => n.src == src && s.onWay (.notice src (clockAt n.clock src).toNat die))))

/-- Writes that a firing has read in the RDC of its die and that have not reached their home (R223). DEDUCED (log entry 6). -/
def State.unseen (s : State) (cl ctx : Nat) : List Nat :=
  (((s.firing cl ctx).map (·.saw)).getD []).filter (fun id => s.inflight.any (fun r => r.id == id))

/-- What a post of a context comes behind. -/
def State.behind (s : State) (cl : Nat) (ctx : Option Nat) : List Nat :=
  match ctx with
  | some k => s.unseen cl k
  | none => []

/-- What a store of a cluster's sequencer to some bytes comes behind beside: the writes to them that its firings have read (COH). -/
def State.cohBehind (s : State) (cl : Nat) (rs : List (Nat × Nat)) : List Nat :=
  (s.cluster cl).readBefore.filter (fun id => s.inflight.any (fun r => r.id == id && rs.any (fun x => meets r.pa r.bytes.length x.1 x.2)))

/-- Posts a write of bytes of one line (R147, R212, R213). Source 0 is the sequencer. DEDUCED (log entry 6). DEDUCED (log entry 10). -/
def postWrite (cl src : Nat) (cmd ctx : Option Nat) (pa : Nat) (ms : Bool) (bytes : List Byte) (s : State) : State :=
  let s1 := patchRdc s (dieOf cl) pa bytes
  let (b, s2) := if regionOf pa = 3 then (none, s1) else match joinLines s1 (dieOf cl) (s.cluster cl).owner [pa / 128] with | (b, s2) => (some b, s2)
  let r : MemReq :=
    { id := s.nextId, cl := cl, src := src, cmd := cmd, pa := pa, ms := ms, bytes := bytes, batch := b,
      shown := (SMap.find (s.die (dieOf cl)).rdc (pa / 128)).isSome, ctx := ctx, task := (s.cluster cl).owner,
      after := s.behind cl ctx ++ (if src = 0 then s.cohBehind cl [(pa, bytes.length)] else []), frame := none }
  { s2 with inflight := s2.inflight ++ [r], nextId := s.nextId + 1 }

/-- Bytes of an operand type of Table 15.7. -/
def nmSize (ty : Nat) : Nat := if ty = 2 ∨ ty = 3 then 8 else 4

/-- The ranges of bytes an operation at pa acts on: both copies of a paired store, a taped write's beat, header and payload. -/
def NmKind.ranges (k : NmKind) (pa : Nat) : List (Nat × Nat) :=
  match k with
  | .rmw _ ty _ => [(pa, nmSize ty)]
  | .sig _ => [(pa, 8)]
  | .pair pa2 bs => [(pa, bs.length), (pa2, bs.length)]
  | .taped _ hdrPa payPa _ => [(pa, 128), (payPa, 128), (hdrPa, 16)]
  | .mark _ => [(pa, 16)]
  | .acc .. => [(pa, 4)]
  | .restore .. => [(pa, 128)]

def NmOp.ranges (o : NmOp) : List (Nat × Nat) := o.kind.ranges o.pa

/-- The lines of some ranges. -/
def rangeLines (rs : List (Nat × Nat)) : List Nat := rs.flatMap (fun r => linesOf r.1 r.2)

/-- The lines of some ranges join one batch of a cluster's die, whose RDC keeps no copy of them (R213, R220). -/
def joinRanges (cl : Nat) (rs : List (Nat × Nat)) (s : State) : (Nat × Lane) × State :=
  joinLines (dropRdcs s (dieOf cl) (rangeLines rs)) (dieOf cl) (s.cluster cl).owner (rangeLines rs)

/-- A store of the sequencer makes it: a taped write or a restore (R303, R304). -/
def NmKind.stores : NmKind → Bool
  | .taped .. => true
  | .restore .. => true
  | _ => false

/-- Posts a near-memory operation (R226): its lines join a batch of its die. DEDUCED (log entry 6). -/
def postNm (cl : Nat) (cmd ctx : Option Nat) (pa : Nat) (k : NmKind) (s : State) : State :=
  let (b, s2) := joinRanges cl (k.ranges pa) s
  let o : NmOp := { id := s.nextId, cl := cl, cmd := cmd, pa := pa, kind := k, batch := b, ctx := ctx, task := (s.cluster cl).owner,
                    after := s.behind cl ctx ++ (if cmd.isNone && k.stores then s.cohBehind cl (k.ranges pa) else []), frame := none }
  { s2 with nmops := s2.nmops ++ [o], nextId := s.nextId + 1 }

/-- Ranges as they are updated at their home at once (R226): they join a batch, no copy of them stays in an L2 (the ATOM axiom), and the
home records the batch. -/
def nmJoin (cl : Nat) (rs : List (Nat × Nat)) (s : State) : State :=
  let (b, s1) := joinRanges cl rs s
  rs.foldl (fun s r => s.record b (wrote s.writers r.1 r.2) r.1 r.2) ((rangeLines rs).foldl (fun s l => l2Drop s (128 * l)) s1)

/-- Stores and near-memory operations of a firing that have not retired (R138). -/
def State.outstanding (s : State) (cl ctx : Nat) : Nat :=
  (s.inflight.filter (fun r => r.cl == cl && r.ctx == some ctx)).length
    + (s.nmops.filter (fun r => r.cl == cl && r.ctx == some ctx)).length

/-- A near-memory operation that a store of the sequencer makes. -/
def NmOp.ofStore (o : NmOp) : Bool := o.cmd.isNone && o.kind.stores

/-- Bytes homed on another package, for which only the `dom` scope waits (Table 14.2). -/
def beyond (dom : Bool) (pa : Nat) : Bool := !dom && regionOf pa == 1

/-- A write of the cluster's sequencer that issued before a name was given is not performed, as the scope counts (R220, R221). -/
def sqPending (s : State) (cl upto : Nat) (dom : Bool) : Bool :=
  s.inflight.any (fun r => r.cl == cl && r.src == 0 && decide (r.id < upto) && !beyond dom r.pa)
    || s.nmops.any (fun o => o.cl == cl && o.ofStore && decide (o.id < upto) && !beyond dom o.pa)

/-- The record a blocked fence or release of a context has left. -/
def Cluster.fenceOf (c : Cluster) (ctx : Nat) : Option XFence := c.xfences.find? (fun x => x.ctx == ctx)
def Cluster.dropFence (c : Cluster) (ctx : Nat) : Cluster := { c with xfences := c.xfences.filter (fun x => x.ctx != ctx) }
def Cluster.putFence (c : Cluster) (ctx paths upto : Nat) (acts : Bool) : Cluster :=
  { c.dropFence ctx with xfences := (c.dropFence ctx).xfences ++ [{ ctx := ctx, paths := paths, upto := upto, acts := acts }] }

/-- A release of a context (R221, R222, R229): at its first issue the die's batch closes, and it waits for the writes issued before
that, and for nothing issued later. The pair is the state, without or with the record of the wait, and whether the release is complete. -/
def releaseBy (cl ctx : Nat) (dom acts : Bool) (s : State) : State × Bool :=
  match (s.cluster cl).fenceOf ctx with
  | some x => if sqPending s cl x.upto dom then (s, false) else (s.modCluster cl (fun c => c.dropFence ctx), true)
  | none =>
    let s1 := closeBatch s (dieOf cl)
    if sqPending s1 cl s1.nextId dom then (s1.modCluster cl (fun c => c.putFence ctx 1 s1.nextId acts), false) else (s1, true)

/-! ## Scratchpad (R162, R163, R174, R177) -/

/-- Bytes of the scratchpad that units other than the sequencer reach (R96). -/
def Cluster.spbase (c : Cluster) : Nat := Config.spadBytes - c.spill

/-- A live scoreboard entry, made before the access was asked for, holds it (R174). -/
def Cluster.boardHolds (c : Cluster) (lo n made : Nat) : Bool :=
  c.board.any (fun r => meets r.lo (r.hi - r.lo) lo n && decide (r.made < made))

/-- When the scoreboard entry of a copy was made: entries made later do not hold the copy's writes, nor does its own. -/
def Cluster.boardTime (c : Cluster) (id now : Nat) : Nat := ((c.board.find? (fun r => r.cmd == id)).map (·.made)).getD now

/-- The units of R163 in their sequence: AG0 to AG7 are 0 to 7, the copy engine 8, tile fetch 9, the sequencer 10, the
context engine 11. -/
def unitCount : Nat := 12

/-- Whether a bank's owner lets an address generator in (R165). -/
def Cluster.gateOpen (c : Cluster) (ag bank : Nat) : Bool :=
  let t := SMap.get c.tokens Token.reset bank
  let gated := bitAt (c.fieldN (0x18 + ag) 0) 4
  let handing := c.handoffs.any (fun h => h.bank == bank)
  !gated || (!handing && (!t.ov || t.own == ag))

/-- Address generators whose access to a bank may be granted now. -/
def Cluster.waitingAgs (c : Cluster) (bank : Nat) : List Nat :=
  (List.range 8).filter (fun g => match (c.ag g).req with
    | some r => r.bank == bank && c.gateOpen g bank && !c.boardHolds r.addr 128 r.made
    | none => false)

/-- The next unit a bank grants, among those that ask: round-robin after the last one granted (R163). -/
def nextGrant (last : Nat) (asking : List Nat) : Option Nat :=
  ((List.range unitCount).map (fun k => (last + 1 + k) % unitCount)).find? (fun u => asking.contains u)

/-- The bank of a scratchpad address, and the banks of n bytes there (R162). -/
def bankOf (a : Nat) : Nat := a / 16384 % 32
def banksOf (a n : Nat) : List Nat := (List.range ((a + n - 1) / 16384 + 1 - a / 16384)).map (fun k => (a / 16384 + k) % 32)

/-- A request still stands: its command runs, or its firing is blocked at the access. -/
def Cluster.stands (c : Cluster) (w : Want) : Bool :=
  if w.unit = 10 then match SMap.find c.ctxs w.id with
    | some f => f.suspended.isNone && !f.parked && f.waiting && f.pc == w.pc
    | none => false
  else c.running.any (fun r => r.cmd.id == w.id && !r.done)

/-- The units that wait for a bank: the generators, and the others whose request stands, unless the scoreboard holds it or the bank has
granted it. -/
def Cluster.asking (c : Cluster) (bank : Nat) : List Nat :=
  c.waitingAgs bank ++ (c.wants.filter (fun w =>
    c.stands w && (banksOf w.addr w.n).contains bank && !w.got.contains bank && !c.boardHolds w.addr w.n w.made)).map (·.unit)

/-- The bank grants a unit that asks now, before the units that wait. -/
def Cluster.grants (c : Cluster) (bank unit : Nat) : Bool :=
  nextGrant (SMap.get c.lastGrant 11 bank) (unit :: c.asking bank) == some unit

/-- A claim unit a victim still owns: the access waits for the context engine (R177). -/
def State.claimed (s : State) (cl unit : Nat) : Bool :=
  match SMap.find (s.cluster cl).claims unit with
  | some t => some t != (s.cluster cl).owner
  | none => false

/-- A unit's access to n bytes may go now: not held by the scoreboard, and each bank its task's own or free. -/
def spadOpen (s : State) (cl a n made : Nat) : Bool :=
  !(s.cluster cl).boardHolds a n made && (banksOf a n).all (fun b => !s.claimed cl b)

/-- Claim units of a cluster in the sequence in which its owner draws on them (R177): its own, then free ones, then victims'. -/
def Cluster.unitSequence (c : Cluster) (units : List Nat) : List Nat :=
  let own := fun u => decide (c.owner.isSome ∧ SMap.find c.claims u = c.owner)
  let free := fun u => (SMap.find c.claims u).isNone
  units.filter own ++ units.filter free ++ units.filter (fun u => !own u && !free u)

/-- The owner of a cluster takes a claim unit that is free (R177). -/
def Cluster.take (c : Cluster) (unit : Nat) : Cluster :=
  match c.owner, SMap.find c.claims unit with
  | some t, none => { c with claims := SMap.set c.claims unit t }
  | _, _ => c

/-- A bank grants a unit: it is the last one granted there, and the bank is its task's. -/
def granted (s : State) (cl unit bank : Nat) : State :=
  s.modCluster cl (fun c => { c.take bank with lastGrant := SMap.set c.lastGrant bank unit })

/-- A request is the same access as another. -/
def Want.same (w v : Want) : Bool := w.unit == v.unit && w.id == v.id && w.pc == v.pc && w.addr == v.addr && w.n == v.n

/-- The requests of a cluster with one set or taken away; those that stand no longer go. -/
def Cluster.putWant (c : Cluster) (w : Want) : Cluster := { c with wants := c.wants.filter (fun v => c.stands v && !v.same w) ++ [w] }
def Cluster.dropWant (c : Cluster) (w : Want) : Cluster := { c with wants := c.wants.filter (fun v => c.stands v && !v.same w) }

/-- A unit beside the generators asks for n bytes of scratchpad at a: the state, with the grants of the banks whose turn is its, and whether
it may access them now (R163, R174, R177). The access counts as issued when it was first asked for; `made` is the first name given after
that, where nothing stands yet. The stream engine, 12, takes part in no round, since R163 does not list it: every bank is open to it.
DEDUCED (log entry 20). -/
def State.ask (s : State) (cl unit a n made id : Nat) (pc : Word) : State × Bool :=
  let c := s.cluster cl
  let w0 : Want := { unit := unit, id := id, pc := pc, addr := a, n := n, made := made, got := [] }
  let w := (c.wants.find? (fun v => c.stands v && v.same w0)).getD w0
  if !spadOpen s cl a n w.made then (s.modCluster cl (fun c => c.putWant w), false)
  else
    let new := (banksOf a n).filter (fun b => !w.got.contains b && (unit == 12 || c.grants b unit))
    let s1 := new.foldl (fun s b => if unit = 12 then s.modCluster cl (fun c => c.take b) else granted s cl unit b) s
    if (banksOf a n).all (fun b => w.got.contains b || new.contains b) then (s1.modCluster cl (fun c => c.dropWant w), true)
    else (s1.modCluster cl (fun c => c.putWant { w with got := w.got ++ new }), false)

/-- Reads n scratchpad bytes at a. -/
def spadRead (s : State) (cl a n : Nat) : List Byte := (s.cluster cl).spad.readBytes n a

/-- Writes scratchpad bytes at a. -/
def spadWrite (s : State) (cl a : Nat) (bytes : List Byte) : State :=
  s.modCluster cl (fun c => { c with spad := c.spad.writeBytes a bytes })

/-! ## Configuration of the sequencer (Table 5.4) -/

def Cluster.slotValid (c : Cluster) (m : Nat) : Bool := bitAt (c.fieldN 0x20 (0x40 + 8 * m)) 0
def Cluster.slotTrap (c : Cluster) (m : Nat) : Bool := c.slotValid m && bitAt (c.fieldN 0x20 (0x40 + 8 * m)) 1
def Cluster.slotEntry (c : Cluster) (m : Nat) : Nat :=
  c.fieldN 0x20 (0x41 + 8 * m) + 65536 * c.fieldN 0x20 (0x42 + 8 * m)
/-- The rate of a handle in a slot; a slot that is not valid has none. -/
def Cluster.slotRate (c : Cluster) (m h : Nat) : Nat :=
  if c.slotValid m then bitsAt (c.fieldN 0x20 (0x43 + 8 * m + h / 4)) (4 * (h % 4)) 4 else 0
def Cluster.hbind (c : Cluster) (h : Nat) : Nat := c.fieldN 0x20 (0x10 + h)
def Cluster.handleUsed (c : Cluster) (h : Nat) : Bool := bitAt (c.hbind h) 0
/-- The handle leads out of the sequencer. -/
def Cluster.handleOut (c : Cluster) (h : Nat) : Bool := bitAt (c.hbind h) 1
def Cluster.handleCmpl (c : Cluster) (h : Nat) : Bool := bitAt (c.hbind h) 2
/-- The firing budget (R90). -/
def Cluster.budget (c : Cluster) : Nat := c.fieldN 0x20 1 + 65536 * bitsAt (c.fieldN 0x20 2) 0 8 + 1

/-- The slot of the trap actor, unless it has exited (R275). -/
def Cluster.trapSlot (c : Cluster) : Option Nat :=
  (List.range 16).find? (fun m => c.slotTrap m && (c.slot m).status != .exited)

/-! ## Traps (R275 to R279) -/

/-- The source number of a unit of a cluster (R276). DESIGN CHOICE (log entry 8). -/
def sourceNumber (cl element unit : Nat) : Lane :=
  BitVec.ofNat 32 (Config.packageNumber * 8388608 + cl / 64 * 2097152 + cl % 64 * 32768 + element * 128 + unit)

/-- Pending traps in ascending TSC and then source number. -/
def insertTrap (t : TrapRec) : List TrapRec → List TrapRec
  | [] => [t]
  | u :: us =>
    if t.tsc.toNat < u.tsc.toNat ∨ (t.tsc = u.tsc ∧ t.src.toNat < u.src.toNat) then t :: u :: us else u :: insertTrap t us

/-- Appends a record to the task's trap ring, numbering it, in the order of R276. -/
def appendRing (s : State) (t : Nat) (r : TrapRec) : TrapRec × State :=
  match s.task t with
  | none => (r, s)
  | some x =>
    let r1 := { r with seqno := BitVec.ofNat 64 (x.seqno + 1) }
    (r1, s.setTask t { x with ring := insertTrap r1 x.ring, seqno := x.seqno + 1 })

/-! ## Ends of tasks (R200, R234, R274) -/

/-- A completion add to a semaphore: 1, or 2^40 + 1 for a failure (R182). -/
def completionAdd (st : Cause) : Word := if st = 0#16 then 1#64 else 0x10000000001#64

/-- Every write a name carries is performed (R182, R220). -/
def writesDone (s : State) (cl id : Nat) : Bool :=
  !s.inflight.any (fun r => r.cl == cl && r.cmd == some id) && !s.nmops.any (fun o => o.cl == cl && o.cmd == some id)

/-- The follow-on of a `cp.mx` (R195). -/
def Cluster.followOn (c : Cluster) (id : Nat) : Option Run := c.running.find? (fun y => y.cmd.parent == some id)

/-- A command of a cluster, or of its saved context, has completed: nothing more to do, and every write of it performed (R182, R185); a
`cp.mx` when its follow-on has (R195). -/
def State.completedIn (s : State) (cl : Nat) (c : Cluster) (r : Run) : Bool :=
  (r.done && writesDone s cl r.cmd.id) || (c.followOn r.cmd.id).any (fun y => y.done && writesDone s cl y.cmd.id)
def State.completed (s : State) (cl : Nat) (r : Run) : Bool := s.completedIn cl (s.cluster cl) r

/-- The status that a completed command completes with: a `cp.mx` takes that of its follow-on. -/
def Cluster.outcome (c : Cluster) (r : Run) : Cause := if r.done then r.status else ((c.followOn r.cmd.id).map (·.status)).getD r.status

/-- The last of a command's work, or of its writes, has just been done, and with it that of the `cp.mx` whose follow-on it is. -/
def State.settle (s : State) (cl id : Nat) : State :=
  let now := (cl, id) :: ((((s.cluster cl).running.find? (fun r => r.cmd.id == id)).bind (·.cmd.parent)).map (fun p => (cl, p))).toList
  { s with settled := s.settled.filter (fun x => !now.contains x) ++ now }

/-- A cancelled command's add goes out once its writes are performed. -/
def settleCancel (s : State) (cl id : Nat) : State :=
  match s.cancels.find? (fun x => x.cl == cl && x.id == id) with
  | none => s
  | some x =>
    if writesDone s cl id then
      postNm cl none none x.pa (.sig (completionAdd Cause.cancelled))
        { closeBatch s (dieOf cl) with cancels := s.cancels.filter (fun x => !(x.cl == cl && x.id == id)) }
    else s

/-- The run of a command at its start. -/
def Run.fresh (x : Cmd) (q : Nat) : Run :=
  { cmd := x, q := q, unit := 8, k := 0, n := 0, count := 0, status := 0#16, buf := [], done := false, did := [], waits := [], aux := 0 }

/-- Every running and queued command of a cluster, follow-on commands apart, which post nothing of their own. -/
def Cluster.allRuns (c : Cluster) : List Run :=
  (c.running ++ (c.queues ++ c.portq).flatMap (fun q => q.2.map (fun x => Run.fresh x q.1))).filter (fun r => r.cmd.parent.isNone)

/-- The commands of a cluster in the sequence in which they complete (R182): those that have completed, as they did, then the others. -/
def completionOrder (s : State) (cl : Nat) (c : Cluster) : List Run :=
  let rs := c.allRuns
  let done := s.settled.filterMap (fun x => if x.1 = cl then rs.find? (fun r => r.cmd.id == x.2 && s.completedIn cl c r) else none)
  done ++ rs.filter (fun r => !done.any (fun y => y.cmd.id == r.cmd.id))

/-- The semaphore adds of the commands of a cluster whose task ends (R200), in the sequence in which they complete: of one that has completed
its own, of any other that of CANCELLED, at once or when the writes of a running one are performed. Their handles end with the task. -/
def cancelSems (cl : Nat) (c : Cluster) (s : State) : State :=
  (completionOrder s cl c).foldl (fun s r => match r.cmd.target with
    | .sem pa =>
      if s.completedIn cl c r then postNm cl none none pa (.sig (completionAdd (c.outcome r))) (closeBatch s (dieOf cl))
      else settleCancel { s with cancels := s.cancels ++ [{ cl := cl, id := r.cmd.id, pa := pa }] } cl r.cmd.id
    | _ => s) s

/-- The lines pinned for matrix commands of a cluster that stop are pinned no longer (R176). -/
def unpinAll (s : State) (cl : Nat) : State :=
  (s.cluster cl).running.foldl (fun s r => if r.cmd.cls = 3 then l2Unpin s r.cmd.id else s) s

/-! ## The work identifier (R270) -/

/-- The six fields of an actor's WID before they are cut to their widths, F0 first. -/
def widFields (t : Task) (c : Cluster) (slot : Nat) (firing : Word) : List Nat :=
  [firing.toNat, slot, c.widCluster, c.widMacro, c.widDie, t.rank]

/-- The sum of the widths below field k. -/
def widLow (widths : List Nat) (k : Nat) : Nat := (widths.take k).foldl (· + ·) 0

/-- The WID of a firing: each field modulo 2^width at its place; a field of width 0 is absent. -/
def widOf (t : Task) (c : Cluster) (slot : Nat) (firing : Word) : Word :=
  BitVec.ofNat 64 ((List.range 6).foldl (fun n k =>
    n + ((widFields t c slot firing).getD k 0 % 2 ^ (t.widths.getD k 0)) * 2 ^ widLow t.widths k) 0)

/-- The group of a barrier level (R232): the fields of the WID above the level, those of width 0 apart, which read 0 in every
WID. Two levels with no present field between them name one group. -/
def groupOf (widths : List Nat) (wid : Word) (level : Nat) : Nat :=
  ((List.range 6).reverse.filter (fun k => decide (level < k) && decide (0 < widths.getD k 0))).foldl
    (fun n k => n * 65536 + bitsAt wid.toNat (widLow widths k) (widths.getD k 0) + 1) 0

/-- Poisons every barrier that an actor of the task has joined (R234). -/
def poisonBarriers (s : State) (t : Nat) : State :=
  { s with barriers := s.barriers.map (fun b => if b.1.1 = t then (b.1, { b.2 with pz := true }) else b) }

/-- The clusters of a task return to free, keeping what victims still own there; what they held is gone. -/
def releaseClusters (s : State) (t : Nat) : State :=
  { s with clusters := s.clusters.map (fun (k, c) =>
      if c.owner = some t then
        (k, { Cluster.reset with claims := c.claims.filter (fun u => u.2 != t), lastIssue := c.lastIssue })
      else (k, { c with claims := c.claims.filter (fun u => u.2 != t) })) }

/-- Bramble entries of a task's clusters are discarded (R296). -/
def dropBramble (s : State) (t : Nat) : State :=
  { s with dies := s.dies.map (fun (k, d) =>
      (k, { d with bramble := d.bramble.filter (fun e => e.task != t) })) }

/-- The clusters a task holds. -/
def State.clustersOf (s : State) (t : Nat) : List Nat :=
  (s.clusters.filter (fun k => k.2.owner == some t)).map (·.1)

/-- A command stands in the saved context of a task other than t. -/
def State.keptAway (s : State) (t cl id : Nat) : Bool :=
  s.fw.saved.any (fun v => v.cl == cl && v.task != t && v.ctx.running.any (fun r => r.cmd.id == id))

/-- The task ends with a cause: its commands complete with CANCELLED, its waiters and flits go, barriers are poisoned when
`poison` and, the launch at an end, go (R232, R234), and its clusters return to free. Posted stores and NM operations stay in flight and are performed. DEDUCED (log entry 29). -/
def endTask (s : State) (t : Nat) (cause : Cause) (poison : Bool) : State :=
  let cls := s.clustersOf t
  let s0 := (s.fw.saved.filter (fun x => x.task == t)).foldl (fun s x => cancelSems x.cl x.ctx s) s
  let s1 := cls.foldl (fun s cl => unpinAll (cancelSems cl (s.cluster cl) s) cl) s0
  let s2 := if poison then poisonBarriers s1 t else s1
  let s3 := dropBramble { s2 with waiters := s2.waiters.filter (fun w => !cls.contains w.cl || w.queue.isSome),
                                  flits := s2.flits.filter (fun f => !cls.contains f.toCl),
                                  bounce := s2.bounce.filter (fun b => b.task != t),
                                  settled := s2.settled.filter (fun x => !cls.contains x.1 || s.keptAway t x.1 x.2),
                                  barriers := s2.barriers.filter (fun b => b.1.1 != t),
                                  inflight := s2.inflight.map (fun r => if r.task == some t then { r with ctx := none } else r),
                                  nmops := s2.nmops.map (fun r => if r.task == some t then { r with ctx := none } else r) } t
  let s4 := releaseClusters s3 t
  let s5 := { s4 with fw := { s4.fw with saved := s4.fw.saved.filter (fun x => x.task != t) },
                      peers := s4.peers.filter (fun p => match s4.task t with | some x => p.key != x.key || p.objid != x.objid | none => true) }
  s5.modTask t (fun x => { x with status := .ended, endCause := cause, clusters := [] })

/-- Kills a task (R274). -/
def killTask (s : State) (t : Nat) (cause : Cause) : State := endTask s t cause true

/-- Kills the task of a cluster. A cluster without a task loses its firing. DEDUCED (log entry 5). -/
def killAt (s : State) (cl ctx : Nat) (cause : Cause) : State :=
  match (s.cluster cl).owner with
  | some t => killTask s t cause
  | none => s.delFiring cl ctx

/-- The task of a cluster is being ended by an uncorrectable error. -/
def State.abortingAt (s : State) (cl : Nat) : Option Cause := (s.taskOf cl).bind (·.aborting)

/-- Once no firing of an aborting gang is in flight, its task ends with the error's cause (R274). -/
def finishAbort (s : State) (t : Nat) : State :=
  match (s.task t).bind (·.aborting) with
  | none => s
  | some c => if (s.clustersOf t).all (fun cl => (s.cluster cl).ctxs.isEmpty) then endTask s t c true else s

/-- A firing of an aborting gang is ended where it stands. -/
def endWhereItStands (s : State) (cl ctx : Nat) : State :=
  match s.abortingAt cl, (s.cluster cl).owner with
  | some _, some t => finishAbort (s.delFiring cl ctx) t
  | _, _ => s

/-- Every command of a cluster has stopped: it completes with CANCELLED and COUNT 0 once its writes are performed, but for one that had
completed (R182, R200). -/
def State.cancelled (s : State) (cl : Nat) : Cluster :=
  let c := s.cluster cl
  { c with queues := [], portq := [],
           running := c.allRuns.map (fun r => if s.completed cl r then { r with done := true, status := c.outcome r }
             else { r with done := true, status := Cause.cancelled, count := 0 }) }

/-- The commands of a cluster that had not completed have nothing more to do from now on. -/
def settleEnded (s : State) (cl : Nat) : State :=
  ((s.cluster cl).allRuns.filter (fun r => !s.completed cl r)).foldl (fun s r => s.settle cl r.cmd.id) s

/-- A compute element that would still emit EOS: a phase is in progress at one of its heads, or in it. -/
def Cluster.eosDue (c : Cluster) (n : Nat) (x : Ce) : Bool :=
  bitAt (c.fieldN n 0) 0 && (x.eos || !x.pipe.isEmpty || !x.skid0.isEmpty || !x.skid1.isEmpty ||
    (List.range 4).any (fun i => match c.chan (16 * n + i) with | some ch => ch.live | none => false))

/-- The compute elements and generators of a cluster whose gang aborts: they stop, and each that would still emit EOS has only that left to
do; it leaves as an abort token with the cause (R274). Sticky flags stay (R43). -/
def Cluster.stopped (c : Cluster) (cause : Cause) : Cluster :=
  { c with ces := (List.range 16).map (fun n =>
             (n, { Ce.reset with eos := c.eosDue n (c.ce n), flags := (c.ce n).flags, raised := (c.ce n).raised, raisedAt := (c.ce n).raisedAt })),
           ags := c.ags.filterMap (fun g => match g.2.phase with
             | some p => if bitAt (c.fieldN (0x18 + g.1) 0) 1 then none
                         else some (g.1, { Ag.reset with phase := some { p with cmd := none, buf := [], full := true, status := cause } })
             | none => none) }

/-- An uncorrectable error aborts the gang of a task (R217, R274): its commands complete with CANCELLED, firings that are
blocked, suspended or stopped end where they stand, those in flight run to their end, and no other starts. -/
def abortGang (s : State) (t : Nat) (cause : Cause) : State :=
  let s1 := (s.clustersOf t).foldl (fun s cl => unpinAll ((settleEnded s cl).setCluster cl
      { (s.cancelled cl).stopped cause with ctxs := (s.cluster cl).ctxs.filter (fun f => f.2.suspended.isNone && !f.2.parked && !f.2.waiting) }) cl) s
  finishAbort ((poisonBarriers s1 t).modTask t (fun x => { x with aborting := some cause })) t

/-- The gang of a cluster's task is aborted. A cluster without a task loses the firing. -/
def abortAt (s : State) (cl ctx : Nat) (cause : Cause) : State :=
  match (s.cluster cl).owner with
  | some t => abortGang s t cause
  | none => s.delFiring cl ctx

/-! ## Uncorrectable errors (R217, R242, R274) -/

/-- A task that has not ended and is not queued. -/
def Task.live (x : Task) : Bool := x.status == .running || x.status == .preempted

/-- An uncorrectable error met by an access of a task aborts its gang, unless one already does. -/
def gangError (s : State) (task : Option Nat) (cause : Cause) : State :=
  match task with
  | none => s
  | some t => match s.task t with
    | some x => if x.live && x.aborting.isNone then abortGang s t cause else s
    | none => s

/-- The uncorrectable error that an access to n bytes of HBM at their home meets (R217, R242). -/
def State.homeError (s : State) (pa n : Nat) : Option Cause :=
  (linesOf pa n).findSome? (fun l => if regionOf (128 * l) = 0 then s.lineError (128 * l) else none)

/-- The error that an accumulate meets: on its cell's line, or on any line of its frame, all of whose cells a newer epoch rescales (R311). -/
def State.cellError (s : State) (pa : Nat) (epoch : Word) : Option Cause :=
  if rescales s.adjTags pa epoch then
    if s.ecc.any (fun l => l / 512 == pa / 65536) then some Cause.errEcc
    else if s.poison.any (fun l => l / 512 == pa / 65536) then some Cause.errHbm
    else none
  else s.homeError pa 4

/-! ## Waiters (R229, R230) -/

/-- The counter at a location satisfies a target (R229). -/
def semMeets (mem : Memory) (pa : Nat) (t : Word) : Bool :=
  decide (0 ≤ (BitVec.ofNat 64 (mem.read 8 pa) - t).toInt)

/-- The waiters on locations that n bytes at pa meet are evaluated again (R230). Polling firings are not. -/
def reeval (s : State) (pa n : Nat) : State :=
  { s with waiters := s.waiters.map (fun w =>
      if !w.polling && meets w.pa 8 pa n then { w with ok := w.ok || semMeets s.mem w.pa w.target } else w) }

/-! ## Reverse accumulates (R303, R306, R311) -/

/-- One accumulate into the cell at pa (R303, R311), which waiters there see. An update that rescales its frame writes every cell there: it
takes a batch with all their lines. One that REV.DET has held is written now. DEDUCED (log entry 38). -/
def accumulate (s : State) (cl pa : Nat) (v : Lane) (epoch : Word) (exp : Int) (join : Bool) : State :=
  let (m, tags, scaled) := accumulated s.mem s.adjTags pa v epoch exp
  let rs := (if scaled then (frameWords s.mem (pa / 65536)).map (fun w => (4 * w, 4)) else []) ++ (if scaled || join then [(pa, 4)] else [])
  let s1 : State := { (if rs.isEmpty then s else nmJoin cl rs s) with mem := m, adjTags := tags }
  if scaled then reeval s1 (pa / 65536 * 65536) 65536 else reeval s1 pa 4

/-- Applies the held contributions that a test picks, in their order (R306). One that meets an uncorrectable error is lost with the gang of
its task (R217, R242). -/
def applyHeld (s : State) (p : Held → Bool) : State :=
  (s.held.filter p).foldl (fun s h => match s.cellError h.pa h.epoch with
    | some c => gangError s h.task c
    | none => accumulate s h.cl h.pa h.v h.epoch h.exp true) { s with held := s.held.filter (fun h => !p h) }

/-- Contributions applied in sequence, up to the first that meets an uncorrectable error. -/
def applyEach (s : State) : List Held → Except Cause State
  | [] => .ok s
  | h :: hs => match s.cellError h.pa h.epoch with
    | some c => .error c
    | none => applyEach (accumulate s h.cl h.pa h.v h.epoch h.exp true) hs

/-- The first uncorrectable error that applying the held contributions a test picks would meet: an access that needs them meets it, and none
of them is applied for it (R217, R242, R306). DEDUCED (log entry 38). -/
def State.heldError (s : State) (p : Held → Bool) : Option Cause :=
  match applyEach { s with held := s.held.filter (fun h => !p h) } (s.held.filter p) with
  | .error c => some c
  | .ok _ => none

/-- A read of n bytes at pa applies what is held for the cells it meets (R306). -/
def flushHeld (s : State) (pa n : Nat) : State := if s.held.isEmpty then s else applyHeld s (Held.on pa n)

/-! ## Taking a trap (R275) -/

/-- The record of a fault of a firing. -/
def trapRecord (s : State) (cl ctx : Nat) (f : Firing) (t : TrapInfo) (epc : Word) : TrapRec :=
  { src := sourceNumber cl 0x20 f.slot, r := true, cause := t.cause, tsc := BitVec.ofNat 64 s.tsc, wid := f.wid, epc := epc,
    addr := t.addr, aux := t.aux, ctx := ctx, slot := f.slot, level := t.level, seqno := 0#64 }

/-- The record of a trap, in the task's trap ring; in an aborting gang SYNC.POISON is not reported (R234). -/
def reported (s : State) (cl ctx : Nat) (f : Firing) (t : TrapInfo) (epc : Word) : TrapRec × State :=
  if (s.abortingAt cl).isSome && t.cause == Cause.syncPoison then (trapRecord s cl ctx f t epc, s)
  else appendRing s ((s.cluster cl).owner.getD 0) (trapRecord s cl ctx f t epc)

/-- Takes a trap in a firing: the record is appended to the trap ring; the firing is suspended with its pc at epc and the
record queued for the trap actor; in an aborting gang it ends where it stands (R274), and SYNC.POISON is not reported (R234). Without a trap actor, in the trap actor's own firing, or with all four contexts
suspended, the task is killed instead. DEDUCED (log entry 5). -/
def takeTrap (s : State) (cl ctx : Nat) (t : TrapInfo) (epc : Word) : State :=
  match s.firing cl ctx with
  | none => s
  | some f =>
    let (r, s1) := reported s cl ctx f t epc
    if (s.abortingAt cl).isSome then endWhereItStands s1 cl ctx
    else if f.handling.isSome ∨ (s1.cluster cl).trapSlot = none then killAt s1 cl ctx t.cause
    else
      let s2 := (s1.setFiring cl ctx { f with pc := epc, suspended := some s1.now, evicting := false, waiting := false, back := none }).modCluster cl (fun c =>
        { c.setSlot f.slot { c.slot f.slot with status := .suspended } with
          traps := insertTrap r c.traps, xfences := c.xfences.filter (fun x => x.ctx != ctx) })
      let s3 := { s2 with waiters := s2.waiters.filter (fun w => !(w.cl == cl && w.ctx == ctx && w.queue.isNone)) }
      if (List.range 4).all (fun k => match s3.firing cl k with | some g => g.suspended.isSome | none => false)
      then killAt s3 cl ctx Cause.seqNoctx else s3

/-- A record that concerns no firing. -/
def looseRecord (s : State) (src : Lane) (cause : Cause) (addr aux : Word) : TrapRec :=
  { src := src, r := false, cause := cause, tsc := BitVec.ofNat 64 s.tsc, wid := 0#64, epc := 0#64, addr := addr, aux := aux,
    ctx := 0, slot := 0, level := 0, seqno := 0#64 }

/-- A record that concerns no firing (R = 0): TAPE.FULL and TAPE.EMPTY of a stream, ERT.SRC (R275, R294, R303). -/
def takeRecord (s : State) (cl : Nat) (src : Lane) (cause : Cause) (addr aux : Word) : State :=
  let own := (s.cluster cl).owner.getD 0
  let (r, s1) := appendRing s own (looseRecord s src cause addr aux)
  match (s1.cluster cl).trapSlot with
  | none => killAt s1 cl 4 cause
  | some _ => s1.modCluster cl (fun c => { c with traps := insertTrap r c.traps })

/-- The same for a task that is pre-empted: the record waits in its saved context. One that has ended takes none. -/
def takeRecordAway (s : State) (t cl : Nat) (src : Lane) (cause : Cause) (addr aux : Word) : State :=
  match s.fw.saved.find? (fun v => v.task == t && v.cl == cl) with
  | none => s
  | some v =>
    let (r, s1) := appendRing s t (looseRecord s src cause addr aux)
    match v.ctx.trapSlot with
    | none => killTask s1 t cause
    | some _ => { s1 with fw := { s1.fw with saved := s1.fw.saved.map (fun v =>
        if v.task = t ∧ v.cl = cl then { v with ctx := { v.ctx with traps := insertTrap r v.ctx.traps } } else v) } }

/-- Returns from a trap (R280): the suspended firing goes on at epc with a fresh budget. -/
def resumeFiring (s : State) (cl : Nat) (r : TrapRec) (epc : Word) : State :=
  match s.firing cl r.ctx with
  | none => s
  | some f =>
    (s.setFiring cl r.ctx { f with pc := epc &&& 0xFFFFFFFF#64, suspended := none, started := none, waiting := false }).modCluster cl (fun c =>
      c.setSlot f.slot { c.slot f.slot with status := .running })

/-! ## Fetch (R98, R138) -/

/-- The word at a code offset, if the instruction cache holds its line. -/
def icacheWord (c : Cluster) (off : Nat) : Option (List Byte) :=
  (SMap.find c.icache (off / 128)).map (fun b => (b.toBytes.drop (off % 128)).take 4)

/-- A line of code enters the instruction cache; a full one first loses a line, none of those beside it (R98). DESIGN CHOICE (log entry 40). -/
def Cluster.cacheCode (c : Cluster) (line : Nat) (b : Beat) : Cluster :=
  let others := SMap.del c.icache line
  let victim := ((others.filter (fun x => x.1 + 1 != line && x.1 != line + 1)).map (·.1)).headD 0
  { c with icache := SMap.set (if Config.icacheLines ≤ others.length then SMap.del others victim else others) line b }

/-- Code bytes of the task of a cluster. -/
def codeSize (s : State) (cl : Nat) : Nat := ((s.taskOf cl).map (·.csize)).getD 0

/-- Code address rules of R143: aligned, 32 bits, inside the code. -/
def pcOk (s : State) (cl : Nat) (t : Word) : Bool :=
  decide (t.toNat % 4 = 0) && decide (t.toNat < 4294967296) && decide (t.toNat < codeSize s cl)

/-! ## Running one instruction -/

/-- How an instruction leaves the program counter. -/
inductive Next where
  /-- past the instruction's words -/
  | seq
  /-- at a target -/
  | goto (t : Word)
  /-- the firing has ended -/
  | gone

/-- A firing blocks at its instruction: in an aborting gang it ends there. DEDUCED (log entry 5). -/
def blocked (s : State) (cl ctx : Nat) : State :=
  let s1 := match s.firing cl ctx with
    | some f => s.setFiring cl ctx { f with waiting := true }
    | none => s
  endWhereItStands s1 cl ctx

/-- The register takes its value n cycles after issue: what reads it issues no earlier (R138). A message queue has no such delay: its flit
is there when it is there (R97). -/
def State.slow (s : State) (cl ctx : Nat) (d : Reg) (n : Nat) : State :=
  match s.firing cl ctx with
  | some f => if 1 < n ∧ 1 ≤ d.toNat ∧ (d.toNat < 48 ∨ d.toNat = 52) then s.setFiring cl ctx { f with late := SMap.set f.late d.toNat (s.now + n) } else s
  | none => s

/-- A load whose value returns n cycles after it issues: where the budget ends before that, it stops, with no register changed (R95). -/
def returning (cl ctx n : Nat) (s : State) : Res Unit :=
  match (s.firing cl ctx).bind (·.started) with
  | some t => if t + (s.cluster cl).budget < s.now + n then .cut (t + (s.cluster cl).budget) else .ok () s
  | none => .ok () s

/-- A load that its home has answered keeps what it found when it issued, in state `s0`, since its flits may yet be on their way when the
budget ends (R95). One that reads or writes a message queue is not put on the loops. DESIGN CHOICE (log entry 33). -/
def State.keepBack (s0 : State) (cl ctx : Nat) (rs : List Reg) (s : State) : State :=
  if s.asked.isNone then s
  else if rs.any (fun r => decide (48 ≤ r.toNat) && decide (r.toNat ≤ 51)) then { s with asked := none }
  else match s0.firing cl ctx, s.firing cl ctx with
    | some f0, some f => s.setFiring cl ctx { f with back := some { pc := f0.pc, s := f0.s, sp := f0.sp, k := ((s0.cluster cl).slot f0.slot).k } }
    | _, _ => s

/-- The firing's next instruction issues no earlier than n cycles on (R138, R282). -/
def State.holdNext (s : State) (cl ctx n : Nat) : State :=
  match s.firing cl ctx with
  | some f => s.setFiring cl ctx { f with resumeAt := s.now + n }
  | none => s

/-- The state after a body's outcome. After a taken branch or a jump the next instruction issues no earlier than two cycles later (R138). -/
def settle (cl ctx len : Nat) (s : State) (r : Res Next) : State :=
  match r with
  | .ok .seq s1 => match s1.firing cl ctx with
    | some f => s1.setFiring cl ctx { f with pc := f.pc + BitVec.ofNat 64 len, waiting := false }
    | none => s1
  | .ok (.goto t) s1 => match s1.firing cl ctx with
    | some f => s1.setFiring cl ctx { f with pc := t, waiting := false, resumeAt := s1.now + 2 }
    | none => s1
  | .ok .gone s1 => s1
  | .stall => blocked s cl ctx
  | .stallIn s1 => blocked s1 cl ctx
  | .trap t => takeTrap s cl ctx t ((s.firing cl ctx).map (·.pc) |>.getD 0#64)
  | .kill c => killAt s cl ctx c
  | .abort c => endWhereItStands (abortAt s cl ctx c) cl ctx
  | .cut n => takeTrap (s.upTo n) cl ctx (trapOf Cause.seqBudget 0#64) ((s.firing cl ctx).map (·.pc) |>.getD 0#64)

/-- A firing that may issue: neither suspended nor stopped by a pre-emption. -/
def Firing.ready (f : Firing) : Bool := f.suspended.isNone && !f.parked

/-- The state in which a firing's instruction issues: its issue slot has passed, and its budget runs from its first issue. DESIGN CHOICE (log entry 4). -/
def issueState (s : State) (cl ctx : Nat) : State :=
  let s1 := ({ s with asked := none }.tick cl).modCluster cl (fun c => { c with lastCtx := ctx })
  match s1.firing cl ctx with
  | some f => s1.setFiring cl ctx { f with started := some (f.started.getD s1.now), back := none }
  | none => s1

/-- One instruction of the firing at the cursor, of `len` bytes, with the body given its cluster and context. DEDUCED (log entry 5). -/
def instr (len : Nat) (body : Nat → Nat → State → Res Next) (s : State) : Host.Outcome State Fault Refusal :=
  match s.firing s.cur.1 s.cur.2 with
  | none => .fault .noFiring
  | some f =>
    if f.ready then
      let s1 := issueState s s.cur.1 s.cur.2
      .next (settle s.cur.1 s.cur.2 len s1 (body s.cur.1 s.cur.2 s1))
    else .fault .noFiring

end Sys2Proof.Machine
end

