-- ==== Sys2Proof/Machine/Channel.lean ====
section
/-! DEFINITION. Items moving through channels (R52, R86, R91, R152, R169, R171): what a consumer sees and takes, what a
producer may send and sends, and when an actor becomes fireable. -/

namespace Sys2Proof.Machine

/-- EOS or an abort token: the end of a phase. -/
def Item.ends : Item → Bool
  | .eos => true
  | .abort _ => true
  | _ => false

/-- An in-band token. -/
def Item.token : Item → Bool
  | .data _ => false
  | .drop _ => false
  | _ => true

/-- The items a consumer sees, oldest first. -/
def Chan.seen (ch : Chan) : List Item := if ch.store.isSome then ch.out else ch.items

/-- The items in its track slots: those at its consumer's end and those on the loops. -/
def Chan.inTrack (ch : Chan) : Nat := ch.items.length + ch.riding.length

/-- Items on their way to the ring or in it: every later item goes there too (R171). -/
def Chan.ringed (ch : Chan) : Bool := !(ch.ring.isEmpty && ch.spilling.isEmpty)

/-- The producer's free count: free track slots plus free ring slots (R169, R171). -/
def Chan.free (ch : Chan) : Nat := (ch.depth - ch.inTrack) + (ch.ringSize - ch.ring.length - ch.spilling.length)

/-- Takes of a cycle are counted apart (R86). -/
def Chan.count (ch : Chan) (now k : Nat) : Chan := { ch with mark := now, took := if ch.mark = now then ch.took + k else k }

/-- The slots freed in a cycle, which were not free at the end of the one before (R86). -/
def Chan.freed (ch : Chan) (now : Nat) : Nat := if ch.mark = now then ch.took else 0

/-- A channel that has changed within a cycle: the slots it has more than before were freed in it (R86). -/
def Chan.since (ch : Chan) (now : Nat) (old : Chan) : Chan := if old.free < ch.free then ch.count now (ch.free - old.free) else ch

/-- Everything the channel holds lies before its consumer, which sees what enters at once. -/
def Chan.direct (ch : Chan) : Bool := ch.store.isNone && ch.ring.isEmpty && ch.spilling.isEmpty && ch.vc.isNone

/-- What enters goes to the ring: the track is full, or the ring holds an item (R171). -/
def Chan.spills (ch : Chan) : Bool :=
  !(ch.sink && ch.direct) && ch.ringSize != 0 && (ch.ringed || decide (ch.depth ≤ ch.inTrack))

/-- An item comes out of the ring into the track before the consumer; with a store, before the store. A consumer that discards takes it there.
DEDUCED (log entry 32). -/
def Chan.refill (ch : Chan) (it : Item) : Chan :=
  if ch.store.isSome then { ch with items := ch.items ++ [it] }
  else if ch.sink then { ch with sink := !it.ends, live := !it.ends }
  else { ch with items := ch.items ++ [it] }

/-- The ring of a channel about to take an item has room for it: where it is full, its oldest item first takes a free slot of the track (R171). -/
def Chan.ringRoom (ch : Chan) : Chan :=
  if ch.ring.length + ch.spilling.length < ch.ringSize then ch
  else match ch.ring, ch.spilling with
    | it :: rest, _ => Chan.refill { ch with ring := rest } it
    | [], it :: rest => Chan.refill { ch with spilling := rest } it.2
    | [], [] => ch

/-- The slots freed before an item enters: that of a full ring's oldest item which a consumer that discards takes (R86, R171). -/
def Chan.ringGain (ch : Chan) : Nat := if ch.spills then ch.ringRoom.free - ch.free else 0

/-- An item enters at the producer's end; `id` is the name of its ring write, or of its way over the loops, if it makes one. A consumer that discards takes it there,
when nothing stands before it. In a channel that rides the loops it is first on its way (R207). DEDUCED (log entry 32). -/
def Chan.push (ch : Chan) (id : Nat) (it : Item) : Chan :=
  if ch.sink && ch.direct then { ch with sink := !it.ends, live := !it.ends }
  else if ch.spills then
    let ch1 := ch.ringRoom
    { ch1 with spilling := ch1.spilling ++ [(id, it)], live := true }
  else if ch.vc.isSome then { ch with riding := ch.riding ++ [{ id := id, flits := false, item := it }], live := true }
  else { ch with items := ch.items ++ [it], live := true }

/-- An item that has come by the loops joins the track before the consumer; with a store, before the store. A consumer that discards takes
it, when nothing stands before it. -/
def Chan.landed (ch : Chan) (it : Item) : Chan :=
  if ch.sink && ch.store.isNone && ch.ring.isEmpty && ch.spilling.isEmpty then { ch with sink := !it.ends, live := !it.ends }
  else { ch with items := ch.items ++ [it] }

/-- An item reaches the consumer's end: a consumer that discards takes it there. DEDUCED (log entry 32). -/
def Chan.arrive (ch : Chan) (it : Item) : Chan :=
  if ch.sink then { ch with sink := !it.ends, live := !it.ends }
  else if ch.store.isSome then { ch with out := ch.out ++ [it] } else { ch with items := ch.items ++ [it] }

/-- The oldest item on the loops, none of its flits being there still, comes to the consumer's end. DESIGN CHOICE (log entry 33). -/
def Chan.land (ch : Chan) : Chan :=
  match ch.riding with
  | r :: rest => if r.flits then ch else Chan.landed { ch with riding := rest } r.item
  | [] => ch

/-- The consumer takes its first k items. -/
def Chan.pop (ch : Chan) (k : Nat) : Chan :=
  let taken := ch.seen.take k
  let live := match taken.getLast? with
    | some it => if it.ends then false else ch.live
    | none => ch.live
  if ch.store.isSome then { ch with out := ch.out.drop k, live := live } else { ch with items := ch.items.drop k, live := live }

/-- The virtual channel that carries a channel's items between clusters, by their package indices (R207). -/
def channelVc (prod cons : Nat) : Option Nat := if prod = cons then none else if prod < cons then some 2 else some 3

/-- Two clusters of one die that stand side by side (R12). -/
def adjacent (a b : Nat) : Bool :=
  dieOf a == dieOf b && (let (x, y, v, w) := (a % 8, a % 64 / 8, b % 8, b % 64 / 8)
    (x == v && (y == w + 1 || w == y + 1)) || (y == w && (x == v + 1 || v == x + 1)))

/-- A completion handle that nothing has reached yet (R182): sixteen items, joined to no channel (port 0 is an input, which
produces nothing). -/
def completionChan : Chan :=
  { prodCl := 0, prodPort := 0, depth := Config.completionItems, vc := none, op := Order.blank, oc := Order.blank, items := [], store := none,
    out := [], riding := [], ringSize := 0, ring := [], spilling := [], sink := false, live := false, mark := 0, took := 0 }

/-- The key of a unit port: 16 · element address + port. -/
def portKey (el port : Nat) : Nat := 16 * el + port

/-- The incoming channel of a handle, a completion handle's among them. -/
def Cluster.inHandle (c : Cluster) (h : Nat) : Option Chan :=
  match c.chan (portKey 0x20 h) with
  | some ch => some ch
  | none => if c.handleCmpl h then some completionChan else none

/-- The items an incoming handle holds: a completion handle holds sixteen, and later completions wait behind them (R182). -/
def Cluster.handleItems (c : Cluster) (h : Nat) : List Item :=
  let items := ((c.inHandle h).map Chan.seen).getD []
  if c.handleCmpl h then items.take Config.completionItems else items

/-- Consumers of a producer port: cluster and channel key. -/
def State.outsOf (s : State) (cl port : Nat) : List (Nat × Nat) :=
  s.clusters.flatMap (fun (k, c) =>
    (c.chans.filter (fun x => x.2.prodCl == cl && x.2.prodPort == port)).map (fun x => (k, x.1)))

/-- The free count of a producer port over every branch of its fan-out (R52, R86); none without a channel. -/
def State.outFree (s : State) (cl port : Nat) : Option Nat :=
  (s.outsOf cl port).foldl (fun acc (k, key) =>
    match (s.cluster k).chan key with
    | some ch => some (match acc with | some n => Nat.min n ch.free | none => ch.free)
    | none => acc) none

/-- At least n slots are free on every branch; a port that no channel leaves has no limit. -/
def State.hasFree (s : State) (cl port n : Nat) : Bool :=
  match s.outFree cl port with
  | some m => decide (n ≤ m)
  | none => true

/-- At least n slots of every branch were free at the end of the cycle before one (R86). -/
def State.hadFree (s : State) (cl port now n : Nat) : Bool :=
  (s.outsOf cl port).all (fun (k, key) => match (s.cluster k).chan key with
    | some ch => decide (n + ch.freed now ≤ ch.free)
    | none => true)

/-- Changes a channel. -/
def State.modChan (s : State) (cl key : Nat) (f : Chan → Chan) : State :=
  s.modCluster cl (fun c => match c.chan key with | some ch => c.setChan key (f ch) | none => c)

/-! ## Configurations about to take effect (R52, R62) -/

/-- Every channel that a pending configuration replaces has carried EOS to its consumer. A channel on which no phase is in progress, since
nothing has entered it yet or its last phase has ended, counts as one that has. DESIGN CHOICE (log entry 48): R52 speaks of a channel that
carries EOS alone. -/
def State.replacedIdle (s : State) (p : Pending) : Bool :=
  p.replaced.all (fun x => match (s.cluster x.1).chan x.2 with
    | some ch => !ch.live
    | none => true)

/-- A pending configuration is about to change an element, which accepts no new firing. -/
def State.settling (s : State) (cl el : Nat) : Bool :=
  match (s.cluster cl).pending with
  | some p => decide (p.due ≤ s.now) && p.fields.any (fun f => f.1 / 256 == el) && s.replacedIdle p
  | none => false

/-! ## Fireability (R91, R314) -/

/-- The token counter of an incoming handle meets a rate: enough items, or EOS or an abort token at the front. -/
def Cluster.inReady (c : Cluster) (h r : Nat) : Bool :=
  let items := c.handleItems h
  decide (r ≤ items.length) || (match items.head? with | some it => it.ends | none => false)

/-- An idle actor may fire: every incoming rate handle has its items, every outgoing one its free slots. -/
def State.fireable (s : State) (cl m : Nat) : Bool :=
  let c := s.cluster cl
  c.slotValid m && !c.slotTrap m &&
  (List.range 16).all (fun h =>
    let r := c.slotRate m h
    r == 0 || (if c.handleOut h then s.hasFree cl (portKey 0x20 h) r else c.inReady h r))

/-- Idle actors of a cluster that have become fireable are marked so, with this cycle as their ready time; one that a configuration
has retired is idle again (R90). One that was fireable under the rates a configuration changes stays fireable. DESIGN CHOICE (log entry 49). -/
def refresh (s : State) (cl : Nat) : State :=
  s.modCluster cl (fun c =>
    (List.range 16).foldl (fun c m =>
      if (c.slot m).status = .idle ∧ s.fireable cl m then c.setSlot m { c.slot m with status := .fireable, ready := s.now }
      else if (c.slot m).status = .fireable ∧ (!c.slotValid m || c.slotTrap m) then c.setSlot m { c.slot m with status := .idle }
      else c) c)

/-- An item of another channel from the same stop to the same stop, on one virtual channel, was sent before and has not arrived (R205, R215). -/
def Cluster.landsLater (c : Cluster) (prod id : Nat) : Bool :=
  c.chans.any (fun x => x.2.prodCl == prod && x.2.riding.any (fun r => decide (r.id < id)))

/-- The oldest item of a channel on the loops comes to its consumer's end, behind all that its producer's stop has sent there before, and
unless that stop stalls for a stamp (R209). -/
def landItem (s : State) (cl key : Nat) : State :=
  match ((s.cluster cl).chan key).bind (fun ch => ch.riding.head?.map (fun r => (ch.prodCl, r.id))) with
  | none => s
  | some (prod, id) =>
    if (s.cluster cl).landsLater prod id || s.stopStalls prod 2 then s
    else
      let s1 := s.modChan cl key (fun ch => ch.land.since s.now ch)
      if key / 16 = 0x20 then refresh s1 cl else s1

/-- What moved on a channel may make an actor of either end fireable (R91). -/
def lookAround (s : State) (cl key : Nat) : State :=
  let s1 := if key / 16 = 0x20 then refresh s cl else s
  match (s1.cluster cl).chan key with
  | some ch => if ch.prodPort / 16 = 0x20 then refresh s1 ch.prodCl else s1
  | none => s1

/-- The consumer of a channel takes its first k items; a sequencer that feeds or reads it may gain a fireable actor. -/
def takeItems (s : State) (cl key k : Nat) : State :=
  match (s.cluster cl).chan key with
  | none => s
  | some ch =>
    let s1 := s.setCluster cl ((s.cluster cl).setChan key ((ch.pop k).since s.now ch))
    if ch.prodPort / 16 = 0x20 then refresh s1 ch.prodCl else s1

/-- Items before the first EOS or abort token. -/
def untilEnd : List Item → Nat
  | [] => 0
  | it :: its => if it.ends then 0 else untilEnd its + 1

/-- The consumer of a channel discards its items up to and including EOS or an abort token, those that have yet to arrive too. -/
def discardPhase (s : State) (cl key : Nat) : State :=
  let items := (((s.cluster cl).chan key).map Chan.seen).getD []
  let k := untilEnd items
  if k < items.length then takeItems s cl key (k + 1) else (takeItems s cl key k).modChan cl key (fun ch => { ch with sink := true })

/-- An abort token stands before everything a consumer sees. -/
def Chan.cutWith (st : Cause) (ch : Chan) : Chan :=
  if ch.store.isSome then { ch with out := .abort st :: ch.out } else { ch with items := .abort st :: ch.items }

/-- An item enters one channel; a ring write takes a name, and so does a way over the loops. -/
def State.enter (s : State) (cl key : Nat) (it : Item) : State :=
  match (s.cluster cl).chan key with
  | none => s
  | some ch =>
    let s1 := s.setCluster cl ((s.cluster cl).setChan key (if ch.ringGain = 0 then ch.push s.nextId it else (ch.push s.nextId it).count s.now ch.ringGain))
    if ch.spills || ch.vc.isSome then { s1 with nextId := s1.nextId + 1 } else s1

/-- An item as it leaves a cluster: every EOS of an aborting gang leaves as an abort token with the error's cause (R274). -/
def State.asSent (s : State) (cl : Nat) (it : Item) : Item :=
  match it, s.abortingAt cl with
  | .eos, some c => .abort c
  | it, _ => it

/-- An item leaves a producer port into every channel of its fan-out. -/
def sendItem (s : State) (cl port : Nat) (it : Item) : State :=
  (s.outsOf cl port).foldl (fun s (k, key) =>
    let s1 := s.enter k key (s.asSent cl it)
    if key / 16 = 0x20 then refresh s1 k else s1) s

/-- Items leave in sequence. -/
def sendItems (s : State) (cl port : Nat) (its : List Item) : State := its.foldl (fun s it => sendItem s cl port it) s

end Sys2Proof.Machine
end

