-- ==== Sys2Proof/Machine/Nmu.lean ====
section
/-! DEFINITION. The near-memory units: the update of one operation (R226, R227, R236), waiters (R230) and gang barriers
(R232 to R234). -/

namespace Sys2Proof.Machine

/-! ## Arithmetic (R227, R236) -/

/-- A type code and an operation that Table 15.8 has: and, or, xor take integers only. -/
def nmValid (op ty : Nat) : Bool :=
  decide (ty ≤ 5) && decide (op ≤ 6) && (!(decide (2 ≤ op) && decide (op ≤ 4)) || decide (ty ≤ 3))

/-- The two halves of a bf16x2 operand, each by f. -/
def nmHalves (f : Nat → Nat → Nat) (x y : Nat) : Nat := f (x % 65536) (y % 65536) + 65536 * f (x / 65536) (y / 65536)

/-- The new value of an operation on old and y. -/
def nmCompute (op ty old y : Nat) : Nat :=
  let w := 8 * nmSize ty
  match op with
  | 0 => y
  | 1 =>
    if ty = 4 then addF32 old y
    else if ty = 5 then nmHalves (fun a b => (fadd Fmt.bf16 Mode.rne 0 (Fmt.bf16.read a) (Fmt.bf16.read b)).bits) old y
    else (old + y) % 2 ^ w
  | 2 => old &&& y
  | 3 => old ||| y
  | 4 => old ^^^ y
  | _ =>
    let max := op == 6
    if ty = 4 then (fminmax Fmt.f32 max old y).bits
    else if ty = 5 then nmHalves (fun a b => (fminmax Fmt.bf16 max a b).bits) old y
    else
      let less := if ty = 1 ∨ ty = 3 then decide (asSigned old w < asSigned y w) else decide (old < y)
      if less == max then y else old

/-! ## Updates and waiters -/

/-- Writes bytes at their home, and lets waiters see them. -/
def nmWrite (s : State) (pa : Nat) (bytes : List Byte) : State :=
  reeval { s with mem := s.mem.writeBytes pa bytes } pa bytes.length

/-- An operation meets n bytes at pa. -/
def NmOp.touches (o : NmOp) (pa n : Nat) : Bool := o.ranges.any (fun r => meets r.1 r.2 pa n)

/-- The operation reads its operand: what is held for it is applied first (R306). -/
def NmKind.reads (k : NmKind) : Bool :=
  match k with
  | .rmw .. | .sig _ | .taped .. => true
  | _ => false

/-- The operation is an update: what it writes depends on what it has read (rf of R223). -/
def NmKind.updates (k : NmKind) : Bool :=
  k.reads || (match k with | .acc .. => true | _ => false)

/-- The lines of an operation as it comes to its NMU: no RDC copy of its die and no L2 copy stays, and the home records the batch
of each, with what it has read (R213, R223, R226, the ATOM axiom). -/
def nmArrive (s : State) (o : NmOp) : State :=
  let ls := rangeLines o.ranges
  let v := if o.kind.updates then o.ranges.foldl (fun v r => clockMax v (wrote s.writers r.1 r.2)) zeroClock else zeroClock
  o.ranges.foldl (fun s r => s.record o.batch v r.1 r.2) (ls.foldl (fun s l => l2Drop s (128 * l)) (dropRdcs s (dieOf o.cl) ls))

/-- The lanes of a beat named by a mask take the lanes of a payload. -/
def mergeLanes (old payload : Beat) (mask : Nat) : Beat :=
  (List.range 32).foldl (fun b n => if bitAt mask n then b.setLane n (payload.lane n) else b) old

/-- An operation takes effect at its NMU (R226). -/
def applyNm (s : State) (o : NmOp) : State :=
  let s0 := nmArrive (if o.kind.reads then o.ranges.foldl (fun s r => flushHeld s r.1 r.2) s else s) o
  match o.kind with
  | .rmw op ty v =>
    let n := nmSize ty
    nmWrite s0 o.pa (bytesOfNat n (nmCompute op ty (s0.mem.read n o.pa) (v.toNat % 2 ^ (8 * n))))
  | .sig v => nmWrite s0 o.pa (bytesOfNat 8 ((s0.mem.read 8 o.pa + v.toNat) % 18446744073709551616))
  | .pair pa2 bs => nmWrite (nmWrite s0 o.pa bs) pa2 bs
  | .taped bs hdrPa payPa hdr =>
    let old := s0.mem.readBytes 128 o.pa
    let s1 := bs.foldl (fun s b => nmWrite s (o.pa + b.1) [b.2]) s0
    nmWrite (nmWrite s1 payPa old) hdrPa (bytesOfNat 16 hdr)
  | .mark hdr => nmWrite s0 o.pa (bytesOfNat 16 hdr)
  | .acc v source number epoch exp held =>
    if held then
      { s0 with held := insertHeld { pa := o.pa, v := v, source := source, number := number, epoch := epoch, exp := exp, cl := o.cl, task := o.task } s0.held }
    else accumulate s0 o.cl o.pa v epoch exp false
  | .restore mask payload =>
    nmWrite s0 o.pa ((mergeLanes (s0.mem.readBeat o.pa) payload mask).toBytes)

/-! ## Posted messages: what is on its way from a cluster's stop (R147, R205, R220, R226) -/

/-- A posted write or a posted near-memory operation. -/
inductive Msg where
  | write (r : MemReq)
  | near (o : NmOp)

def Msg.id : Msg → Nat
  | .write r => r.id
  | .near o => o.id
def Msg.frame : Msg → Option Nat
  | .write r => r.frame
  | .near o => o.frame
def Msg.cl : Msg → Nat
  | .write r => r.cl
  | .near o => o.cl
def Msg.pa : Msg → Nat
  | .write r => r.pa
  | .near o => o.pa
def Msg.task : Msg → Option Nat
  | .write r => r.task
  | .near o => o.task

def Msg.cmd : Msg → Option Nat
  | .write r => r.cmd
  | .near o => o.cmd

/-- The flits of a message: a request, then a write's bytes. -/
def Msg.size : Msg → Nat
  | .write r => 1 + ceilDiv r.bytes.length 64
  | .near _ => 1

/-- It has not come by the loops, and its stop has no stamp for it: it stays there until the frame advances (R209). -/
def Msg.stalled (s : State) (m : Msg) : Bool := m.frame.isNone && !ownSlice m.cl m.pa && s.stopStalls m.cl m.size

/-- The queue of a stack's pseudo-channel at which a message is served, and its place among the arbiters of its die (R209, R210). -/
def hbmQueue (pa : Nat) : Nat × Nat := (pa / Config.stackBytes, pseudoChannel pa)
def queueKey (pa : Nat) : Nat := 2048 + 96 * (pa / Config.stackBytes % 2) + pseudoChannel pa

/-- One that has come by the loops has been served at its queue: the next turn there is another stop's. -/
def State.servedAt (s : State) (m : Msg) : State :=
  match m.frame, homeDie m.pa with
  | some _, some die => s.modDie die (fun d => { d with linkLast := SMap.set d.linkLast (queueKey m.pa) m.cl })
  | _, _ => s

/-- What it does at its home. -/
def Msg.effect (s : State) : Msg → State
  | .write r => applyReq s r
  | .near o => applyNm s o

/-- It takes effect: a write of a command may be its last. -/
def Msg.act (s : State) (m : Msg) : State :=
  let s1 := s.servedAt m
  match m.cmd with
  | some id => (m.effect s1).settle m.cl id
  | none => m.effect s1

/-- Puts a message behind every one of a lower name. -/
def insertMsg (m : Msg) : List Msg → List Msg
  | [] => [m]
  | x :: xs => if m.id < x.id then m :: x :: xs else x :: insertMsg m xs

/-- The posted messages, in issue order. -/
def State.posted (s : State) : List Msg := s.nmops.foldl (fun l o => insertMsg (.near o) l) (s.inflight.map Msg.write)

/-- The message is a posted write that a copy in its die's RDC shows (R212), meeting n bytes at pa. -/
def Msg.shows (m : Msg) (die pa n : Nat) : Bool :=
  match m with
  | .write r => r.shown && dieOf r.cl == die && meets r.pa r.bytes.length pa n
  | .near _ => false

/-- The names that a message comes behind (R223). -/
def Msg.after : Msg → List Nat
  | .write r => r.after
  | .near o => o.after

/-- A message takes effect before a later one: it goes from the same stop to the same stop (R205), is a write of the same sequencer or
command on its bytes (R147, R194), a near-memory operation of the same cluster on them (R226), or a write that the RDC of the die has
shown, before another that it has shown or one of a firing that has read it (COH, R223; DEDUCED, log entry 6). -/
def Msg.before (p m : Msg) : Bool :=
  (decide (p.id < m.id) && ((p.cl == m.cl && samePath p.cl p.pa m.pa) || (match p, m with
    | .write p, .write r =>
      (p.cl == r.cl && p.src == r.src && (r.src == 0 || p.cmd == r.cmd) && meets p.pa p.bytes.length r.pa r.bytes.length)
        || (r.shown && (Msg.write p).shows (dieOf r.cl) r.pa r.bytes.length)
    | .near p, .near o => p.cl == o.cl && o.ranges.any (fun r => p.touches r.1 r.2)
    | _, _ => false))) || m.after.contains p.id

/-- A message waits for an earlier one, or for flits of its own that are still on their way (R206). -/
def State.msgBlocked (s : State) (m : Msg) : Bool := s.posted.any (fun p => p.before m) || s.onWay (.posted m.id)

/-- Turns from the stop served last at an HBM queue to a cluster's. -/
def State.turnsTo (s : State) (pa cl : Nat) : Nat :=
  (cl + 255 - (((homeDie pa).map (fun d => SMap.get (s.die d).linkLast 255 (queueKey pa))).getD 255)) % 256

/-- A message that has come by the loops waits for one of a frame that beats its own, in the same queue and free to go; of equal frames the
stop whose turn comes first goes (R209). -/
def State.outranked (s : State) (m : Msg) : Bool :=
  match m.frame with
  | none => false
  | some b => s.posted.any (fun p => match p.frame with
    | some a => (beatsFrame a b || (a % 8 == b % 8 && decide (s.turnsTo m.pa p.cl < s.turnsTo m.pa m.cl)))
        && hbmQueue p.pa == hbmQueue m.pa && !s.msgBlocked p
    | none => false)

/-- The error that a message meets at its home, on any line it writes, or on a line of what is held for its operand. -/
def Msg.error (s : State) : Msg → Option Cause
  | .write r => s.homeError r.pa r.bytes.length
  | .near o => match o.kind with
    | .acc _ _ _ epoch _ false => s.cellError o.pa epoch
    | _ => o.ranges.findSome? (fun r => (s.homeError r.1 r.2).orElse (fun _ => if o.kind.reads then s.heldError (Held.on r.1 r.2) else none))

/-- The host may hold a line that a message writes, an accumulate any line of its frame: it waits for the host's answer (R317). -/
def Msg.hostHeld (s : State) : Msg → Bool
  | .write r => s.hostHolds r.pa r.bytes.length
  | .near o => match o.kind with
    | .acc .. => s.hostHolds (o.pa / 65536 * 65536) 65536
    | _ => o.ranges.any (fun r => s.hostHolds r.1 r.2 || !s.heldOpen r.1 r.2)

/-- A message that is free to go stays all the same: for the host's answer (R317), for its flits (R206), for a stamp, or behind a packet
that the arbiter of its queue prefers (R209). -/
def State.stays (s : State) (m : Msg) : Bool :=
  m.hostHeld s || s.onWay (.posted m.id) || m.stalled s || s.outranked m

/-- The messages that a test picks, and those that take effect before them. -/
def withEarlier (hit : Msg → Bool) : List Msg → List Msg
  | [] => []
  | m :: ms =>
    let r := withEarlier hit ms
    if hit m || r.any (fun q => m.before q) then m :: r else r

/-- Messages take effect in sequence, where none meets an uncorrectable error. -/
def actAll (s : State) : List Msg → Option State
  | [] => some s
  | m :: ms => if (m.error s).isSome then none else actAll (m.act s) ms

/-- The messages that a test picks, and those that take effect before them, take effect at once, in issue order; none does where one of them
meets an uncorrectable error, which its own turn reports (R217, R242), or stays. -/
def perform (s : State) (hit : Msg → Bool) : Option State :=
  let go := withEarlier hit s.posted
  if go.any s.stays then none
  else
    let gone := fun (id : Nat) => go.any (fun m => m.id == id)
    actAll { s with inflight := s.inflight.filter (fun r => !gone r.id), nmops := s.nmops.filter (fun o => !gone o.id) } go

/-! ## Reads (R147, R205, R212, R214, R220) -/

/-- What takes effect before a read of n bytes at pa by a unit of a cluster: for its sequencer, the stores and taped stores of its own that
meet them (R147); for an engine, which reads no write before its home has it, the writes of the die that an RDC copy shows. DEDUCED
(log entry 6). -/
def Msg.ownOf (sq : Bool) (cl pa n : Nat) (m : Msg) : Bool :=
  if sq then m.cl == cl && (match m with
    | .write r => r.src == 0 && meets r.pa r.bytes.length pa n
    | .near o => o.ofStore && o.touches pa n)
  else m.shows (dieOf cl) pa n

/-- A request to the home of pa arrives behind every earlier message of its stop to the same stop (R205, R215). -/
def Msg.ahead (cl pa : Nat) (m : Msg) : Bool := m.cl == cl && samePath cl m.pa pa

/-- The line is one that a die's RDC may hold: homed on another die of the package, or of the host, and not memory-side (R212). -/
def remoteLine (die pa : Nat) (ms : Bool) : Bool :=
  decide ((regionOf pa = 0 ∧ homeDie pa ≠ some die ∧ ms = false) ∨ regionOf pa = 3)

/-- A read at the home of n bytes of one line, which fills the die's RDC where it may hold the line. A held contribution to any cell of the
line is applied first, since all of the line is read (R306). -/
def homeRead (cl pa n : Nat) (ms : Bool) (s : State) : MRes :=
  let s1 := flushHeld s (pa / 128 * 128) 128
  let s2 := { l2Touch (s1.learn (dieOf cl) pa n) pa ms false with asked := some (cl, pa, false) }
  .ok (s1.mem.readBytes n pa) (if remoteLine (dieOf cl) pa ms then fillRdc s2 (dieOf cl) (pa / 128) else s2)

/-- Reads n bytes of one line for a unit of a cluster, its sequencer with `sq`: from the die's RDC where it holds the line and is
current, else at the home. DEDUCED (log entry 6). DEDUCED (log entry 10). -/
def memRead (sq : Bool) (cl pa n : Nat) (ms : Bool) (s : State) : MRes :=
  match lineFault s pa with
  | some r => r
  | none =>
    let die := dieOf cl
    match perform s (Msg.ownOf sq cl pa n) with
    | none => .stall
    | some s1 =>
      match if remoteLine die pa ms then SMap.find (s1.die die).rdc (pa / 128) else none with
      | some b =>
        if (s1.die die).current then .ok ((b.toBytes.drop (pa % 128)).take n) (s1.learnFrom die (s1.die die).rdcFrom pa n) else .stall
      | none =>
        if (homeDie pa != some die && s1.shownAway die (pa / 128)) || (homeDie pa).any (s1.heldBack die)
            || (!ownSlice cl pa && s1.stopStalls cl 1) then .stall
        else match perform s1 (Msg.ahead cl pa) with
          | none => .stall
          | some s2 => match s2.heldError (Held.on (pa / 128 * 128) 128) with
            | some c => .abort c
            | none => if s2.heldOpen (pa / 128 * 128) 128 then homeRead cl pa n ms s2 else .stall

/-- A firing has read bytes of writes that its die's RDC shows and their homes do not hold yet. DEDUCED (log entry 6). -/
def noteSeen (s : State) (cl ctx pa n : Nat) : State :=
  let ids := (s.posted.filter (fun m => m.shows (dieOf cl) pa n)).map Msg.id
  match ids, s.firing cl ctx with
  | [], _ => s
  | _, none => s
  | _, some f => (s.setFiring cl ctx { f with saw := s.unseen cl ctx ++ ids }).modCluster cl (fun c =>
      { c with readBefore := c.readBefore.filter (fun id => s.inflight.any (fun r => r.id == id)) ++ ids })

/-! ## Reads and updates at once -/

/-- What takes effect before an answered operation on n bytes at pa: earlier operations of the cluster on them (R226), and earlier
messages of its stop to the same stop (R205). -/
def Msg.nmFirst (cl pa n : Nat) (m : Msg) : Bool :=
  m.ahead cl pa || (match m with
    | .write _ => false
    | .near o => o.cl == cl && o.touches pa n)

/-- An answered operation of a firing may go: nothing before it is in error, no response is held back (R214), no write that the firing
has read in the RDC is still on its way to its home (R223), its stop has a stamp for it (R209), and the host holds no line that it writes
(R317). -/
def State.nmOpen (s : State) (cl ctx pa n : Nat) (w : Bool) : Bool :=
  (perform s (Msg.nmFirst cl pa n)).isSome && !(homeDie pa).any (s.heldBack (dieOf cl)) && (s.unseen cl ctx).isEmpty
    && (ownSlice cl pa || !s.stopStalls cl 1) && s.heldOpen pa n && !(w && s.hostHolds pa n)

/-- The line may be read and written at its NMU: no error lies on it, nor meets what is held for the bytes, and its package can be reached
(R217, R242, R319). An answered operation, with `some`, may have to wait; with `some true` it writes. -/
def nmLine (cl ctx : Nat) (answered : Option Bool) (va pa n : Nat) (s : State) : Res Unit :=
  match lineFault s pa with
  | some (.abort c) => .abort c
  | some (.trap c) => .trap (trapOf c (BitVec.ofNat 64 va))
  | _ => match answered with
    | none => .ok () s
    | some w =>
      if !s.nmOpen cl ctx pa n w then .stall
      else match ((perform s (Msg.nmFirst cl pa n)).getD s).heldError (Held.on pa n) with
        | some c => .abort c
        | none => .ok () s

/-- A read at the NMU: what comes before it has taken effect, and what is held for the bytes; a copy in the home slice goes (R226, the ATOM
axiom); what the line's writers released reaches the reader's die (R213, R223). -/
def nmSettle (cl pa n : Nat) (s : State) : State :=
  { (l2Drop (flushHeld ((perform s (Msg.nmFirst cl pa n)).getD s) pa n) pa).learn (dieOf cl) pa n with asked := some (cl, pa, true) }

/-- Writes bytes at their NMU at once, within a batch of the die. -/
def nmStore (cl pa : Nat) (bytes : List Byte) (s : State) : State := nmWrite (nmJoin cl [(pa, bytes.length)] s) pa bytes

/-! ## Gang barriers (R232, R233) -/

def Barrier.reset : Barrier := { c := 0#64, n := none, a := 0, d := 0, pd := 0, lv := none, pz := false, clock := zeroClock }

/-- A barrier of a task: index and group; one that nothing has used stands at its launch value. -/
def State.barrier (s : State) (key : Nat × Nat × Nat) : Barrier :=
  ((s.barriers.find? (fun b => b.1 == key)).map (·.2)).getD Barrier.reset

def State.setBarrier (s : State) (key : Nat × Nat × Nat) (b : Barrier) : State :=
  { s with barriers := (s.barriers.filter (fun x => x.1 != key)) ++ [(key, b)] }

/-- The phase completes once its arrivals reach N − D (R233). A poisoned barrier completes none (R234). DEDUCED (log entry 30). -/
def Barrier.check (b : Barrier) : Barrier :=
  match b.n with
  | some n => if !b.pz && decide (n ≤ b.a + b.d) then { b with c := b.c + 1#64, a := 0, n := none, d := b.d + b.pd, pd := 0 } else b
  | none => b

/-- A drop of an actor whose last arrival was in phase `last` (R233). -/
def Barrier.drop (b : Barrier) (last : Word) : Barrier :=
  (if last = b.c then { b with pd := b.pd + 1 } else { b with d := b.d + 1 }).check

/-- The fields of a barrier word (R232). -/
def barIdx (w : Word) : Nat := w.toNat % 32
def barLevel (w : Word) : Nat := w.toNat / 32 % 8
/-- LEVEL 1 to 5 and bits [63:8] zero. -/
def barWordOk (w : Word) : Bool := decide (w.toNat < 256) && decide (1 ≤ barLevel w) && decide (barLevel w ≤ 5)

/-- What a release of a die brings: the batches its units depend on, and its own up to the latest. -/
def Die.releases (d : Die) (die : Nat) : List Lane := d.dVec.set die (clockAt d.aVec die)

/-- A slot's drop at a barrier it has joined, which ends its join (R233). The actor's end arrives there, and what its die releases comes with
it (so, Table 14.3). -/
def dropJoin (s : State) (cl slot idx : Nat) : State :=
  match SMap.find ((s.cluster cl).slot slot).joins idx with
  | none => s
  | some (group, last) =>
    let key := ((s.cluster cl).owner.getD 0, idx, group)
    let b := s.barrier key
    (s.setBarrier key ({ b with clock := clockMax b.clock ((s.die (dieOf cl)).releases (dieOf cl)) }.drop last)).modCluster cl (fun c =>
      c.setSlot slot { c.slot slot with joins := SMap.del (c.slot slot).joins idx })

/-- The drops of an actor that ends: every barrier it has joined, in index order; unjoined indices are skipped (R94, R233). -/
def dropAll (s : State) (cl slot : Nat) : State :=
  (((s.cluster cl).slot slot).joins.map (·.1)).foldl (fun s idx => dropJoin s cl slot idx) s

end Sys2Proof.Machine
end

