-- ==== Sys2Proof/Machine/Operands.lean ====
section
/-! DEFINITION. The operand forms of the sequencer's instructions (R58, R73, R74): immediates, branch targets, effective
addresses, bit fields, and the moulds of instructions that differ in one operation only. -/

namespace Sys2Proof.Machine

/-- The target of a branch or jump: pc + 4·sx(off) (R73). -/
def target {n : Nat} (pc : Word) (off : BitVec n) : Word := pc + (sx off <<< 2)

/-- The effective address rd(a) + sx(imm14), low 64 bits (R146). -/
def ea (base : Word) (i : BitVec 14) : Word := base + sx i

/-- The low w bits of a word. -/
def lowBits (v : Word) (w : Nat) : Word := v &&& BitVec.ofNat 64 (2 ^ w - 1)

/-- Bits [p+w-1:p] of x, zero- or sign-extended (R140). -/
def fieldOf (x : Word) (p w : Nat) (sign : Bool) : Word :=
  let v := lowBits (x >>> p) w
  if sign then ((v <<< (64 - w)).sshiftRight (64 - w)) else v

/-- d with bits [p+w-1:p] replaced by the low w bits of x (R140). -/
def fieldInto (d x : Word) (p w : Nat) : Word :=
  let m := (BitVec.ofNat 64 (2 ^ w - 1)) <<< p
  (d &&& ~~~m) ||| ((x <<< p) &&& m)

/-- A register code that names a message queue. -/
def isQueue (r : Reg) : Bool := decide (48 ≤ r.toNat) && decide (r.toNat ≤ 51)

/-- A condition that makes the instruction SEQ.ILL (R78). -/
def illegalIf (c : Bool) (s : State) : Res Unit := if c then .trap (trapOf Cause.seqIll 0#64) else .ok () s

/-- The program counter of the firing. -/
def pcOf (cl ctx : Nat) (s : State) : Word := ((s.firing cl ctx).map (·.pc)).getD 0#64

/-! ## Moulds -/

/-- `op d, a, b` (R139), with its latency (Table 8.1). -/
def alu3 (lat : Nat) (op : Word → Word → Word) (d a b : Reg) (s : State) : Host.Outcome State Fault Refusal :=
  instr 4 (fun cl ctx s => (rd2 cl ctx a b s).bind (fun (x, y) s =>
    (wr cl ctx d (op x y) s).bind (fun _ s => .ok .seq (s.slow cl ctx d lat)))) s

/-- `op d, a` (R139, R140): the immediate is part of the operation. -/
def alu2 (op : Word → Word) (d a : Reg) (s : State) : Host.Outcome State Fault Refusal :=
  instr 4 (fun cl ctx s => (rd cl ctx a s).bind (fun x s => (wr cl ctx d (op x) s).bind (fun _ s => .ok .seq s))) s

end Sys2Proof.Machine
end

