-- ==== Sys2Proof/Machine/Tensor.lean ====
section
/-! DEFINITION. The layout unit (R246, R247, R249): the fields of a tensor-table entry, tiles and element addresses, and the
tensor behind a physical address (R300). -/

namespace Sys2Proof.Machine

/-! ## Tensor-table entries (Table 17.5) -/

/-- Dword k of an entry. DESIGN CHOICE (log entry 7). -/
def Tensor.dw (t : Tensor) (k : Nat) : Nat := (t.getD k 0#64).toNat
def Tensor.ty (t : Tensor) : Nat := bitsAt (t.dw 0) 0 4
def Tensor.ndim (t : Tensor) : Nat := bitsAt (t.dw 0) 4 3
def Tensor.valid (t : Tensor) : Bool := bitAt (t.dw 0) 7
def Tensor.diff (t : Tensor) : Bool := bitAt (t.dw 0) 8
def Tensor.expert (t : Tensor) : Bool := bitAt (t.dw 0) 9
def Tensor.ms (t : Tensor) : Bool := bitAt (t.dw 0) 10
def Tensor.windowed (t : Tensor) : Bool := bitAt (t.dw 0) 11
def Tensor.twinned (t : Tensor) : Bool := bitAt (t.dw 0) 12
def Tensor.stk (t : Tensor) : Nat := bitsAt (t.dw 0) 13 3
def Tensor.twin (t : Tensor) : Nat := bitsAt (t.dw 0) 16 12
/-- log2 of the tile extent of a dimension. -/
def Tensor.tsh (t : Tensor) (d : Nat) : Nat := bitsAt (t.dw 0) (28 + 5 * d) 5
def Tensor.ext (t : Tensor) (d : Nat) : Nat := bitsAt (t.dw (1 + d / 2)) (32 * (d % 2)) 32
/-- The key of an expert tensor (R286). -/
def Tensor.key (t : Tensor) : Nat := t.dw 5 % 4294967296

/-- An entry that nothing declared. -/
def Tensor.blank : Tensor := []

/-- The pixel types, 10, 12 and 14 bits. -/
def isPixel (ty : Nat) : Bool := decide (12 ≤ ty) && decide (ty ≤ 14)

/-! ## Tiles (R247) -/

/-- How a tensor's elements lie in its tiles: bits of an element, extents, tile extents. -/
structure Layout where
  w : Nat
  ext : List Nat
  te : List Nat
  deriving DecidableEq, Repr

def Tensor.layout (t : Tensor) : Layout :=
  { w := tyBits t.ty, ext := (List.range 6).map t.ext, te := (List.range 6).map (fun d => 2 ^ t.tsh d) }

/-- The adjoint: FP32, the same extents, and tile extents of te_0·w/32 along dimension 0. -/
def Tensor.adjLayout (t : Tensor) : Layout :=
  { w := 32, ext := (List.range 6).map t.ext,
    te := (List.range 6).map (fun d => if d = 0 then 2 ^ t.tsh 0 * tyBits t.ty / 32 else 2 ^ t.tsh d) }

/-- The mixed-radix number of digits, the first least significant. -/
def mixed : List Nat → List Nat → Nat
  | d :: ds, r :: rs => d + r * mixed ds rs
  | _, _ => 0

/-- The digits of a mixed-radix number, the first least significant. -/
def digits : List Nat → Nat → List Nat
  | [], _ => []
  | r :: rs, n => n % r :: digits rs (n / r)

def Layout.grid (l : Layout) : List Nat := l.ext.zipWith ceilDiv l.te
/-- Tiles of the whole grid. -/
def Layout.tiles (l : Layout) : Nat := l.grid.foldl (· * ·) 1
/-- Every coordinate lies below its extent. -/
def Layout.inside (l : Layout) (xs : List Nat) : Bool := (xs.zipWith (fun x e => decide (x < e)) l.ext).all id
def Layout.tileOf (l : Layout) (xs : List Nat) : Nat := mixed (xs.zipWith (· / ·) l.te) l.grid
/-- Bit offset of an element within its tile. -/
def Layout.bitOff (l : Layout) (xs : List Nat) : Nat := l.w * mixed (xs.zipWith (· % ·) l.te) l.te
/-- The coordinates of an element of a tile. -/
def Layout.coords (l : Layout) (tile idx : Nat) : List Nat :=
  ((digits l.grid tile).zipWith (· * ·) l.te).zipWith (· + ·) (digits l.te idx)

/-! ## Tile tables (Table 17.6, R252, R253) -/

/-- A tile table by number: a tensor's own, or 4096 more for its adjoint's. -/
def tableOf (id : Nat) (adj : Bool) : Nat := if adj then id + 4096 else id

/-- The key of a tile of a tensor's own table, or of its adjoint's. -/
def tileKey (id : Nat) (adj : Bool) (tile : Nat) : Nat := 4294967296 * tableOf id adj + tile

def Task.tensor (t : Task) (id : Nat) : Tensor := SMap.get t.tensors Tensor.blank id

/-- Where a tensor's storage, or its adjoint's, begins: the model keeps it behind the entry (DESIGN CHOICE, log entry 7). -/
def Tensor.store (t : Tensor) : Nat := t.dw 8
def Tensor.adjStore (t : Tensor) : Nat := t.dw 9

/-- Tensor, layout and storage of a tile table. -/
def Task.tableTensor (t : Task) (n : Nat) : Tensor := t.tensor (n % 4096)
def Task.tableLayout (t : Task) (n : Nat) : Layout := if n < 4096 then (t.tableTensor n).layout else (t.tableTensor n).adjLayout
def Task.tableStore (t : Task) (n : Nat) : Nat := if n < 4096 then (t.tableTensor n).store else (t.tableTensor n).adjStore

/-- n bytes at va lie wholly inside one windowed lease range. -/
def Task.inWindow (t : Task) (va n : Nat) : Bool :=
  t.leases.any (fun l => l.window != 0 && decide (l.base ≤ va) && decide (va + n ≤ l.base + l.size))

/-- The tiles of a table come and go with a window (R251): those of a windowed tensor, and of its adjoint where that lies in a windowed
range too. DEDUCED (log entry 17). -/
def Task.tableWindowed (t : Task) (n : Nat) : Bool :=
  let x := t.tableTensor n
  x.valid && x.windowed && !x.expert && decide (n < 8192) && (decide (n < 4096) || (x.diff && t.inWindow x.adjStore 65536))

/-- The virtual address of the byte that holds an element, and of its adjoint. -/
def Task.elementVa (t : Task) (n : Nat) (xs : List Nat) : Nat :=
  let l := t.tableLayout n
  t.tableStore n + 65536 * l.tileOf xs + l.bitOff xs / 8

/-- The PA of the frame of a tile; none while it is not resident or records wait for it. -/
def tileFrame (s : State) (tid : Nat) (t : Task) (id : Nat) (adj : Bool) (tile : Nat) : Option Nat :=
  match SMap.find t.tiles (tileKey id adj tile) with
  | some e =>
    if e.r && !(s.bounce.any (fun b => b.task == tid && b.tensor == tableOf id adj && b.tile == tile)) then some (e.frame * 65536)
    else none
  | none => none

/-- Where an element lies: PA of its first byte, and its bit within that byte. -/
structure Place2 where
  pa : Nat
  bit : Nat
  tile : Nat
  off : Nat
  deriving DecidableEq, Repr

/-- The place of an element of a tensor or of its adjoint (R249); none while its tile is not resident. -/
def elementPlace (s : State) (tid : Nat) (t : Task) (id : Nat) (adj : Bool) (l : Layout) (xs : List Nat) : Option Place2 :=
  let tile := l.tileOf xs
  (tileFrame s tid t id adj tile).map (fun f =>
    let b := l.bitOff xs
    { pa := f + b / 8, bit := b % 8, tile := tile, off := b / 8 })

/-- A port's tile-entry cache takes an entry, the one used last first (R249). -/
def touchTile (s : State) (cl port key : Nat) : State :=
  s.modCluster cl (fun c =>
    let l := key :: (SMap.get c.tileTags [] port).filter (fun k => k != key)
    { c with tileTags := SMap.set c.tileTags port (l.take Config.tileEntries) })

/-- The entries that a test picks leave the tile-entry caches of a task's clusters (R245, R249). -/
def dropTiles (s : State) (task : Nat) (hit : Nat → Bool) : State :=
  { s with clusters := s.clusters.map (fun (k, c) =>
      (k, if c.owner = some task then { c with tileTags := c.tileTags.map (fun e => (e.1, e.2.filter (fun k => !hit k))) } else c)) }

/-- The bits of a tile that are written as zero with an element (R24, R247): with the last element of an E2M1 row, the pad codes and pad
bytes behind it; with the last element of a pixel tile, the bytes behind the pixels. DEDUCED (log entry 17). -/
def Layout.padding (l : Layout) (ty : Nat) (xs : List Nat) : Option (Nat × Nat) :=
  let b := l.bitOff xs
  if ty = 5 then (if xs.getD 0 0 + 1 = l.ext.getD 0 0 then some (b + 4, ceilDiv (b + 4) 1024 * 1024) else none)
  else if isPixel ty ∧ b + l.w = 32768 * l.w then some (32768 * l.w, 524288) else none

/-! ## The differentiable tensor behind an address (R300) -/

/-- The primal storage of a differentiable tensor that holds a PA: tensor identifier and tile. -/
def Task.diffAt (t : Task) (pa : Nat) : Option (Nat × Nat) :=
  (t.tiles.find? (fun e => decide (e.1 < 17592186044416) && e.2.r && e.2.frame == pa / 65536
      && (t.tensor (e.1 / 4294967296)).valid && (t.tensor (e.1 / 4294967296)).diff)).map
    (fun e => (e.1 / 4294967296, e.1 % 4294967296))

/-- A differentiable access: the tensor, its element, the element's adjoint cell and the beat of the primal storage. -/
structure DiffAt where
  id : Nat
  ten : Tensor
  /-- PA of the adjoint cell; none for padding, which has no cell, and while the adjoint's tile is not resident -/
  cell : Option Nat
  /-- whether the element lies inside the tensor -/
  inside : Bool
  /-- beat of the storage, and its PA -/
  off : Nat
  beatPa : Nat
  deriving DecidableEq, Repr

/-- The differentiable access at an element of a tensor, whose first byte stands at a PA of a tile. -/
def Task.diffFor (t : Task) (s : State) (tid id tile pa : Nat) (xs : List Nat) : DiffAt :=
  let ten := t.tensor id
  let inside := ten.layout.inside xs
  { id := id, ten := ten, inside := inside,
    cell := if inside then (elementPlace s tid t id true ten.adjLayout xs).map (·.pa) else none,
    off := tile * 512 + pa % 65536 / 128, beatPa := pa / 128 * 128 }

/-- What a flat access at a PA acts on: of two differentiable tensors with that storage, the first that the tile tables list. DESIGN CHOICE
(log entry 47). -/
def diffOf (s : State) (cl pa : Nat) : Option DiffAt :=
  match s.taskOf cl with
  | none => none
  | some t =>
    match t.diffAt pa with
    | none => none
    | some (id, tile) =>
      let l := (t.tensor id).layout
      some (t.diffFor s ((s.cluster cl).owner.getD 0) id tile pa (l.coords tile (pa % 65536 * 8 / l.w)))

/-- What an `ldt` of an element acts on: the tensor it names, if that is differentiable (R300). -/
def elementDiff (s : State) (cl id : Nat) (xs : List Nat) (p : Place2) : Option DiffAt :=
  (s.taskOf cl).bind (fun t =>
    if (t.tensor id).diff then some (t.diffFor s ((s.cluster cl).owner.getD 0) id p.tile p.pa xs) else none)

end Sys2Proof.Machine
end

