-- ==== Sys2Proof/Machine/MemInstr.lean ====
section
/-! DEFINITION. Memory instructions (R146 to R151): flat loads and stores with their differentiable modes (R300 to R304),
scratchpad accesses, tensor element loads, the stack and prefetch. -/

namespace Sys2Proof.Machine

/-! ## Access to memory on the SQ path -/

/-- A trap that reports the access's address. -/
def trapAt {α : Type} (c : Cause) (a : Nat) : Res α := .trap (trapOf c (BitVec.ofNat 64 a))

/-- A fault of the tape: AUX holds tapeptr (R312). -/
def tapeFault {α : Type} (s : State) (cl : Nat) (c : Cause) (a : Word) : Res α :=
  .trap { cause := c, addr := a, aux := BitVec.ofNat 64 (s.cluster cl).tapeptr, level := 0 }

/-- A condition that raises a fault with an address. -/
def faultIf (c : Bool) (cause : Cause) (a : Nat) (s : State) : Res Unit := if c then trapAt cause a else .ok () s

/-- Reads n bytes of one line for a firing of the sequencer. DEDUCED (log entry 6). -/
def sqRead (cl ctx pa n : Nat) (ms : Bool) (va : Nat) (s : State) : Res Nat :=
  match memRead true cl pa n ms s with
  | .ok bs s1 => .ok (natOfBytes bs) (noteSeen s1 cl ctx pa n)
  | .stall => .stall
  | .trap c => trapAt c va
  | .abort c => .abort c

/-- A firing has room for one more outstanding store (R138). -/
def storeRoom (cl ctx : Nat) (s : State) : Res Unit := if s.outstanding cl ctx < 16 then .ok () s else .stall

/-! ## The tape (R302 to R304) -/

/-- tapelim, 0 meaning 4,096. -/
def Cluster.lim (c : Cluster) : Nat := if c.tapelim = 0 then 4096 else c.tapelim

/-- The header of a data record (Table 21.2), as 128 bits. -/
def dataHeader (mask tens seq off : Nat) : Nat :=
  mask * 4294967296 + tens * 1048576 + 18446744073709551616 * (seq * 1099511627776 + off)

/-- The header of a mark record. -/
def markHeader (tag seq : Nat) : Nat := 65536 + 18446744073709551616 * (seq * 1099511627776 + tag)

/-- Where record i of the segment lies: PA of its header and its payload, each translated and checked. -/
def recordAt (cl i : Nat) (write : Bool) (s : State) : Res (Nat × Nat) :=
  let base := ((s.cluster cl).tapebase.getD 0#64).toNat
  (sqAddress cl (base + 16 * i) 16 write s).bind (fun h s =>
    (sqAddress cl (base + 65536 + 128 * i) 128 write s).bind (fun p s => .ok (h.1, p.1) s))

/-- Reserves the next record: its places and its sequence number. DEDUCED (log entry 38). -/
def reserveRecord (cl : Nat) (s : State) : Res ((Nat × Nat) × Nat) :=
  let c := s.cluster cl
  (recordAt cl c.tapeptr true s).bind (fun r s =>
    let seq := (c.tapeseq + 1) % 16777216
    .ok (r, seq) (s.modCluster cl (fun c => { c with tapeptr := c.tapeptr + 1, tapeseq := c.tapeseq + 1 })))

/-- The mask of the lanes that n bytes at an offset of a beat lie in. -/
def laneMask (off n : Nat) : Nat :=
  (List.range 32).foldl (fun m k => if off / 4 ≤ k ∧ k ≤ (off + n - 1) / 4 then m + 2 ^ k else m) 0

/-- Posts a taped write within the beat at `beatPa`, beat `off` of the storage (R303), with its record already reserved. -/
def postTaped (cl : Nat) (cmd ctx : Option Nat) (id off beatPa : Nat) (bytes : List (Nat × Byte)) (mask : Nat)
    (r : (Nat × Nat) × Nat) (s : State) : State :=
  postNm cl cmd ctx beatPa (.taped bytes r.1.1 r.1.2 (dataHeader mask id r.2 off)) s

/-- A record of a cluster's tape has been performed: no operation on its bytes is in flight (R304). -/
def recordDone (s : State) (cl hdrPa : Nat) : Bool :=
  !s.nmops.any (fun o => o.cl == cl && (match o.kind with
    | .taped _ h _ _ => h == hdrPa
    | .mark _ => o.pa == hdrPa
    | _ => false))

/-- A taped store (R303). -/
def tapedStore (cl ctx : Nat) (x : DiffAt) (pa va : Nat) (bytes : List Byte) (s : State) : Res Unit :=
  let c := s.cluster cl
  if c.tapebase.isNone then tapeFault s cl Cause.tapeArg (BitVec.ofNat 64 va)
  else if c.lim ≤ c.tapeptr then tapeFault s cl Cause.tapeFull (BitVec.ofNat 64 va)
  else (storeRoom cl ctx s).bind (fun _ s => (reserveRecord cl s).bind (fun r s =>
    .ok () (postTaped cl none (some ctx) x.id x.off x.beatPa ((List.range bytes.length).zipWith (fun k b => (pa % 128 + k, b)) bytes)
      (laneMask (pa % 128) bytes.length) r s)))

/-- The fields of a header a pop compares: KIND, TENS, OFF, LMASK. -/
def headerKind (h : Nat) : Nat := bitsAt h 16 1
def headerTens (h : Nat) : Nat := bitsAt h 20 12
def headerMask (h : Nat) : Nat := bitsAt h 32 32
def headerOff (h : Nat) : Nat := bitsAt h 64 40
/-- The tag of a mark. -/
def headerTag (h : Nat) : Nat := bitsAt h 64 32

/-- Reads a record of the tape whose writes are performed. -/
def readRecord (cl ctx i : Nat) (va : Nat) (s : State) : Res (Nat × Nat) :=
  (recordAt cl i false s).bind (fun r s =>
    if !recordDone s cl r.1 then .stall
    else (sqRead cl ctx r.1 16 true va s).bind (fun h s => (sqRead cl ctx r.2 128 true va s).bind (fun p s => .ok (h, p) s)))

/-- The value of an adjoint cell, cleared to +0 in the same update (R304). A pad element has no cell: its value is free. -/
def readAndClear (cl ctx : Nat) (x : DiffAt) (s : State) : Res Word :=
  if !x.inside then let (v, s1) := s.free; .ok (v &&& 0xFFFFFFFF#64) s1
  else match x.cell with
    | none => .stall
    | some pa =>
      (nmLine cl ctx (some true) 0 pa 4 s).bind (fun _ s =>
        let s1 := nmSettle cl pa 4 s
        .ok (BitVec.ofNat 64 (s1.mem.read 4 pa)) (nmStore cl pa (bytesOfNat 4 0) s1))

/-- A store under REV or REV.DET (R304): d takes the adjoint cell, and the popped record restores the primal lanes. -/
def reverseStore (cl ctx : Nat) (d : Reg) (x : DiffAt) (pa va n : Nat) (s : State) : Res Unit :=
  if n * 8 ≠ tyBits x.ten.ty then tapeFault s cl Cause.tapeAcc (BitVec.ofNat 64 va)
  else
    let i := (s.cluster cl).tapeptr
    if i = 0 then tapeFault s cl Cause.tapeEmpty (BitVec.ofNat 64 va)
    else (storeRoom cl ctx s).bind (fun _ s => (readRecord cl ctx (i - 1) va s).bind (fun (h, p) s =>
      if headerKind h ≠ 0 ∨ headerTens h ≠ x.id ∨ headerOff h ≠ x.off ∨ !bitAt (headerMask h) (pa % 128 / 4) then
        tapeFault s cl Cause.tapeOrder (BitVec.ofNat 64 va)
      else (readAndClear cl ctx x s).bind (fun v s =>
        (wr cl ctx d v (s.modCluster cl (fun c => { c with tapeptr := i - 1 }))).bind (fun _ s =>
          .ok () (postNm cl none (some ctx) x.beatPa (.restore (headerMask h) (BitVec.ofNat 1024 p)) s)))))

/-- The exponent of a loss scale 2^e (R311). -/
def scaleExp (lscale : Word) : Int := (bitsAt lscale.toNat 23 8 : Nat) - 127

/-- Posts one accumulate into an adjoint cell (R303, R306), numbered within its source. -/
def postAccumulate (cl source : Nat) (cmd ctx : Option Nat) (pa : Nat) (v : Lane) (s : State) : State :=
  let c := s.cluster cl
  let n := SMap.get c.accSeq 0 source
  postNm cl cmd ctx pa (.acc v source n c.lsepoch (scaleExp c.lscale) (c.dmode == 2))
    (s.modCluster cl (fun c => { c with accSeq := SMap.set c.accSeq source (n + 1) }))

/-- The sequencer's source number in a slot, as a number (R276). -/
def sqSource (cl slot : Nat) : Nat := (sourceNumber cl 0x20 slot).toNat

/-- A load under REV or REV.DET (R303): the cell gains rd(d); a pad element has no cell. -/
def reverseLoad (cl ctx : Nat) (d : Reg) (x : DiffAt) (s : State) : Res Unit :=
  (storeRoom cl ctx s).bind (fun _ s => (rd cl ctx d s).bind (fun v s =>
    if !x.inside then .ok () s
    else match x.cell with
      | none => .stall
      | some pa => .ok () (postAccumulate cl (sqSource cl (((s.firing cl ctx).map (·.slot)).getD 0)) none (some ctx) pa (v.setWidth 32) s)))

/-! ## Flat loads and stores (R146) -/

/-- A load of n bytes. -/
def loadN (n : Nat) (d a : Reg) (i : BitVec 14) (s : State) : Host.Outcome State Fault Refusal :=
  instr 4 (fun cl ctx s0 => (rd cl ctx a s0).bind (fun x s =>
    let va := (ea x i).toNat
    (faultIf (decide (va % n ≠ 0)) Cause.seqAlign va s).bind (fun _ s =>
      (sqAddress cl va n false s).bind (fun p s =>
        match (s.cluster cl).dmode, diffOf s cl p.1 with
        | m + 1, some y =>
          let _ := m
          if n * 8 ≠ tyBits y.ten.ty ∨ n = 8 then tapeFault s cl Cause.tapeAcc (BitVec.ofNat 64 va)
          else (reverseLoad cl ctx d y s).bind (fun _ s => .ok .seq s)
        | _, _ => (sqRead cl ctx p.1 n p.2 va s).bind (fun v s =>
            (wr cl ctx d (BitVec.ofNat 64 v) s).bind (fun _ s => .ok .seq (s0.keepBack cl ctx [d, a] s))))))) s

def execLdb (d a : Reg) (i : BitVec 14) (s : State) := loadN 1 d a i s
def execLdh (d a : Reg) (i : BitVec 14) (s : State) := loadN 2 d a i s
def execLdw (d a : Reg) (i : BitVec 14) (s : State) := loadN 4 d a i s
def execLdd (d a : Reg) (i : BitVec 14) (s : State) := loadN 8 d a i s

/-- A store of n bytes. -/
def storeN (n : Nat) (d a : Reg) (i : BitVec 14) (s : State) : Host.Outcome State Fault Refusal :=
  instr 4 (fun cl ctx s => (rd cl ctx a s).bind (fun x s =>
    let va := (ea x i).toNat
    (faultIf (decide (va % n ≠ 0)) Cause.seqAlign va s).bind (fun _ s =>
      (sqAddress cl va n true s).bind (fun p s =>
        match diffOf s cl p.1 with
        | some y =>
          if (s.cluster cl).dmode = 0 then
            (rd cl ctx d s).bind (fun v s => (tapedStore cl ctx y p.1 va (bytesOfNat n v.toNat) s).bind (fun _ s => .ok .seq s))
          else (reverseStore cl ctx d y p.1 va n s).bind (fun _ s => .ok .seq s)
        | none =>
          (storeRoom cl ctx s).bind (fun _ s => (rd cl ctx d s).bind (fun v s =>
            .ok .seq (postWrite cl 0 none (some ctx) p.1 p.2 (bytesOfNat n v.toNat) s))))))) s

def execStb (d a : Reg) (i : BitVec 14) (s : State) := storeN 1 d a i s
def execSth (d a : Reg) (i : BitVec 14) (s : State) := storeN 2 d a i s
def execStw (d a : Reg) (i : BitVec 14) (s : State) := storeN 4 d a i s
def execStd (d a : Reg) (i : BitVec 14) (s : State) := storeN 8 d a i s

/-! ## Scratchpad (R148, R150) -/

/-- The sequencer's unit number in R163. -/
def sqUnit : Nat := 10

/-- The scratchpad address of `lds` and `sts`, checked. -/
def spadAddress (cl ctx : Nat) (a : Reg) (i : BitVec 14) (s : State) : Res Nat :=
  (rd cl ctx a s).bind (fun x s =>
    let e := (ea x i).toNat
    (faultIf (decide (Config.spadBytes ≤ e)) Cause.seqSpad e s).bind (fun _ s =>
      (faultIf (decide (e % 8 ≠ 0)) Cause.seqAlign e s).bind (fun _ s => .ok e s)))

/-- `lds` (R148): it blocks its firing until the value returns (R138). -/
def execLds (d a : Reg) (i : BitVec 14) (s : State) : Host.Outcome State Fault Refusal :=
  instr 4 (fun cl ctx s0 => (spadAddress cl ctx a i s0).bind (fun e s =>
    match s.ask cl sqUnit e 8 s.nextId ctx (pcOf cl ctx s) with
    | (s, true) => (returning cl ctx 4 s).bind (fun _ s =>
        (wr cl ctx d (BitVec.ofNat 64 (natOfBytes (spadRead s cl e 8))) s).bind (fun _ s => .ok .seq (s.holdNext cl ctx 4)))
    | (_, false) => .stallIn (s0.ask cl sqUnit e 8 s0.nextId ctx (pcOf cl ctx s0)).1)) s

/-- A write to scratchpad comes behind the writes that its firing has read before their homes held them: what reads it may then go to
their homes (rf and hb of R223). DEDUCED (log entry 6). -/
def spadBehind (cl ctx : Nat) (s : State) : Res Unit := if (s.unseen cl ctx).isEmpty then .ok () s else .stall

/-- `sts` (R148). -/
def execSts (d a : Reg) (i : BitVec 14) (s : State) : Host.Outcome State Fault Refusal :=
  instr 4 (fun cl ctx s0 => (spadAddress cl ctx a i s0).bind (fun e s => (spadBehind cl ctx s).bind (fun _ s => (rd cl ctx d s).bind (fun v s =>
    match s.ask cl sqUnit e 8 s.nextId ctx (pcOf cl ctx s) with
    | (s, true) => .ok .seq (spadWrite s cl e (bytesOfNat 8 v.toNat))
    | (_, false) => .stallIn (s0.ask cl sqUnit e 8 s0.nextId ctx (pcOf cl ctx s0)).1)))) s

/-- The range of registers of `pushm` and `popm` is legal. -/
def stackRange (d a : Reg) : Bool := decide (1 ≤ d.toNat) && decide (d.toNat ≤ a.toNat) && decide (a.toNat ≤ 47)

/-- The base of a context's part of the spill region, and the size of a part (R96). -/
def Cluster.partSize (c : Cluster) : Nat := c.spill / 4
def Cluster.partBase (c : Cluster) (ctx : Nat) : Nat := c.spbase + ctx * c.partSize

/-- `pushm` (R150). -/
def execPushm (d a : Reg) (s : State) : Host.Outcome State Fault Refusal :=
  instr 4 (fun cl ctx s => (illegalIf (!stackRange d a) s).bind (fun _ s =>
    match s.firing cl ctx with
    | none => .stall
    | some f =>
      let c := s.cluster cl
      let n := a.toNat - d.toNat + 1
      let at0 := c.partBase ctx + f.sp.toNat
      (faultIf (decide (f.sp.toNat % 8 ≠ 0)) Cause.seqAlign at0 s).bind (fun _ s =>
        (faultIf (decide (c.partSize < f.sp.toNat + 8 * n)) Cause.seqSpill 0 s).bind (fun _ s => (spadBehind cl ctx s).bind (fun _ s =>
          match s.ask cl sqUnit at0 (8 * n) s.nextId ctx f.pc with
          | (s, true) =>
            ((List.range n).foldl (fun (r : Res Unit) k => r.bind (fun _ s =>
              (rd cl ctx (BitVec.ofNat 6 (d.toNat + k)) s).bind (fun v s =>
                .ok () (spadWrite s cl (at0 + 8 * k) (bytesOfNat 8 v.toNat))))) (.ok () s)).bind
              (fun _ s => (wr cl ctx 52#6 (f.sp + BitVec.ofNat 64 (8 * n)) s).bind (fun _ s => .ok .seq s))
          | (s, false) => .stallIn s))))) s

/-- `popm` (R150): it blocks its firing until its last register is written (R138). -/
def execPopm (d a : Reg) (s : State) : Host.Outcome State Fault Refusal :=
  instr 4 (fun cl ctx s => (illegalIf (!stackRange d a) s).bind (fun _ s =>
    match s.firing cl ctx with
    | none => .stall
    | some f =>
      let c := s.cluster cl
      let n := a.toNat - d.toNat + 1
      (faultIf (decide (f.sp.toNat % 8 ≠ 0)) Cause.seqAlign (c.partBase ctx + f.sp.toNat) s).bind (fun _ s =>
        (faultIf (decide (f.sp.toNat < 8 * n) || decide (c.partSize < f.sp.toNat)) Cause.seqSpill 0 s).bind (fun _ s =>
          let at0 := c.partBase ctx + f.sp.toNat - 8 * n
          match s.ask cl sqUnit at0 (8 * n) s.nextId ctx f.pc with
          | (s, true) => (returning cl ctx (1 + (n + 1) / 2) s).bind (fun _ s =>
            (wr cl ctx 52#6 (f.sp - BitVec.ofNat 64 (8 * n)) s).bind (fun _ s =>
              ((List.range n).foldl (fun (r : Res Unit) k => r.bind (fun _ s =>
                wr cl ctx (BitVec.ofNat 6 (d.toNat + k)) (BitVec.ofNat 64 (natOfBytes (spadRead s cl (at0 + 8 * k) 8))) s))
                (.ok () s)).bind (fun _ s => .ok .seq (s.holdNext cl ctx (1 + (n + 1) / 2)))))
          | (s, false) => .stallIn s)))) s

/-! ## Tensor elements (R149) -/

/-- The coordinates in registers b to b + n − 1, padded to six. -/
def coordRegs (cl ctx : Nat) (b : Reg) (n : Nat) (s : State) : List Nat :=
  (List.range 6).map (fun k => if k < n then
      match rd cl ctx (BitVec.ofNat 6 (b.toNat + k)) s with | .ok v _ => v.toNat | _ => 0
    else 0)

/-- A tensor named by rd(a) and an element of it named by registers b on, under the rules of R149. -/
def tensorElement (cl ctx : Nat) (a b : Reg) (bad : Tensor → Bool) (s : State) : Res (Nat × Tensor × List Nat) :=
  (rd cl ctx a s).bind (fun x s =>
    let bads : Res (Nat × Tensor × List Nat) := .trap (trapOf Cause.seqTensor (x &&& 0xFFF#64))
    match s.taskOf cl with
    | none => bads
    | some t =>
      let ten := t.tensor x.toNat
      let xs := coordRegs cl ctx b ten.ndim s
      if 4096 ≤ x.toNat ∨ !ten.valid ∨ ten.expert ∨ b.toNat = 0 ∨ 31 < b.toNat + ten.ndim - 1 ∨ bad ten ∨ !ten.layout.inside xs
      then bads else .ok (x.toNat, ten, xs) s)

/-- Reads bytes that may cross from one line into the next. -/
def sqSpan (cl ctx pa n : Nat) (ms : Bool) (s : State) : Res Nat :=
  let k := Nat.min n (128 - pa % 128)
  (sqRead cl ctx pa k ms pa s).bind (fun lo s =>
    if k = n then .ok lo s else (sqRead cl ctx (pa + k) (n - k) ms pa s).bind (fun hi s => .ok (lo + hi * 256 ^ k) s))

/-- The n bytes of an element are translated and lay inside the lease, as those of a load (R146, R149); a windowed tensor's lie in frames
of their own, which no lease range holds (R251). DEDUCED (log entry 17). -/
def elementChecked (cl : Nat) (t : Task) (id : Nat) (xs : List Nat) (n : Nat) (s : State) : Res Unit :=
  let s1 := touchTile s cl 9 (tileKey id false ((t.tensor id).layout.tileOf xs))
  if (t.tensor id).windowed then .ok () s1
  else (sqAddress cl (t.elementVa id xs) n false s1).bind (fun _ s => .ok () s)

/-- `ldt` (R149, R303). -/
def execLdt (d a b : Reg) (s : State) : Host.Outcome State Fault Refusal :=
  instr 4 (fun cl ctx s0 => (tensorElement cl ctx a b (fun _ => false) s0).bind (fun (id, ten, xs) s =>
    match s.taskOf cl with
    | none => .stall
    | some t =>
      let w := tyBits ten.ty
      let n := (ten.layout.bitOff xs % 8 + w + 7) / 8
      (elementChecked cl t id xs n s).bind (fun _ s => match elementPlace s ((s.cluster cl).owner.getD 0) t id false ten.layout xs with
      | none => .stall
      | some p =>
        match (s.cluster cl).dmode, elementDiff s cl id xs p with
        | m + 1, some y => let _ := m; (reverseLoad cl ctx d y s).bind (fun _ s => .ok .seq s)
        | _, _ =>
          (sqSpan cl ctx p.pa ((p.bit + w + 7) / 8) ten.ms s).bind (fun v s =>
            (wr cl ctx d (BitVec.ofNat 64 (bitsAt v p.bit w)) s).bind (fun _ s => .ok .seq (s0.keepBack cl ctx [d, a] s)))))) s

/-! ## Prefetch (R151) -/

/-- `pf`: no state visible to programs changes; a remote line that may be read enters the RDC. One that a read would have to bring posted
messages or held contributions to first is left. -/
def execPf (a : Reg) (i : BitVec 14) (s : State) : Host.Outcome State Fault Refusal :=
  instr 4 (fun cl ctx s => (rd cl ctx a s).bind (fun x s =>
    let va := (ea x i).toNat
    if va % 128 ≠ 0 then .ok .seq s
    else match sqAddress cl va 128 false s with
      | .ok p s1 => if s1.poison.contains (p.1 / 128) || !s1.held.isEmpty || s1.posted.any (fun m => m.ownOf true cl p.1 128 || m.ahead cl p.1) then .ok .seq s else
        match memRead true cl p.1 128 p.2 s1 with
        | .ok _ s2 => .ok .seq s2
        | _ => .ok .seq s
      | _ => .ok .seq s)) s

end Sys2Proof.Machine
end

