-- ==== Sys2Proof/Machine/Engine.lean ====
section
/-! DEFINITION. What the engines share (R174, R180 to R183, R250): memory accesses on engine paths, running commands and their
ends, bank tokens (R165) and control tokens (R173). -/

namespace Sys2Proof.Machine

/-! ## Memory on engine paths (R183, R250, R252) -/

/-- The pieces of [a, a + n) that lie in one line each. -/
def pieces (a n : Nat) : List (Nat × Nat) :=
  (List.range (ceilDiv (a % 128 + n) 128)).map (fun k =>
    let lo := Nat.max a ((a / 128 + k) * 128)
    (lo, Nat.min (a + n) ((a / 128 + k + 1) * 128) - lo))

/-- Folds over a list while nothing stops it. -/
def Res.each {α β : Type} (xs : List β) (a : α) (s : State) (f : α → β → State → Res α) : Res α :=
  xs.foldl (fun r x => r.bind (fun a s => f a x s)) (.ok a s)

/-- Reads n bytes of one line for an engine. -/
def lineRead (cl pa n : Nat) (ms : Bool) (s : State) : Res (List Byte) :=
  match memRead false cl pa n ms s with
  | .ok bs s1 => .ok bs s1
  | .stall => .stall
  | .trap c => .trap (trapOf c 0#64)
  | .abort c => .abort c

/-- Reads n bytes at a virtual address for an engine: translated, checked, at their home or in the RDC. -/
def engRead (cl va n : Nat) (s : State) : Res (List Byte) :=
  Res.each (pieces va n) [] s (fun acc p s =>
    (sqAddress cl p.1 p.2 false s).bind (fun x s => (lineRead cl x.1 p.2 x.2 s).bind (fun bs s => .ok (acc ++ bs) s)))

/-- The windowed storage that holds a virtual address: tile table, tile, offset (R251, R253). DEDUCED (log entry 17). -/
def Task.windowAt (t : Task) (va : Nat) : Option (Nat × Nat × Nat) :=
  ((t.tensors.flatMap (fun e => [e.1, e.1 + 4096])).find? (fun n =>
    t.tableWindowed n && decide (t.tableStore n ≤ va) && decide (va < t.tableStore n + (t.tableLayout n).tiles * 65536))).map
    (fun n => (n, (va - t.tableStore n) / 65536, (va - t.tableStore n) % 65536))

/-- The stack whose part of the bounce buffer takes a tile's records: that of a tensor with a twin, else one after another
(R242; DESIGN CHOICE, log entry 41). -/
def Task.bounceStack (t : Task) (table tile : Nat) : Nat :=
  let x := t.tableTensor table
  if x.twinned then x.stk else tile % 8

/-- Bytes of a stack's part of the bounce buffer in use: a 16-byte header and the bytes of each record. DEDUCED (log entry 17). -/
def bounceUsed (s : State) (stack : Nat) : Nat :=
  s.bounce.foldl (fun n b => if ((s.task b.task).map (fun t => t.bounceStack b.tensor b.tile)) = some stack then n + 16 + b.bytes.length else n) 0

/-- Writes bytes of a tile of a windowed table: to the resident frame, or to the bounce buffer, whose being full holds the writer
(R252, R253). `go` writes at a PA. -/
def tileWrite (tid : Nat) (t : Task) (w : Nat × Nat × Nat) (bytes : List Byte) (go : Nat → Bool → State → State) (s : State) : Res Unit :=
  match (SMap.find t.tiles (4294967296 * w.1 + w.2.1)).filter (fun e => e.r) with
  | some e => .ok () (go (e.frame * 65536 + w.2.2) e.ms s)
  | none =>
    if Config.bounceStack < bounceUsed s (t.bounceStack w.1 w.2.1) + 16 + bytes.length then .stall
    else .ok () { s with bounce := s.bounce ++ [{ task := tid, tensor := w.1, tile := w.2.1, off := w.2.2, bytes := bytes }] }

/-- A write of the CP and CO engines to a windowed tensor: translated first (R250), then to its tile. -/
def windowWrite (cl cls : Nat) (id va : Nat) (w : Nat × Nat × Nat) (t : Task) (bytes : List Byte) (s : State) : Res Unit :=
  match translate s (dieOf cl) t.root va true with
  | .error f => f.res va
  | .ok x => tileWrite ((s.cluster cl).owner.getD 0) t w bytes (fun pa ms s => postWrite cl (1 + cls) (some id) none pa ms bytes s)
      (touchTile x.s cl 10 (4294967296 * w.1 + w.2.1))

/-- Posts a write of bytes at a virtual address for a command of a class. DEDUCED (log entry 17). -/
def engWrite (cl cls id va : Nat) (bytes : List Byte) (s : State) : Res Unit :=
  Res.each (pieces va bytes.length) () s (fun _ p s =>
    let bs := (bytes.drop (p.1 - va)).take p.2
    let flat := (sqAddress cl p.1 p.2 true s).bind (fun x s => .ok () (postWrite cl (1 + cls) (some id) none x.1 x.2 bs s))
    match s.taskOf cl with
    | none => flat
    | some t =>
      if (cls = 2 ∨ cls = 4) ∧ t.inWindow p.1 p.2 then
        match t.windowAt p.1 with
        | some w => windowWrite cl cls id p.1 w t bs s
        | none => match translate s (dieOf cl) t.root p.1 true with
          | .error f => f.res p.1
          | .ok _ => .kill Cause.leaseOut
      else flat)

/-- The dies that a record's expert bitmask names (R323). -/
def replDies (mask : Nat) : List Nat := (List.range 4).filter (fun d => bitsAt mask (16 * d) 16 != 0)

/-- Where a record of 128 bytes goes (R323): at va + 2^24·d for every die d that its dword 0 names. -/
def replPlaces (va : Nat) (bs : List Byte) : List Nat := (replDies (natOfBytes (bs.take 8))).map (fun d => va + 16777216 * d)

/-! ## Running commands (R181, R182) -/

/-- The running command of a name. -/
def Cluster.run (c : Cluster) (id : Nat) : Option Run := c.running.find? (fun r => r.cmd.id == id)

/-- Changes a running command. -/
def State.modRun (s : State) (cl id : Nat) (f : Run → Run) : State :=
  s.modCluster cl (fun c => { c with running := c.running.map (fun r => if r.cmd.id = id then f r else r) })

/-- A command has nothing more to do: it completes once its writes are performed. -/
def endRun (s : State) (cl id : Nat) (status : Cause) (count : Nat) : State :=
  (s.modRun cl id (fun r => { r with done := true, status := status, count := count })).settle cl id

/-- What a part of a command's work leads to: it goes on, waits, ends with a status, or ends the task. -/
def workRes {α : Type} (s : State) (cl : Nat) (r : Res α) (go : α → State → State) (fail : Cause → State) : State :=
  match r with
  | .ok a s1 => go a s1
  | .stall => s
  | .stallIn s1 => s1
  | .trap t => fail t.cause
  | .kill c => killAt s cl 4 c
  | .abort c => abortAt s cl 4 c
  | .cut _ => s

/-- The completion word (Table 10.2). -/
def completionWord (r : Run) : Word :=
  BitVec.ofNat 64 (r.status.toNat * 281474976710656 + r.cmd.tag * 1099511627776 + r.cmd.cls * 68719476736
    + r.cmd.sub * 4294967296 + Nat.min r.count 4294967295)

/-- A completion beat reaches its handle. -/
def postHandle (s : State) (cl h : Nat) (w : Word) : State :=
  refresh (s.modCluster cl (fun c =>
    let key := portKey 0x20 h
    let ch := (c.chan key).getD completionChan
    c.setChan key { ch with items := ch.items ++ [.data (BitVec.ofNat 1024 w.toNat)] })) cl

/-- A completion is delivered (R182). -/
def deliver (s : State) (cl : Nat) (r : Run) : State :=
  match r.cmd.target with
  | .handle h => postHandle s cl h (completionWord r)
  | .sem pa => postNm cl none none pa (.sig (completionAdd r.status)) s
  | .none => s

/-- No command with the same target has completed before it and not yet posted (R182). -/
def State.postsNext (s : State) (cl : Nat) (r : Run) : Bool :=
  (s.settled.takeWhile (fun x => x != (cl, r.cmd.id))).all (fun x => x.1 != cl || (match (s.cluster cl).run x.2 with
    | some y => y.cmd.target != r.cmd.target || !s.completed cl y
    | none => true))

/-- COMPLETION_POST: a command that has completed posts its completion, after those of its target that completed before it (R182), and leaves
its engine. A command that its task's end has cancelled posts its add once its writes are performed (R200). A follow-on command gives its
outcome to the `cp.mx` it belongs to (R195). -/
def execCompletionPost (cl id : Nat) (s : State) : Host.Outcome State Fault Refusal :=
  match (s.cluster cl).run id with
  | none => .next (settleCancel s cl id)
  | some r =>
    if r.done && s.completed cl r && s.postsNext cl r && !s.onWay (.completion cl id) then
      let s1 := { closeBatch s (dieOf cl) with settled := s.settled.filter (fun x => x != (cl, id)) }
      let s2 := (if r.cmd.cls = 3 then l2Unpin s1 id else s1).modCluster cl
        (fun c => { c with running := c.running.filter (fun x => x.cmd.id != id) })
      match r.cmd.parent with
      | some p => .next (s2.modRun cl p (fun x => { x with done := true, status := if x.status = 0#16 then r.status else x.status }))
      | none => .next (deliver s2 cl r)
    else .next s

/-! ## Bank tokens (R164, R165) -/

def Cluster.token (c : Cluster) (bank : Nat) : Token := SMap.get c.tokens Token.reset bank

/-- The token that a BANK field writes (Table 9.1). -/
def tokenOf (v : Nat) : Token := { own := bitsAt v 0 3, ov := bitAt v 3, nxt := bitsAt v 4 3, nv := bitAt v 7 }

/-- An owner releases a bank in this cycle: the hand-off ends two cycles later. -/
def releaseBank (now : Nat) (c : Cluster) (ag bank : Nat) : Cluster :=
  let t := c.token bank
  if t.ov && t.own == ag && !c.handoffs.any (fun h => h.bank == bank) then
    { (c.setAg ag { c.ag ag with released := bank :: (c.ag ag).released }) with
      handoffs := c.handoffs ++ [{ bank := bank, due := now + 2 }] }
  else c

/-- In the cycle after the last grant of its phase a generator releases every bank it owns, or with REL = 1 its last bank (R165). -/
def releaseAll (now : Nat) (c : Cluster) (ag : Nat) : Cluster :=
  if !bitAt (c.fieldN (0x18 + ag) 0) 4 then c
  else if bitAt (c.fieldN (0x18 + ag) 0) 3 then
    match (c.ag ag).curBank with
    | some b => releaseBank (now + 1) c ag b
    | none => c
  else (List.range 32).foldl (fun c b => releaseBank (now + 1) c ag b) c

/-! ## Control tokens (R173) -/

def Cluster.swTile (c : Cluster) (a : Nat) : Bool := bitAt (c.fieldN 0x24 a) 0
def Cluster.deTile (c : Cluster) (a : Nat) : Bool := bitAt (c.fieldN 0x24 a) 1
def Cluster.dtgt (c : Cluster) (a : Nat) : Nat := bitsAt (c.fieldN 0x24 a) 2 5

/-- A tile ends a loop: with DE it sends DONE, which arrives two cycles later as a START. -/
def loopEnd (now : Nat) (c : Cluster) (a : Nat) : Cluster :=
  if c.deTile a then { c with ctlFly := c.ctlFly ++ [{ tile := c.dtgt a, done := false, due := now + 2 }] } else c

/-- The four tokens of a memory tile, and what its BANK fields last set. -/
def Cluster.tileTokens (c : Cluster) (t : Nat) : List Token := (List.range 4).map (fun j => c.token (4 * t + j))
def Cluster.fieldTokens (c : Cluster) (t : Nat) : List Token := (List.range 4).map (fun j => tokenOf (c.fieldN (0x10 + t) j))

/-- A memory tile with a pending START begins a loop once its last one has ended: its tokens are reinstated. A loop of a tile none of whose
tokens is owned has ended at once. DEDUCED (log entry 19). -/
def tileStart (now : Nat) (c : Cluster) (t : Nat) : Cluster :=
  let handing := c.handoffs.any (fun h => h.bank / 4 == t)
  if c.swTile (0x10 + t) && c.starts.contains (0x10 + t) && !c.looping.contains t && !handing then
    let c1 := { c with starts := c.starts.filter (fun x => x != 0x10 + t),
                       tokens := (List.range 4).foldl (fun m j => SMap.set m (4 * t + j) ((c.fieldTokens t).getD j Token.reset)) c.tokens }
    if (c.fieldTokens t).all (fun x => !x.ov) then loopEnd now c1 (0x10 + t) else { c1 with looping := t :: c1.looping }
  else c

/-- BANK_HANDOFF: the successor owns the bank, or it is free. A tile whose four tokens are free has ended its loop. DEDUCED (log entry 2). DEDUCED (log entry 19). -/
def execBankHandoff (cl bank : Nat) (s : State) : Host.Outcome State Fault Refusal :=
  match (s.cluster cl).handoffs.find? (fun h => h.bank == bank) with
  | none => .next s
  | some h =>
    let s1 := s.upTo h.due
    .next (s1.modCluster cl (fun c =>
      let t := c.token bank
      let t1 : Token := if t.nv then { own := t.nxt, ov := true, nxt := t.nxt, nv := false } else { t with ov := false }
      let c1 := { c with handoffs := c.handoffs.filter (fun x => x.bank != bank), tokens := SMap.set c.tokens bank t1 }
      let c2 := if !t1.ov && (c1.tileTokens (bank / 4)).all (fun x => !x.ov)
        then loopEnd s1.now { c1 with looping := c1.looping.filter (fun x => x != bank / 4) } (0x10 + bank / 4) else c1
      tileStart s1.now c2 (bank / 4)))

/-- CONTROL_TOKEN_DELIVER: a START is kept as one pending bit; a DONE of the sequencer stops a generator at its next period
boundary and is discarded by other tiles. -/
def execControlTokenDeliver (cl k : Nat) (s : State) : Host.Outcome State Fault Refusal :=
  match (s.cluster cl).ctlFly[k]? with
  | none => .next s
  | some x =>
    let s1 := s.upTo x.due
    .next (s1.modCluster cl (fun c0 =>
      let c := { c0 with ctlFly := c0.ctlFly.eraseIdx k }
      if x.done then
        if 0x18 ≤ x.tile ∧ x.tile < 0x20 then
          c.setAg (x.tile - 0x18) { c.ag (x.tile - 0x18) with phase := (c.ag (x.tile - 0x18)).phase.map (fun p => { p with stop := true }) }
        else c
      else
        let c1 := if c.starts.contains x.tile then c else { c with starts := c.starts ++ [x.tile] }
        if 0x10 ≤ x.tile ∧ x.tile < 0x18 then tileStart s1.now c1 (x.tile - 0x10) else c1))

/-- SCOREBOARD_RETIRE: the entry of a copy whose last byte has been granted goes (R174). -/
def execScoreboardRetire (cl k : Nat) (s : State) : Host.Outcome State Fault Refusal :=
  match (s.cluster cl).board[k]? with
  | none => .next s
  | some r =>
    match r.done with
    | none => .next s
    | some c => .next ((s.upTo c).modCluster cl (fun x => { x with board := x.board.eraseIdx k }))

end Sys2Proof.Machine
end

