-- ==== Sys2Proof/Machine/Gen.lean ====
section
/-! DEFINITION. What an address generator's configuration says (R166, R167, R185, R190, R305): its fields, the order of its
channel end, its counters, and the addresses and elements of a beat. -/

namespace Sys2Proof.Machine

/-! ## Configuration (Table 9.2) -/

def agEl (g : Nat) : Nat := 0x18 + g
def Cluster.agEn (c : Cluster) (g : Nat) : Bool := bitAt (c.fieldN (agEl g) 0) 0
/-- DIR = 1: writes memory from its channel. -/
def Cluster.agDir (c : Cluster) (g : Nat) : Bool := bitAt (c.fieldN (agEl g) 0) 1
def Cluster.agSpace (c : Cluster) (g : Nat) : Bool := bitAt (c.fieldN (agEl g) 0) 2
def Cluster.agRel (c : Cluster) (g : Nat) : Bool := bitAt (c.fieldN (agEl g) 0) 3
def Cluster.agGate (c : Cluster) (g : Nat) : Bool := bitAt (c.fieldN (agEl g) 0) 4
def Cluster.agAuto (c : Cluster) (g : Nat) : Bool := bitAt (c.fieldN (agEl g) 0) 5
def Cluster.agBase (c : Cluster) (g : Nat) : Nat := c.fieldN (agEl g) 1 + 65536 * bitsAt (c.fieldN (agEl g) 2) 0 3
/-- The tensor of a tensor-space generator. -/
def Cluster.agTensor (c : Cluster) (g : Nat) : Nat := bitsAt (c.fieldN (agEl g) 1) 0 12

/-- The descriptor in eight order fields from `f` on (R66). -/
def Cluster.descAt (c : Cluster) (el f : Nat) : Nat :=
  (List.range 8).foldr (fun k n => n * 65536 + c.fieldN el (f + k)) 0

def Cluster.agOrder (c : Cluster) (g : Nat) : Order := (orderOf (c.descAt (agEl g) 8)).getD Order.blank
def Cluster.agTrip (c : Cluster) (g n : Nat) : Nat := c.fieldN (agEl g) (0x10 + 4 * n) + 1
def Cluster.agStride (c : Cluster) (g n : Nat) : Int :=
  asSigned (c.fieldN (agEl g) (0x11 + 4 * n) + 65536 * c.fieldN (agEl g) (0x12 + 4 * n)) 32
def Cluster.agTcEn (c : Cluster) (g n : Nat) : Bool := bitAt (c.fieldN (agEl g) (0x13 + 4 * n)) 0
def Cluster.agTcDim (c : Cluster) (g n : Nat) : Nat := bitsAt (c.fieldN (agEl g) (0x13 + 4 * n)) 1 3

/-- The tensor-table entry of a generator's tensor. -/
def genTensor (s : State) (cl g : Nat) : Tensor :=
  match s.taskOf cl with
  | some t => t.tensor ((s.cluster cl).agTensor g)
  | none => Tensor.blank

/-- The generator names a differentiable tensor (R300). -/
def onDiff (s : State) (cl g : Nat) : Bool := (s.cluster cl).agSpace g && (genTensor s cl g).diff

/-- The generator sends into its channel: DIR 0, or DIR 1 on a differentiable tensor committed in a reverse mode (R305). -/
def emits (s : State) (cl g : Nat) : Bool :=
  let c := s.cluster cl
  (!c.agDir g) != (onDiff s cl g && SMap.get c.agMode 0 g != 0)

/-- The phase moves FP32 beats of the adjoint (R305). -/
def inReverse (s : State) (cl g : Nat) : Bool := onDiff s cl g && SMap.get (s.cluster cl).agMode 0 g != 0

/-- The order a port moves beats in: with TYPE 0 in a reverse mode. -/
def portOrder (s : State) (cl g : Nat) : Order :=
  let o := (s.cluster cl).agOrder g
  if inReverse s cl g then o.withTy 0 else o

/-- The key of the generator's channel end. -/
def agPort (g : Nat) : Nat := portKey (agEl g) 0

/-! ## Elements of a beat -/

/-- Where an element lies in a beat: bit and width. Pixels travel in carrier form (R122). -/
def elemBit (ty l sub : Nat) : Nat := if isPixel ty then tyBits ty * (2 * l + sub) else 32 * l + tyWidth ty * sub

/-- The bits of an element of a beat. -/
def beatElem (b : Beat) (ty l sub : Nat) : Nat := bitsAt b.toNat (elemBit ty l sub) (tyBits ty)

/-- A beat from elements: lane, subword, value. -/
def beatOf (ty : Nat) (es : List (Nat × Nat × Nat)) : Beat :=
  BitVec.ofNat 1024 (es.foldl (fun n e => n + e.2.2 % 2 ^ tyBits ty * 2 ^ elemBit ty e.1 e.2.1) 0)

/-! ## Stepping (R167, R190) -/

/-- The outermost enabled counter. -/
def Cluster.agOuter (c : Cluster) (g : Nat) : Option Nat := (List.range 4).reverse.find? (fun n => c.agTcEn g n)

/-- Steps the enabled counters of a list, innermost first: the new values, and whether the outermost wrapped. -/
def stepTc : List (Bool × Nat × Nat) → List Nat × Bool
  | [] => ([], true)
  | (en, trip, cur) :: r =>
    if !en then let (ns, w) := stepTc r; (cur :: ns, w)
    else if cur + 1 < trip then ((cur + 1) :: r.map (fun x => x.2.2), false)
    else let (ns, w) := stepTc r; (0 :: ns, w)

/-- A list stream: its outermost counter takes list entries. -/
def Phase.listed (p : Phase) : Bool := p.sub == 8 || p.sub == 9
/-- A record stream (R187). -/
def Phase.records (p : Phase) : Bool := p.sub == 6 || p.sub == 7

/-- The phase at the start of its next period. -/
def Phase.next (c : Cluster) (g : Nat) (p : Phase) (entries : Nat) : Phase :=
  let outer := c.agOuter g
  let rows := (List.range 4).map (fun n =>
    (c.agTcEn g n && !(p.listed && outer == some n), p.trips.getD n 1, p.tc.getD n 0))
  let (tc, wrapped) := stepTc rows
  let p1 := { p with tc := tc, t := 0, opened := false, part := 0, limit := 0 }
  if p.listed then
    if wrapped then { p1 with entry := p.entry + 1, val := none, ended := decide (entries ≤ p.entry + 1) } else p1
  else { p1 with entry := p.entry + 1, ended := wrapped }

/-- The value of a counter: the list entry for the outermost one of a list stream. -/
def Phase.count (c : Cluster) (g : Nat) (p : Phase) (n : Nat) : Int :=
  if p.listed ∧ c.agOuter g = some n then (p.val.getD 0 : Nat) else (p.tc.getD n 0 : Nat)

/-- The scratchpad address of beat t of the tile (R167). -/
def Phase.ea (c : Cluster) (g : Nat) (p : Phase) : Int :=
  (List.range 4).foldl (fun a n => if c.agTcEn g n then a + p.count c g n * c.agStride g n else a) p.base + 128 * (p.t : Nat)

/-- The tensor coordinates of the tile's origin. -/
def Phase.origin (c : Cluster) (g : Nat) (p : Phase) (d : Nat) : Int :=
  (List.range 4).foldl (fun a n =>
    if c.agTcEn g n ∧ c.agTcDim g n = d then a + (p.count c g n + p.offs.getD n 0) * c.agStride g n else a) 0

/-- The elements of the beat in progress: lane, subword, and coordinates where they lie inside the extents (R168). -/
def Phase.elems (c : Cluster) (g : Nat) (p : Phase) (o : Order) (ten : Tensor) : List (Nat × Nat × Option (List Nat)) :=
  o.cells.map (fun x =>
    let cs := o.coords p.t x.1 x.2
    let xs := (List.range 6).map (fun d => p.origin c g d + (cs.getD d 0 : Nat))
    if (List.range 6).all (fun d => decide (0 ≤ xs.getD d 0) && decide (xs.getD d 0 < (ten.ext d : Nat))) then
      (x.1, x.2, some (xs.map Int.toNat))
    else (x.1, x.2, none))

/-- Beats of the period in progress: T, or what a ragged length leaves. -/
def Phase.beats (p : Phase) (o : Order) : Nat :=
  match p.ragged with
  | some n => if o.rag then Nat.min n o.nmax * o.block else o.t
  | none => o.t

end Sys2Proof.Machine
end

