-- ==== Sys2Proof/Machine/Expert.lean ====
section
/-! DEFINITION. Demand-paged experts (R286 to R294, R298): the residency table, the pool, fetches and the `ert.*` instructions. -/

namespace Sys2Proof.Machine

/-! ## The table (R286) -/

def State.ert (s : State) (key : Nat) : Option Ert := SMap.find s.hub.ert key

/-- dw0 of a valid entry (Table 20.1). -/
def ertWord (key : Nat) (e : Ert) : Word :=
  BitVec.ofNat 64 (key * 4294967296 + e.state * 1073741824 + 536870912 + (if e.failed then 268435456 else 0)
    + e.nsl * 65536 + e.pre * 256 + e.pfx)

/-- dw1 of a valid entry. -/
def ertWord1 (e : Ert) : Word := BitVec.ofNat 64 (e.pin * 281474976710656 + e.slb * 1099511627776 + e.pool)

/-- Bytes of a slice, and of an expert's region. -/
def Ert.sliceBytes (e : Ert) : Nat := e.slb * 65536
def Ert.bytes (e : Ert) : Nat := e.nsl * e.sliceBytes

/-- A die's ERT cache holds an entry of the table (R288). -/
def Die.cachesErt (d : Die) (key : Nat) : Bool := d.ertCache.any (fun x => x.1 == key)

/-- A change of an entry: every cached copy of it is changed with it (R288). -/
def State.modErt (s : State) (key : Nat) (f : Ert → Ert) : State :=
  match s.ert key with
  | some e =>
    { s with hub := { s.hub with ert := SMap.set s.hub.ert key (f e) },
             dies := s.dies.map (fun d => (d.1, { d.2 with ertCache := d.2.ertCache.map (fun x =>
               if x.1 = key then (key, ertWord key (f e), ertWord1 (f e)) else x) })) }
  | none => s

/-- A consult of an entry by a die (R288): a miss fills the cache from the hub; the entry is the one used last, and the one used
least recently goes when there are more than 1,024. -/
def consult (s : State) (die key : Nat) : State :=
  match s.ert key with
  | some e => s.modDie die (fun d =>
      { d with ertCache := ((key, ertWord key e, ertWord1 e) :: d.ertCache.filter (fun x => x.1 != key)).take Config.ertCacheEntries })
  | none => s

/-- A use of an expert on a die: the die consults its entry, and keeps the use for the next report (R289). -/
def noteUse (s : State) (die key : Nat) : State := (consult s die key).modDie die (fun d => { d with uses := d.uses ++ [(key, s.tsc)] })

/-- The expert is in use (R291): a generator's phase, or a running matrix command, reads its tensor. DEDUCED (log entry 16). -/
def expertInUse (s : State) (key : Nat) : Bool :=
  s.clusters.any (fun (cl, c) =>
    (List.range 8).any (fun g => (c.ag g).phase.isSome && c.agSpace g && (genTensor s cl g).expert && (genTensor s cl g).key == key)
    || c.running.any (fun r => r.cmd.cls == 3 && !r.done && decide (r.cmd.sub ≤ 7) && bitAt (c.fieldN 0x21 0) (if r.cmd.sub = 0 then 2 else 1) &&
        (match s.taskOf cl with
         | some t => (t.tensor (bitsAt r.cmd.a.toNat 0 12)).expert && (t.tensor (bitsAt r.cmd.a.toNat 0 12)).key == key
           && bitAt r.cmd.cs 6 == false
         | none => false)))

/-- Rows of a key are parked somewhere, or have not all left their node (R296). -/
def hasParked (s : State) (key : Nat) : Bool :=
  s.dies.any (fun d => d.2.bramble.any (fun b => b.key.toNat == key))
  || s.clusters.any (fun c => c.2.ces.any (fun e => e.2.parked.any (fun p => p.key.toNat == key)))

/-! ## The pool (R293) -/

/-- The lowest place in the pool where n bytes fit. -/
def poolFit (h : Hub) (n : Nat) : Option Nat :=
  let free := fun a => decide (h.poolBase ≤ a) && decide (a + n ≤ h.poolBase + h.poolSize) && h.pool.all (fun r => !meets r.1 r.2 a n)
  ((h.poolBase :: h.pool.map (fun r => r.1 + r.2)).filter free).foldl (fun b a => match b with
    | some x => some (Nat.min x a)
    | none => some a) none

/-- The expert may be evicted (R293). -/
def evictable (s : State) (key : Nat) (e : Ert) : Bool :=
  e.pin == 0 && (e.state == 1 || e.state == 2) && !expertInUse s key && !hasParked s key

/-- Evicts an expert: PRE = 0, ABSENT, its region free. An ABSENT one has no region. -/
def evict (s : State) (key : Nat) : State :=
  match s.ert key with
  | none => s
  | some e =>
   if e.state = 0 then s else
    let s1 := s.modErt key (fun e => { e with pre := 0, state := 0, pool := 0 })
    { s1 with hub := { s1.hub with pool := s1.hub.pool.filter (fun r => r.1 != e.pool * 65536) } }

/-- The latest use of an expert that the hub knows of: LAST, or a use that its die reported at the end of its frame, at most 4,096 cycles
after it (R289). -/
def lastUse (s : State) (key : Nat) (e : Ert) : Nat :=
  s.dies.foldl (fun n d => d.2.uses.foldl (fun n u =>
    if u.1 = key ∧ u.2 + Config.frameCycles * 10 / 13 < s.tsc then Nat.max n u.2 else n) n) e.last

/-- The next expert to evict: least LAST, then least KEY. DEDUCED (log entry 16). -/
def evictNext (s : State) : Option Nat :=
  (s.hub.ert.foldl (fun (b : Option (Nat × Nat)) x =>
    if evictable s x.1 x.2 then
      let n := lastUse s x.1 x.2
      match b with
      | some y => if n < y.2 then some (x.1, n) else b
      | none => some (x.1, n)
    else b) none).map (·.1)

/-- A place for n bytes, whole experts being evicted one after another until one exists, or nothing more may be evicted. DEDUCED (log entry
16). -/
def poolAlloc : Nat → Nat → State → Option Nat × State
  | 0, n, s => (poolFit s.hub n, s)
  | fuel + 1, n, s =>
    match poolFit s.hub n with
    | some a => (some a, s)
    | none => match evictNext s with
      | some k => poolAlloc fuel n (evict s k)
      | none => (none, s)

/-! ## Fetches (R292, R294) -/

def fetchOf (s : State) (key : Nat) : Option Fetch := s.hub.fetches.find? (fun f => f.key == key)
def State.setFetches (s : State) (fs : List Fetch) : State := { s with hub := { s.hub with fetches := fs } }

/-- Asks for slices of an expert up to a target: joins the fetch that runs or waits, raising its target, or asks for one. -/
def askFetch (s : State) (cl key target : Nat) : State :=
  match fetchOf s key with
  | some _ => s.setFetches (s.hub.fetches.map (fun f => if f.key = key then { f with target := Nat.max f.target target } else f))
  | none => s.setFetches (s.hub.fetches ++ [{ key := key, target := target, cl := cl, task := (s.cluster cl).owner, allocated := false }])

/-- A reader that needs slice j of an expert (R291): starts a fetch unless one runs or the last one failed. -/
def needSlice (s : State) (cl key j : Nat) : State :=
  match s.ert key with
  | none => s
  | some e =>
    if e.state = 3 ∨ (fetchOf s key).isSome then askFetch s cl key (j + 1)
    else if e.failed then s else askFetch s cl key e.nsl

/-- A fetch that waits gets its region, or the region its landed slices already have; without one it goes on waiting. DEDUCED (log entry 16). -/
def startFetch (s : State) (key : Nat) : State :=
  match fetchOf s key, s.ert key with
  | some f, some e =>
    if f.allocated then s
    else
      let begin := fun (s : State) (pool : Nat) =>
        (s.modErt key (fun e => { e with state := 3, pool := pool })).setFetches
          (s.hub.fetches.map (fun f => if f.key = key then { f with allocated := true } else f))
      if 0 < e.pre then begin s e.pool
      else match poolAlloc s.hub.ert.length e.bytes s with
        | (some a, s1) => begin { s1 with hub := { s1.hub with pool := s1.hub.pool ++ [(a, e.bytes)] } } (a / 65536)
        | (none, s1) => s1
  | _, _ => s

/-- The lines of [a, a + n) leave every RDC, as the hub or the firmware has written them; the host holds none of them then (R317). DEDUCED
(log entry 25). -/
def dropLines (s : State) (a n : Nat) : State :=
  { s with writers := s.writers.filter (fun x => !(decide (a ≤ x.1) && decide (x.1 < a + n))), dies := s.dies.map (fun d => (d.1, { d.2 with rdc := d.2.rdc.filter (fun l => !meets (128 * l.1) 128 a n) })) }

/-! ### Reads of storage (R325) -/

/-- NVMe Read commands of a slice: at most 128 KiB each. -/
def Ert.reads (e : Ert) : Nat := ceilDiv e.sliceBytes 131072

/-- The Read commands of a key's next slice stand in the queue pairs 0 to 3, as the key and their part. -/
def State.sliceAsked (s : State) (key : Nat) : Bool := s.hub.qpairs.any (fun p => decide (p.1 < 4) && p.2.any (fun r => r.1 == key))

/-- The Read commands of the next slice of a fetch from storage enter the pairs 0 to 3 in turn, once they have room there (R325). DESIGN
CHOICE (log entry 39). -/
def askSlice (s : State) (key : Nat) : State :=
  match fetchOf s key, s.ert key with
  | some f, some e =>
    if !f.allocated || !e.sk || decide (e.nsl ≤ e.pre) || s.sliceAsked key then s
    else
      let q := (List.range e.reads).foldl (fun m p => SMap.set m (p % 4) (SMap.get m [] (p % 4) ++ [(key, p)])) s.hub.qpairs
      if q.any (fun p => decide (p.1 < 4) && decide (Config.pairDepth < p.2.length)) then s else { s with hub := { s.hub with qpairs := q } }
  | _, _ => s

/-- A key's Read commands are at an end. -/
def endReads (s : State) (key : Nat) : State :=
  let qs := s.hub.qpairs.map (fun p => (p.1, if p.1 < 4 then p.2.filter (fun r => r.1 != key) else p.2))
  { s with hub := { s.hub with qpairs := qs.filter (fun p => !p.2.isEmpty) } }

/-- EXPERT_FETCH. -/
def execExpertFetch (key : Lane) (s : State) : Host.Outcome State Fault Refusal := .next (askSlice (startFetch s key.toNat) key.toNat)

/-- POOL_ALLOC_RETRY: a waiting allocation tries again. -/
def execPoolAllocRetry (key : Lane) (s : State) : Host.Outcome State Fault Refusal :=
  match fetchOf s key.toNat with
  | some f => if f.allocated then .next s else .next (askSlice (startFetch s key.toNat) key.toNat)
  | none => .next s

/-- The source of slice k: the CXL tier's PA, or a namespace and a block. -/
def Ert.sourcePa (e : Ert) (k : Nat) : Nat := e.src + k * e.sliceBytes
def Ert.namespace_ (e : Ert) : Nat := bitsAt e.src 48 15
def Ert.lba (e : Ert) (k : Nat) : Nat := bitsAt e.src 0 48 + k * e.slb * 16

/-- The next slice of a fetch cannot be read: CXL poison, or a handle that is not bound, or blocks past its end. -/
def sourceBad (s : State) (e : Ert) : Bool :=
  if e.sk then
    match SMap.find s.hub.namespaces e.namespace_ with
    | some n => decide (n.blocks < e.lba e.pre + e.slb * 16)
    | none => true
  else s.poison.any (fun l => meets (128 * l) 128 (e.sourcePa e.pre) e.sliceBytes)

/-- The bytes of a slice are copied to the pool. -/
def copySlice (s : State) (e : Ert) : State :=
  let dst := (e.pool * 65536) + e.pre * e.sliceBytes
  if e.sk then
    match SMap.find s.hub.namespaces e.namespace_ with
    | some n =>
      let cells := n.data.filter (fun c => decide (4096 * e.lba e.pre ≤ c.1) && decide (c.1 < 4096 * e.lba e.pre + e.sliceBytes))
      dropLines { s with mem := cells.foldl (fun m c => m.writeByte (dst + (c.1 - 4096 * e.lba e.pre)) c.2) (s.mem.erase dst e.sliceBytes) }
        dst e.sliceBytes
    | none => s
  else dropLines { s with mem := s.mem.copy (e.sourcePa e.pre) dst e.sliceBytes } dst e.sliceBytes

/-- A fetch ends with F set; its landed slices stay. -/
def failFetch (s : State) (key : Nat) (e : Ert) : State :=
  let s1 := endReads (s.setFetches (s.hub.fetches.filter (fun g => g.key != key))) key
  let s2 := if e.pre = 0 then evict s1 key else s1
  s2.modErt key (fun e => { e with failed := true, state := if e.pre = 0 then 0 else 1 })

/-- SLICE_LANDED: a slice's writes are performed and PRE rises by one; at its target the fetch ends. One from storage has its Read commands
in the queue pairs. A write to a line of the pool in error aborts the gang that the fetch is for (R217, R242), and the fetch fails. -/
def execSliceLanded (key : Lane) (s : State) : Host.Outcome State Fault Refusal :=
  match fetchOf s key.toNat, s.ert key.toNat with
  | some f, some e =>
    let dst := e.pool * 65536 + e.pre * e.sliceBytes
    if !f.allocated || sourceBad s e || decide (e.nsl ≤ e.pre) || s.hostHolds dst e.sliceBytes || (e.sk && !s.sliceAsked key.toNat) then .next s
    else if let some c := s.homeError dst e.sliceBytes then .next (gangError (failFetch s key.toNat e) f.task c)
    else
      let s1 := endReads (copySlice s e) key.toNat
      let pre := e.pre + 1
      if Nat.min f.target e.nsl ≤ pre then
        .next ((s1.modErt key.toNat (fun e => { e with pre := pre, state := if pre = e.nsl then 2 else 1 })).setFetches
          (s1.hub.fetches.filter (fun g => g.key != key.toNat)))
      else .next (askSlice (s1.modErt key.toNat (fun e => { e with pre := pre })) key.toNat)
  | _, _ => .next s

/-- FETCH_FAIL (R294): the landed slices stay, F is set, and ERT.SRC goes to the trap actor of the cluster that started the
fetch, which its task still holds, or has in its saved context. A CXL source fails on poison; an NVMe source may fail at any read. -/
def execFetchFail (key : Lane) (s : State) : Host.Outcome State Fault Refusal :=
  match fetchOf s key.toNat, s.ert key.toNat with
  | some f, some e =>
    if f.allocated && (e.sk || sourceBad s e) then
      let s3 := failFetch s key.toNat e
      let src := BitVec.ofNat 32 (Config.packageNumber * 8388608 + 0xF0 * 128)
      match f.task with
      | none => .next s3
      | some t =>
        if (s3.cluster f.cl).owner = some t then .next (takeRecord s3 f.cl src Cause.ertSrc 0#64 (key.setWidth 64))
        else .next (takeRecordAway s3 t f.cl src Cause.ertSrc 0#64 (key.setWidth 64))
    else .next s
  | _, _ => .next s

/-- USE_REPORT: a die's uses reach the hub, which keeps the latest (R289). -/
def execUseReport (die : Nat) (s : State) : Host.Outcome State Fault Refusal :=
  .next (((s.die die).uses.foldl (fun s u => s.modErt u.1 (fun e => { e with last := Nat.max e.last u.2 })) s).modDie die
    (fun d => { d with uses := [] }))

/-! ## Where an expert tensor's elements lie (R290) -/

/-- The slice that holds coordinates, and the place of the element within the slice's bytes. -/
def expertSlice (t : Tensor) (xs : List Nat) : Nat × Nat :=
  let l := t.layout
  let ts := xs.zipWith (· / ·) l.te
  let others := (ts.take 1 ++ ts.drop 2)
  let grid := (l.grid.take 1 ++ l.grid.drop 2)
  (ts.getD 1 0, 524288 * mixed others grid + l.bitOff xs)

/-- The PA and bit of an element of an expert tensor, once its slice is resident. -/
def expertPlace (s : State) (t : Tensor) (xs : List Nat) : Option (Nat × Nat) :=
  let (j, b) := expertSlice t xs
  match s.ert t.key with
  | some e => if j < e.pre then some (e.pool * 65536 + j * e.sliceBytes + b / 8, b % 8) else none
  | none => none

/-! ## Instructions (R298, R299) -/

/-- A fault of class 7: ADDR and AUX hold the key. -/
def ertFault {α : Type} (c : Cause) (key : Word) : Res α := .trap { cause := c, addr := key, aux := key, level := 0 }

/-- The key in rd(a), whose high half is zero. -/
def ertKeyOf (cl ctx : Nat) (a : Reg) (s : State) : Res Word :=
  (rd cl ctx a s).bind (fun k s => (illegalIf (decide (4294967296 ≤ k.toNat)) s).bind (fun _ s => .ok k s))

/-- The entry a key names; ERT.KEY without one. -/
def ertEntry (cl ctx : Nat) (a : Reg) (s : State) : Res (Word × Ert) :=
  (ertKeyOf cl ctx a s).bind (fun k s => match s.ert k.toNat with
    | some e => .ok (k, e) s
    | none => ertFault Cause.ertKey k)

/-- `ert.q`. -/
def execErtQ (d a : Reg) (s : State) : Host.Outcome State Fault Refusal :=
  instr 4 (fun cl ctx s0 => (ertKeyOf cl ctx a s0).bind (fun k s =>
    let v := match s.ert k.toNat with
      | some e => ertWord k.toNat e
      | none => 0#64
    (wr cl ctx d v (s.askHub cl false)).bind (fun _ s => .ok .seq (s0.keepBack cl ctx [d, a] s)))) s

/-- `ert.pin`. -/
def execErtPin (a : Reg) (s : State) : Host.Outcome State Fault Refusal :=
  instr 4 (fun cl ctx s => (ertEntry cl ctx a s).bind (fun (k, e) s =>
    if e.pin = 65535 then ertFault Cause.ertPin k
    else .ok .seq ((s.modErt k.toNat (fun e => { e with pin := e.pin + 1 })).askHub cl false))) s

/-- `ert.unpin`. -/
def execErtUnpin (a : Reg) (s : State) : Host.Outcome State Fault Refusal :=
  instr 4 (fun cl ctx s => (ertEntry cl ctx a s).bind (fun (k, e) s =>
    if e.pin = 0 then ertFault Cause.ertPin k
    else .ok .seq ((s.modErt k.toNat (fun e => { e with pin := e.pin - 1 })).askHub cl true))) s

/-- `ert.fetch`: clears F; a target above PRE starts or joins a fetch. -/
def execErtFetch (a b : Reg) (s : State) : Host.Outcome State Fault Refusal :=
  instr 4 (fun cl ctx s => (ertEntry cl ctx a s).bind (fun (k, e) s => (rd cl ctx b s).bind (fun n s =>
    let target := if n = 0#64 then e.nsl else Nat.min n.toNat e.nsl
    let s1 := s.modErt k.toNat (fun e => { e with failed := false })
    .ok .seq ((if e.pre < target then askFetch s1 cl k.toNat target else s1).askHub cl true)))) s

/-- `ert.evict`: ERT.PIN at issue alone; then it waits until the expert may be evicted. -/
def execErtEvict (a : Reg) (s : State) : Host.Outcome State Fault Refusal :=
  instr 4 (fun cl ctx s => (ertEntry cl ctx a s).bind (fun (k, e) s1 =>
    match s1.firing cl ctx with
    | none => .stall
    | some f =>
      if !f.evicting && decide (0 < e.pin) then ertFault Cause.ertPin k
      else if e.state = 0 ∨ evictable s1 k.toNat e then
        .ok .seq ((evict (s1.setFiring cl ctx { f with evicting := false }) k.toNat).askHub cl false)
      else .stallIn (match s.firing cl ctx with
        | some g => s.setFiring cl ctx { g with evicting := true }
        | none => s))) s

end Sys2Proof.Machine
end

