-- ==== Sys2Proof/Machine/AddrGen.lean ====
section
/-! DEFINITION. Address generators at work (R163 to R168, R185 to R191, R305): AG_PHASE_START, AG_BEAT and BANK_GRANT. -/

namespace Sys2Proof.Machine

/-! ## The command behind a phase (R184, R185) -/

/-- G, OVT, OVB and REP of a port stream. -/
def Cmd.gen (x : Cmd) : Nat := bitsAt x.cs 8 3
def Cmd.ovt (x : Cmd) : Bool := bitAt x.cs 7
def Cmd.ovb (x : Cmd) : Bool := bitAt x.cs 6
def Cmd.rep (x : Cmd) : Nat := if x.sub = 11 then bitsAt x.cs 0 6 + 1 else 1
/-- A port stream of Table 10.4. -/
def Cmd.isPort (x : Cmd) : Bool := x.cls == 0 && ([1, 2, 3, 4, 6, 7, 8, 9, 11].contains x.sub)
/-- Subops whose c holds trips, and those that move compressed records. -/
def Cmd.hasTrips (x : Cmd) : Bool := [1, 2, 3, 4, 11].contains x.sub
def Cmd.isRecords (x : Cmd) : Bool := x.sub == 6 || x.sub == 7
def Cmd.isList (x : Cmd) : Bool := x.sub == 8 || x.sub == 9
/-- The DIR and SPACE the table gives a subop; `str.rec` takes either SPACE. -/
def Cmd.dirOk (x : Cmd) (dir space : Bool) : Bool :=
  match x.sub with
  | 1 => !dir && !space
  | 2 => !dir && space
  | 3 => dir && space
  | 4 => dir && !space
  | 6 => !dir && !space
  | 7 => dir && !space
  | 8 => !dir && space
  | 9 => dir && space
  | 11 => !dir
  | _ => false

/-- The k-th signed 16-bit offset of b. -/
def offsetOf (b : Word) (k : Nat) : Int := asSigned (bitsAt b.toNat (16 * k) 16) 16

/-- Mask bytes of a record of n elements (R187). -/
def maskBytes (n : Nat) : Nat := 8 * ceilDiv n 64

/-- Limits of a record stream (R187). -/
def recordsOk (o : Order) (a slot : Nat) : Bool :=
  let n := o.e * o.t
  (tyBits o.ty == 8 || tyBits o.ty == 16 || tyBits o.ty == 32) && decide (n ≤ 65535) && !o.rag && a % 8 == 0 && slot % 8 == 0
    && decide (8 + maskBytes n ≤ slot)

/-- The channel end is joined (R184). -/
def agJoined (s : State) (cl g : Nat) : Bool :=
  if emits s cl g then !(s.outsOf cl (agPort g)).isEmpty else ((s.cluster cl).chan (agPort g)).isSome

/-- What a phase on the generator's configuration breaks: STR.ARG (R184, R185, R249, R290, R305). -/
def genFault (s : State) (cl g : Nat) : Bool :=
  let c := s.cluster cl
  !c.agEn g || !agJoined s cl g ||
  (c.agSpace g && (match s.taskOf cl with
    | some t =>
      let ten := t.tensor (c.agTensor g)
      !ten.valid || (c.agDir g && (ten.expert || t.readOnly.contains (c.agTensor g)))
        || (ten.diff && SMap.get c.agMode 0 g != c.dmode)
    | none => true))

/-- What a command breaks beyond that. -/
def cmdFault (s : State) (cl : Nat) (x : Cmd) : Bool :=
  let c := s.cluster cl
  let g := x.gen
  genFault s cl g || !x.dirOk (c.agDir g) (c.agSpace g) ||
  (x.hasTrips && x.ovb && !c.agSpace g && (x.b.toNat % 128 != 0 || decide (Config.spadBytes ≤ x.b.toNat))) ||
  (x.isRecords && !recordsOk (c.agOrder g) x.a.toNat x.c.toNat) ||
  (x.isList && (x.a.toNat % 4 != 0 || bitsAt x.c.toNat 0 32 == 0 || decide (16777216 < bitsAt x.c.toNat 0 32) || (c.agOuter g).isNone))

/-! ## The start of a phase (R167) -/

/-- The phase of a generator, under a command or under its configuration alone. A ragged length above the declared maximum ends it with
ORD.STREAM, whatever arrives (R185). -/
def newPhase (s : State) (cl g : Nat) (x : Option Cmd) (id : Nat) : Phase :=
  let c := s.cluster cl
  let o := portOrder s cl g
  let ovb := x.any (fun x => (x.hasTrips || x.isList) && x.ovb)
  let ovt := x.any (fun x => x.hasTrips && x.ovt)
  let long := o.rag && x.any (fun x => decide (o.nmax < bitsAt x.c.toNat 48 16))
  { cmd := x.map (·.id), sub := (x.map (·.sub)).getD (if c.agDir g then 3 else 2),
    base := if ovb && !c.agSpace g then (((x.map (·.b)).getD 0#64).toNat : Int) else (c.agBase g : Nat),
    offs := (List.range 4).map (fun k => if ovb && c.agSpace g then offsetOf ((x.map (·.b)).getD 0#64) k else 0),
    trips := (List.range 4).map (fun n => if ovt ∧ n < 3 then bitsAt ((x.map (·.c)).getD 0#64).toNat (16 * n) 16 + 1 else c.agTrip g n),
    ragged := if o.rag then x.map (fun x => bitsAt x.c.toNat 48 16) else none,
    tc := [0, 0, 0, 0], t := 0, opened := false, buf := [], passes := (x.map Cmd.rep).getD 1, entry := 0, val := none, stop := false,
    full := emits s cl g && long, ended := false, bytes := 0, status := if long then Cause.ordStream else 0#16, id := id, limit := 0,
    discard := !emits s cl g && long, part := 0, held := false }

/-- The tile of a windowed tensor that the generator accesses next (R251). -/
def tailOf (s : State) (cl g : Nat) (p : Phase) : Option (Nat × Nat) :=
  let c := s.cluster cl
  let ten := genTensor s cl g
  if c.agSpace g && ten.windowed then
    ((p.elems c g (portOrder s cl g) ten).find? (fun e => e.2.2.isSome)).bind (fun e => e.2.2.map (fun xs => (c.agTensor g, ten.layout.tileOf xs)))
  else none

/-- A phase that asks for no further grant: its last pass has moved its last beat (R191), or a status has ended it. -/
def Phase.over (p : Phase) : Bool := p.discard || p.full || (p.ended && decide (p.passes ≤ 1))

/-- A generator goes on with a phase. A beat that lies wholly outside the extents leaves the published tail where it is (R251). After the
last grant of the phase its banks are released (R165). -/
def setPhase (s : State) (cl g : Nat) (p : Phase) : State :=
  let old := ((s.cluster cl).ag g).tail
  let tail := if p.ended then old else (tailOf s cl g p).or old
  let granting := match ((s.cluster cl).ag g).phase with | some q => !q.over | none => true
  s.modCluster cl (fun c =>
    let c1 := c.setAg g { c.ag g with phase := some p, tail := tail }
    if p.over && granting then releaseAll s.now c1 g else c1)

/-- The running command that waits for its generator's phase to begin. -/
def waitingRun (c : Cluster) (g : Nat) : Option Run :=
  c.running.find? (fun r => r.cmd.isPort && r.unit == g && !r.done && r.aux == 0)

/-! ## The end of a phase -/

/-- What the completion counts: list entries, the one in use among them (R190), or bytes. -/
def Phase.total (p : Phase) : Nat :=
  if p.listed then p.entry + (if p.val.isSome && (decide (0 < p.t) || p.tc.any (fun n => n != 0)) then 1 else 0) else p.bytes

/-- A phase ends with a status: its banks are released, unless they have been after its last grant; DONE goes out, and a command has done
its work. -/
def finishPhase (s : State) (cl g : Nat) (p : Phase) (status : Cause) : State :=
  let s1 := s.modCluster cl (fun c =>
    let c1 := c.setAg g { c.ag g with phase := none, req := none, tail := none, last := status }
    loopEnd s.now (if p.over then c1 else releaseAll s.now c1 g) (agEl g))
  match p.cmd with
  | some id => endRun s1 cl id status p.total
  | none => s1

/-! ## Its start, by AUTO, by a START or under a command -/

/-- A phase of a bare generator begins. One that its configuration forbids ends with an abort token of STR.ARG before it reads or writes
anything (R249): a reading generator sends that token; at a writing one it takes the place of the phase that the channel holds or has yet to
bring. DEDUCED (log entry 19). -/
def barePhase (s : State) (cl g : Nat) (p : Phase) : State :=
  if !genFault s cl g then setPhase s cl g p
  else if emits s cl g then setPhase s cl g { p with full := true, status := Cause.strArg }
  else match (s.cluster cl).chan (agPort g) with
    | none => finishPhase s cl g p Cause.strArg
    | some _ => setPhase ((discardPhase s cl (agPort g)).modChan cl (agPort g) (Chan.cutWith Cause.strArg)) cl g
        { p with discard := true, status := Cause.strArg }

/-- AG_PHASE_START: the one phase AUTO asks for, before any command; under a started command; with SW, by consuming a START.
DEDUCED (log entry 19). -/
def execAgPhaseStart (cl g : Nat) (s : State) : Host.Outcome State Fault Refusal :=
  let c := s.cluster cl
  let sw := c.swTile (agEl g) && !(c.ag g).auto
  if (c.ag g).phase.isSome || !c.agEn g || c.owner.isNone || c.stopping || (s.settling cl (agEl g) && !(c.ag g).auto) || decide (8 ≤ g) then .next s
  else if sw && !c.starts.contains (agEl g) then .next s
  else
    let fresh := { c.ag g with released := [], curBank := none, req := none, auto := false }
    let used := if sw then c.starts.filter (fun a => a != agEl g) else c.starts
    match (if !sw && (c.ag g).auto then none else waitingRun c g) with
    | some r =>
      let s1 := s.modCluster cl (fun c => { c.setAg g { fresh with auto := (c.ag g).auto } with starts := used })
      .next ((setPhase s1 cl g (newPhase s1 cl g (some r.cmd) r.cmd.id)).modRun cl r.cmd.id (fun r => { r with aux := 1 }))
    | none =>
      if sw || (c.ag g).auto then
        let (id, s0) := s.fresh
        let s1 := s0.modCluster cl (fun c => { c.setAg g fresh with starts := used })
        .next (barePhase s1 cl g (newPhase s1 cl g none id))
      else .next s

/-- A status that stays once it is not OK; a run that overflowed a record may still fail. -/
def worse (old new : Cause) : Cause := if old = 0#16 ∨ old = Cause.strOverrun then new else old

/-- The phase goes to its next beat. -/
def stepBeat (s : State) (cl g : Nat) (p : Phase) (limit entries : Nat) : State :=
  let p1 := { p with t := p.t + 1, part := 0 }
  setPhase s cl g (if limit ≤ p1.t then p1.next (s.cluster cl) g entries else p1)

/-! ## Elements in memory -/

/-- Reads w bits at a bit of a byte. -/
def readBits (cl pa bit w : Nat) (ms : Bool) (s : State) : Res Nat :=
  let n := (bit + w + 7) / 8
  (Res.each (pieces pa n) [] s (fun acc p s => (lineRead cl p.1 p.2 ms s).bind (fun bs s => .ok (acc ++ bs) s))).bind
    (fun bs s => .ok (bitsAt (natOfBytes bs) bit w) s)

/-- One element of a port's tensor; a tile or slice that is not there yet is waited for (R252, R291). A tile fetch pins the line it
brings in for its command (R176). -/
def readElem (cl port : Nat) (pin : Option Nat) (t : Task) (id : Nat) (ten : Tensor) (xs : List Nat) (s : State) : Res Nat :=
  let keep := fun (pa : Nat) (s : State) => match pin with
    | some cmd => l2Pin s pa cmd
    | none => s
  if ten.expert then
    match expertPlace s ten xs with
    | some (pa, bit) => (readBits cl pa bit (tyBits ten.ty) ten.ms s).bind (fun v s => .ok v (keep pa s))
    | none => .stallIn (needSlice s cl ten.key (expertSlice ten xs).1)
  else match elementPlace s ((s.cluster cl).owner.getD 0) t id false ten.layout xs with
    | some p => (readBits cl p.pa p.bit (tyBits ten.ty) ten.ms (touchTile s cl port (tileKey id false p.tile))).bind (fun v s => .ok v (keep p.pa s))
    | none => .stall

/-- The beat of a reading port: elements outside the tensor are zero (R168). -/
def gather (cl g : Nat) (p : Phase) (s : State) : Res Beat :=
  match s.taskOf cl with
  | none => .stall
  | some t =>
    let c := s.cluster cl
    let ten := genTensor s cl g
    let o := portOrder s cl g
    (Res.each (p.elems c g o ten) [] s (fun acc e s => match e.2.2 with
      | none => .ok acc s
      | some xs => (readElem cl g none t (c.agTensor g) ten xs s).bind (fun v s => .ok ((e.1, e.2.1, v) :: acc) s))).bind
      (fun es s => .ok (beatOf o.ty es) (if ten.expert && !es.isEmpty then noteUse s (dieOf cl) ten.key else s))

/-- Bytes of the elements inside the tensor. -/
def liveBytes (s : State) (cl g : Nat) (p : Phase) : Nat :=
  let w := if inReverse s cl g then 32 else tyBits (genTensor s cl g).ty
  (w * ((p.elems (s.cluster cl) g (portOrder s cl g) (genTensor s cl g)).filter (fun e => e.2.2.isSome)).length + 7) / 8

/-- Posted writes of a command that meet a byte take effect. -/
def drainCmd (s : State) (cl id pa : Nat) : State :=
  (perform s (fun m => match m with
    | .write r => r.cl == cl && r.cmd == some id && meets r.pa r.bytes.length pa 1
    | .near _ => false)).getD s

/-- Bits gathered by byte address: which bits are written, and their values. -/
def byteBits (w : Nat) (es : List (Nat × Nat × Nat)) : SMap (Nat × Nat) :=
  es.foldl (fun m e => (List.range w).foldl (fun m k =>
    let b := e.2.1 + k
    let a := e.1 + b / 8
    let (mask, v) := SMap.get m (0, 0) a
    SMap.set m a (mask ||| 2 ^ (b % 8), if bitAt e.2.2 k then v ||| 2 ^ (b % 8) else v - (v &&& 2 ^ (b % 8)))) m) []

/-- Contiguous bytes of one line each. -/
def byteRuns : List (Nat × Byte) → List (Nat × List Byte)
  | [] => []
  | (a, b) :: r => match byteRuns r with
    | (a1, bs) :: rs => if a1 = a + 1 ∧ a / 128 = a1 / 128 then (a, b :: bs) :: rs else (a, [b]) :: (a1, bs) :: rs
    | [] => [(a, [b])]

/-- Posts elements at their places: a byte that is written in part keeps its other bits. -/
def postElems (cl id w : Nat) (ms : Bool) (es : List (Nat × Nat × Nat)) (s : State) : State :=
  let m := byteBits w es
  let (s1, bytes) := m.foldl (fun (acc : State × List (Nat × Byte)) x =>
    if x.2.1 = 255 then (acc.1, acc.2 ++ [(x.1, BitVec.ofNat 8 x.2.2)])
    else
      let s := drainCmd acc.1 cl id x.1
      (s, acc.2 ++ [(x.1, BitVec.ofNat 8 (((s.mem.readByte x.1).toNat &&& (255 - x.2.1)) ||| x.2.2))])) (s, [])
  (byteRuns bytes).foldl (fun s r => postWrite cl 1 (some id) none r.1 ms r.2 s) s1

/-- Writes the padding that an element at a place has behind it as zeros (R24, R247). -/
def postPad (cl id : Nat) (ms : Bool) (p : Place2) (r : Nat × Nat) (s : State) : State :=
  let base := p.pa - p.off
  let lo := ceilDiv r.1 8
  let s1 := if r.1 % 8 = 0 then s else postElems cl id 4 ms [(base + r.1 / 8, r.1 % 8, 0)] s
  (pieces (base + lo) (r.2 / 8 - lo)).foldl (fun s x => postWrite cl 1 (some id) none x.1 ms (List.replicate x.2 0#8) s) s1

/-- The paddings behind a beat's elements. -/
def postPads (s : State) (cl g : Nat) (p : Phase) (ps : List (Place2 × Nat)) : State :=
  let ten := genTensor s cl g
  let xs := (p.elems (s.cluster cl) g (portOrder s cl g) ten).filterMap (fun e => e.2.2)
  (xs.zip ps).foldl (fun s x => match ten.layout.padding ten.ty x.1 with
    | some r => postPad cl p.id ten.ms x.2.1 r s
    | none => s) s

/-- The tiles that a beat's elements lie in are in the port's tile-entry cache. -/
def touchPlaces (s : State) (cl g : Nat) (ps : List (Place2 × Nat)) : State :=
  ps.foldl (fun s q => touchTile s cl g (tileKey ((s.cluster cl).agTensor g) false q.1.tile)) s

/-- The places of a beat's elements inside the tensor, each with its value. -/
def placed (s : State) (cl g : Nat) (t : Task) (p : Phase) (b : Beat) : Option (List (Place2 × Nat)) :=
  let c := s.cluster cl
  let ten := genTensor s cl g
  let o := portOrder s cl g
  (p.elems c g o ten).foldl (fun acc e => match acc, e.2.2 with
    | some l, some xs =>
      (elementPlace s ((s.cluster cl).owner.getD 0) t (c.agTensor g) false ten.layout xs).map (fun q => l ++ [(q, beatElem b o.ty e.1 e.2.1)])
    | some l, none => some l
    | none, _ => none) (some [])

/-- The primal memory beats that a channel beat's elements lie in: beat of the storage, in ascending order. -/
def memBeats (ps : List (Place2 × Nat)) : List Nat :=
  (ps.foldl (fun (m : SMap Unit) x => SMap.set m (x.1.tile * 512 + x.1.off / 128) ()) []).map (·.1)

/-! ## The tape behind a port (R303, R305) -/

/-- TAPE.FULL or TAPE.EMPTY of a stream: one record with R = 0, once; the stream holds (R303). -/
def tapeHold (s : State) (cl g : Nat) (p : Phase) (c : Cause) : State :=
  if p.held then s
  else takeRecord (setPhase s cl g { p with held := true }) cl (sourceNumber cl 0x20 0) c 0#64
    (BitVec.ofNat 64 (s.cluster cl).tapeptr)

/-- One record of a channel beat that a taped port writes: the elements of one memory beat. -/
def tapePart (cl g : Nat) (t : Task) (p : Phase) (b : Beat) (s : State) : State :=
  match placed s cl g t p b with
  | none => s
  | some ps =>
    let c := s.cluster cl
    let ten := genTensor s cl g
    match (memBeats ps)[p.part]? with
    | none => s
    | some off =>
      if c.tapebase.isNone then setPhase s cl g { p with discard := true, status := worse p.status Cause.strArg }
      else if c.lim ≤ c.tapeptr then tapeHold s cl g p Cause.tapeFull
      else
        let mine := ps.filter (fun x => x.1.tile * 512 + x.1.off / 128 == off)
        let w := tyBits ten.ty / 8
        let cells := mine.flatMap (fun x => (List.range w).zipWith (fun k v => (x.1.pa % 128 + k, v)) (bytesOfNat w x.2))
        let mask := mine.foldl (fun m x => m ||| laneMask (x.1.pa % 128) w) 0
        let beatPa := ((mine.map (fun x => x.1.pa)).headD 0) / 128 * 128
        workRes s cl (reserveRecord cl s) (fun r s =>
          setPhase (postTaped cl (some p.id) none (c.agTensor g) off beatPa cells mask r s) cl g { p with part := p.part + 1, held := false })
          (fun f => setPhase s cl g { p with discard := true, status := worse p.status f })

/-- Pops one record for a beat that a reverse port emits, and restores its lanes. -/
def popPart (cl g : Nat) (t : Task) (p : Phase) (s : State) : State :=
  let c := s.cluster cl
  let abort := fun (f : Cause) => setPhase s cl g { p with full := true, status := f }
  if c.tapeptr = 0 then tapeHold s cl g p Cause.tapeEmpty
  else workRes s cl (readRecord cl 4 (c.tapeptr - 1) 0 s) (fun (h, pay) s1 =>
    if headerKind h ≠ 0 ∨ headerTens h ≠ c.agTensor g then setPhase s1 cl g { p with full := true, status := Cause.tapeOrder }
    else match tileFrame s1 (c.owner.getD 0) t (c.agTensor g) false (headerOff h / 512) with
      | none => s
      | some f =>
        let s2 := s1.modCluster cl (fun c => { c with tapeptr := c.tapeptr - 1 })
        setPhase (postNm cl (some p.id) none (f + headerOff h % 512 * 128) (.restore (headerMask h) (BitVec.ofNat 1024 pay)) s2) cl g
          { p with part := p.part + 1, held := false }) abort

/-- The adjoint beat of a reverse port: every cell read and cleared. -/
def clearBeat (cl g : Nat) (t : Task) (p : Phase) (s : State) : Res Beat :=
  let c := s.cluster cl
  let ten := genTensor s cl g
  (Res.each (p.elems c g (portOrder s cl g) ten) [] s (fun acc e s => match e.2.2 with
    | none => .ok acc s
    | some xs =>
      match elementPlace s (c.owner.getD 0) t (c.agTensor g) true ten.adjLayout xs with
      | none => .stall
      | some q =>
        (readAndClear cl 4 { id := c.agTensor g, ten := ten, cell := some q.pa, inside := true, off := 0, beatPa := 0 } s).bind
          (fun v s => .ok ((e.1, e.2.1, v.toNat) :: acc) s))).bind (fun es s => .ok (beatOf 0 es) s)

/-- Posts the accumulates of one FP32 beat of a reverse reading port. -/
def accumulateBeat (cl g : Nat) (t : Task) (p : Phase) (b : Beat) (s : State) : Option State :=
  let c := s.cluster cl
  let ten := genTensor s cl g
  (p.elems c g (portOrder s cl g) ten).foldl (fun acc e => match acc, e.2.2 with
    | some s, some xs =>
      (elementPlace s (c.owner.getD 0) t (c.agTensor g) true ten.adjLayout xs).map (fun q =>
        postAccumulate cl (sourceNumber cl (agEl g) 0).toNat (some p.id) none q.pa (b.lane e.1) s)
    | some s, none => some s
    | none, _ => none) (some s)

/-! ## Compressed records (R187 to R189) -/

/-- A value that counts as zero (R128): +0 and −0 of the floating types, 0 of the others. -/
def isZeroElem (ty v : Nat) : Bool :=
  v == 0 || (decide (ty ≤ 5) && v == 2 ^ (tyBits ty - 1))

/-- The slot of the record in progress. -/
def slotAddr (x : Cmd) (p : Phase) : Nat := (x.a.toNat + p.entry * x.c.toNat) % 18446744073709551616

/-- The record of one period: its bytes, VB, and whether it overflowed. Elements of DROP beats count as zero. -/
def recordOf (o : Order) (slot : Nat) (beats : List (Bool × Beat)) : List Byte × Nat × Bool :=
  let n := o.e * o.t
  let w := tyBits o.ty / 8
  let mb := maskBytes n
  let cap := slot - 8 - mb
  let es := beats.flatMap (fun b => o.cells.map (fun x => if b.1 then 0 else beatElem b.2 o.ty x.1 x.2))
  let mask := ((List.range n).zipWith (fun k v => if isZeroElem o.ty v then 0 else 2 ^ k) es).foldl (· + ·) 0
  let vals := es.filter (fun v => !isZeroElem o.ty v)
  let full := 8 * ceilDiv (w * vals.length) 8
  let ovf := decide (cap < full)
  let vb := if ovf then cap else full
  let stored := if ovf then vals.take (cap / w) else vals
  let body := stored.flatMap (fun v => bytesOfNat w v)
  (bytesOfNat 8 (n + 65536 * (vals.length % 65536) + 4294967296 * (vb % 65536) + (if ovf then 281474976710656 else 0))
    ++ bytesOfNat mb mask ++ body ++ List.replicate (vb - body.length) 0#8, vb, ovf)

/-- The dense beats of a record, VB and OVF; none when it is inconsistent (R189). -/
def recordBeats (o : Order) (slot : Nat) (head mask : Nat) (vals : List Byte) : Option (List Beat × Nat × Bool) :=
  let n := o.e * o.t
  let w := tyBits o.ty / 8
  let nz := bitsAt head 16 16
  let vb := bitsAt head 32 16
  let ovf := bitAt head 48
  let cap := slot - 8 - maskBytes n
  let ones := ((List.range (8 * maskBytes n)).filter (fun k => bitAt mask k)).length
  if bitsAt head 0 16 ≠ n ∨ nz ≠ ones ∨ bitsAt head 49 15 ≠ 0 ∨
      !((vb == 8 * ceilDiv (w * nz) 8 && !ovf) || (vb == cap && ovf)) then none
  else
    let stored := Nat.min nz (vb / w)
    let (_, es) := (List.range n).foldl (fun (acc : Nat × List (Nat × Nat × Nat × Nat)) e =>
      if bitAt mask e then
        let v := if acc.1 < stored then natOfBytes ((vals.drop (acc.1 * w)).take w) else 0
        (acc.1 + 1, (e / o.e, e % o.e / o.s, e % o.s, v) :: acc.2)
      else acc) (0, [])
    some ((List.range o.t).map (fun t => beatOf o.ty ((es.filter (fun x => x.1 == t)).map (fun x => x.2))), vb, ovf)

/-- Reads the record in progress and keeps its beats. -/
def loadRecord (cl g : Nat) (x : Cmd) (p : Phase) (s : State) : State :=
  let o := portOrder s cl g
  let slot := x.c.toNat
  let a := slotAddr x p
  let mb := maskBytes (o.e * o.t)
  let abort := fun (f : Cause) => setPhase s cl g { p with full := true, status := f }
  workRes s cl ((engRead cl a (8 + mb) s).bind (fun hm s =>
      let head := natOfBytes (hm.take 8)
      let vb := bitsAt head 32 16
      if (recordBeats o slot head (natOfBytes (hm.drop 8)) []).isNone then .ok (head, natOfBytes (hm.drop 8), []) s
      else (engRead cl (a + 8 + mb) vb s).bind (fun vs s => .ok (head, natOfBytes (hm.drop 8), vs) s)))
    (fun (head, mask, vals) s1 => match recordBeats o slot head mask vals with
      | some (bs, vb, ovf) =>
        setPhase s1 cl g { p with buf := bs, bytes := p.bytes + vb, status := if ovf then worse p.status Cause.strOverrun else p.status }
      | none => setPhase s1 cl g { p with full := true, status := Cause.strFormat }) abort

/-! ## One beat, towards the channel -/

/-- The next beat row of a scratchpad generator lies beyond the scratchpad (R168, R96). -/
def spadBeyond (c : Cluster) (g : Nat) (p : Phase) : Bool :=
  decide (p.ea c g < 0) || decide ((c.spbase : Int) < p.ea c g + 128)

/-- The next access of a scratchpad generator: its bank and address, or the status that ends the phase (R165, R168, R96). -/
def spadAccess (c : Cluster) (g : Nat) (p : Phase) : Except Cause (Nat × Nat) :=
  let a := (p.ea c g).toNat
  if spadBeyond c g p then .error Cause.strSpad
  else if c.agRel g && c.agGate g && (c.ag g).released.contains (bankOf a) then .error Cause.strBank else .ok (bankOf a, a)

/-- The list entry a phase needs (R190). -/
def listEntry (cl g : Nat) (x : Cmd) (p : Phase) (s : State) (fail : Cause → State) : State :=
  workRes s cl (engRead cl ((x.a.toNat + 4 * p.entry) % 18446744073709551616) 4 s)
    (fun bs s => setPhase s cl g { p with val := some (natOfBytes bs) }) fail

/-- The entries of a list stream. -/
def entriesOf (x : Option Cmd) : Nat := (x.map (fun x => bitsAt x.c.toNat 0 32)).getD 0

/-- Makes the next beat of a reading generator ready. -/
def produce (s : State) (cl g : Nat) (p : Phase) (x : Option Cmd) : State :=
  let c := s.cluster cl
  let abort := fun (f : Cause) => setPhase s cl g { p with full := true, status := f }
  match s.taskOf cl with
  | none => s
  | some t =>
    if inReverse s cl g then
      match placed s cl g t p 0#1024 with
      | none => s
      | some ps =>
        if p.part < (memBeats ps).length then popPart cl g t p s
        else workRes s cl (clearBeat cl g t p s) (fun b s =>
          setPhase s cl g { p with buf := [b], bytes := p.bytes + liveBytes s cl g p }) abort
    else if c.agSpace g then
      workRes s cl (gather cl g p s) (fun b s => setPhase s cl g { p with buf := [b], bytes := p.bytes + liveBytes s cl g p }) abort
    else match x with
      | some x => if x.isRecords then loadRecord cl g x p s else
        match spadAccess c g p with
        | .error f => abort f
        | .ok (bank, a) => s.modCluster cl (fun c => c.setAg g { c.ag g with req := some { bank := bank, addr := a, data := none, made := s.nextId } })
      | none =>
        match spadAccess c g p with
        | .error f => abort f
        | .ok (bank, a) => s.modCluster cl (fun c => c.setAg g { c.ag g with req := some { bank := bank, addr := a, data := none, made := s.nextId } })

/-- The phase starts another pass (R191). -/
def Phase.again (p : Phase) : Phase :=
  { p with passes := p.passes - 1, tc := [0, 0, 0, 0], t := 0, opened := false, entry := 0, val := none, ended := false }

/-- One beat or token of a generator that sends into its channel. -/
def agEmit (s : State) (cl g : Nat) (p : Phase) (x : Option Cmd) : State :=
  let o := portOrder s cl g
  let send := fun (s : State) it => sendItem s cl (agPort g) it
  if !s.hasFree cl (agPort g) 1 then s
  else match p.buf with
  | b :: rest =>
    let limit := if p.records && !rest.isEmpty then p.t + 2 else p.beats o
    send (stepBeat s cl g { p with buf := rest } limit (entriesOf x)) (.data b)
  | [] =>
    if p.full then finishPhase (send s (.abort p.status)) cl g p p.status
    else if p.ended || (p.stop && p.t == 0 && !p.opened) then
      if 1 < p.passes && !p.stop then send (setPhase s cl g p.again) .eor else finishPhase (send s .eos) cl g p p.status
    else if o.rag && p.ragged.isSome && p.t == 0 && !p.opened then
      let n := p.ragged.getD 0
      if n = 0 then send (setPhase s cl g (p.next (s.cluster cl) g (entriesOf x))) (.bound 0)
      else send (setPhase s cl g { p with opened := true }) (.bound n)
    else match x with
      | some y => if p.listed && p.val.isNone then listEntry cl g y p s (fun f => setPhase s cl g { p with full := true, status := f })
        else produce s cl g p x
      | none => produce s cl g p x

/-! ## One beat, from the channel -/

/-- No port reaches an element that a beat is to write, or a cell that it adds to (R319). -/
def beatCutOff (s : State) (cl g : Nat) (t : Task) (p : Phase) : Bool :=
  let c := s.cluster cl
  let ten := genTensor s cl g
  let adj := inReverse s cl g
  (p.elems c g (portOrder s cl g) ten).any (fun e => match e.2.2 with
    | some xs => (elementPlace s (c.owner.getD 0) t (c.agTensor g) adj (if adj then ten.adjLayout else ten.layout) xs).any (fun q => s.cutOff q.pa)
    | none => false)

/-- Takes a data or DROP beat of a writing generator. -/
def consumeBeat (s : State) (cl g : Nat) (p : Phase) (x : Option Cmd) (dropped : Bool) (b : Beat) : State :=
  let c := s.cluster cl
  let o := portOrder s cl g
  let pop := fun (s : State) => takeItems s cl (agPort g) 1
  let entries := entriesOf x
  let limit := if p.limit ≠ 0 then p.limit else p.beats o
  let fail := fun (s : State) (f : Cause) => setPhase s cl g { p with discard := true, status := worse p.status f }
  let skip := fun (s : State) => stepBeat (pop s) cl g p limit entries
  -- a DROP beat takes its position and asks for no bank (R167)
  let write := if dropped then (if spadBeyond c g p then fail (pop s) Cause.strSpad else skip s) else match spadAccess c g p with
    | .error f => fail (pop s) f
    | .ok (bank, a) => (pop s).modCluster cl (fun c => c.setAg g { c.ag g with req := some { bank := bank, addr := a, data := some b, made := s.nextId } })
  match s.taskOf cl with
  | none => s
  | some t =>
    if (inReverse s cl g || c.agSpace g) && !dropped && beatCutOff s cl g t p then fail (pop s) Cause.linkDown
    else if inReverse s cl g then
      if dropped then skip s
      else match accumulateBeat cl g t p b s with
        | some s1 => stepBeat (pop s1) cl g { p with bytes := p.bytes + liveBytes s cl g p } limit entries
        | none => s
    else if c.agSpace g then
      if dropped then skip s
      else match placed s cl g t p b with
        | none => s
        | some ps =>
          if (genTensor s cl g).diff && decide (p.part < (memBeats ps).length) then tapePart cl g t p b s
          else
            let p1 := { p with bytes := p.bytes + liveBytes s cl g p }
            if (genTensor s cl g).diff then stepBeat (pop s) cl g p1 limit entries
            else stepBeat (pop (postPads (postElems cl p.id (tyBits (genTensor s cl g).ty) (genTensor s cl g).ms (ps.map (fun q => (q.1.pa, q.1.bit, q.2)))
              (touchPlaces s cl g ps)) cl g p ps)) cl g p1 limit entries
    else match x with
      | some y =>
        if y.isRecords then
          let buf := p.buf ++ [if dropped then 0#1024 else b]
          if buf.length < o.t then setPhase (pop s) cl g { p with buf := buf, t := p.t + 1 }
          else
            let (bytes, vb, ovf) := recordOf o y.c.toNat (buf.map (fun b => (false, b)))
            workRes s cl (engWrite cl 0 p.id (slotAddr y p) bytes s)
              (fun _ s1 => setPhase (pop s1) cl g
                ({ p with buf := [], bytes := p.bytes + vb, status := if ovf then worse p.status Cause.strOverrun else p.status }.next c g entries))
              (fun f => fail (pop s) f)
        else write
      | none => write

/-- A data or DROP beat at a writing generator: excess after the last tile is discarded (R167). -/
def agData (s : State) (cl g : Nat) (p : Phase) (x : Option Cmd) (dropped : Bool) (b : Beat) : State :=
  let o := portOrder s cl g
  let pop := fun (s : State) => takeItems s cl (agPort g) 1
  if p.discard then pop s
  else if p.ended && decide (1 < p.passes) then setPhase s cl g p.again
  else if p.ended then setPhase (pop s) cl g { p with discard := true, status := worse p.status Cause.strExcess }
  else if p.limit = 0 ∧ p.beats o = 0 then setPhase s cl g (p.next (s.cluster cl) g (entriesOf x))
  else match x with
    | some y => if p.listed && p.val.isNone then
        listEntry cl g y p s (fun f => setPhase s cl g { p with discard := true, status := worse p.status f })
      else consumeBeat s cl g p x dropped b
    | none => consumeBeat s cl g p x dropped b

/-- One item of a generator that takes from its channel. A DONE stops it at a period boundary, whatever its channel holds (R173). A reverse
reading port runs its passes back to back, and an EOR between two of them has no other effect (R191, R305). -/
def agTake (s : State) (cl g : Nat) (p : Phase) (x : Option Cmd) : State :=
  let o := portOrder s cl g
  if p.stop && p.t == 0 && p.limit == 0 && !p.discard then finishPhase s cl g p p.status
  else match ((s.cluster cl).chan (agPort g)).bind (fun ch => ch.seen.head?) with
  | none => s
  | some it =>
    let s1 := takeItems s cl (agPort g) 1
    match it with
    | .eos => finishPhase s1 cl g p p.status
    | .abort st => finishPhase s1 cl g p (worse p.status st)
    | .eok => s1
    | .eor =>
      if o.rag && p.t != 0 && !p.discard then setPhase s1 cl g (p.next (s.cluster cl) g (entriesOf x))
      else if decide (1 < p.passes) && !p.discard && (p.ended || p.t != 0 || p.entry != 0) then setPhase s1 cl g p.again
      else s1
    | .bound n =>
      if p.ended && decide (1 < p.passes) && !p.discard then setPhase s cl g p.again
      else if !o.rag || p.t != 0 || p.discard || p.ended then s1
      else if o.nmax < n then setPhase s1 cl g { p with discard := true, status := worse p.status Cause.ordStream }
      else if n = 0 then setPhase s1 cl g (p.next (s.cluster cl) g (entriesOf x))
      else setPhase s1 cl g { p with limit := n * o.block }
    | .data b => agData s cl g p x false b
    | .drop b => agData s cl g p x true b

/-- AG_BEAT: one beat or token of a generator's phase. While a bank access waits, nothing moves. DEDUCED (log entry 19). -/
def execAgBeat (cl g : Nat) (s : State) : Host.Outcome State Fault Refusal :=
  let c := s.cluster cl
  match (c.ag g).phase with
  | none => .next s
  | some p =>
    if (c.ag g).req.isSome then .next s
    else
      let x := (p.cmd.bind c.run).map (·.cmd)
      .next (if emits s cl g then agEmit s cl g p x else agTake s cl g p x)

/-! ## BANK_GRANT (R163, R165) -/

/-- A REL generator's first access to a higher bank releases the lower ones it owns. -/
def releaseBelow (now : Nat) (c : Cluster) (g bank : Nat) : Cluster :=
  if c.agRel g && c.agGate g && (match (c.ag g).curBank with | some b => decide (b < bank) | none => true) then
    (List.range bank).foldl (fun c b => releaseBank now c g b) c
  else c

/-- The elements of a beat, and zero in the lanes and subwords that carry none, as a generator delivers it (R46). -/
def keepElems (o : Order) (b : Beat) : Beat := beatOf o.ty (o.cells.map (fun x => (x.1, x.2, beatElem b o.ty x.1 x.2)))

/-- A generator's access is granted. -/
def grantAg (s : State) (cl g : Nat) (p : Phase) (r : BankReq) (x : Option Cmd) : State :=
  let s1 := (granted s cl g r.bank).modCluster cl (fun c =>
    let c1 := releaseBelow s.now c g r.bank
    c1.setAg g { c1.ag g with req := none, curBank := some (Nat.max ((c1.ag g).curBank.getD 0) r.bank) })
  match r.data with
  | none => setPhase s1 cl g { p with buf := [keepElems (portOrder s cl g) (Beat.ofBytes (spadRead s1 cl r.addr 128))], bytes := p.bytes + 128 }
  | some b =>
    let limit := if p.limit ≠ 0 then p.limit else p.beats (portOrder s cl g)
    stepBeat (spadWrite s1 cl r.addr b.toBytes) cl g { p with bytes := p.bytes + 128 } limit (entriesOf x)

/-- BANK_GRANT: the bank grants the next waiting unit, round-robin; a unit that is no generator takes its grant in a turn of its own. DEDUCED (log entry 19). -/
def execBankGrant (cl bank : Nat) (s : State) : Host.Outcome State Fault Refusal :=
  let c := s.cluster cl
  if s.claimed cl bank then .next s
  else match nextGrant (SMap.get c.lastGrant 11 bank) (c.asking bank) with
    | none => .next s
    | some g =>
      match (c.ag g).phase, (c.ag g).req with
      | some p, some r => .next (grantAg s cl g p r ((p.cmd.bind c.run).map (·.cmd)))
      | _, _ => .next s

end Sys2Proof.Machine
end

