-- ==== Sys2Proof/Machine/Alu.lean ====
section
/-! DEFINITION. Scalar arithmetic: the ALU instructions (R139), the immediate forms (R140) and the long immediates (R160). -/

namespace Sys2Proof.Machine

/-! ## The operations of R139 -/

/-- Bits [127:64] of the exact signed product. -/
def mulhOp (x y : Word) : Word := BitVec.ofInt 64 (x.toInt * y.toInt / 18446744073709551616)
/-- Bits [127:64] of the exact unsigned product. -/
def mulhuOp (x y : Word) : Word := BitVec.ofNat 64 (x.toNat * y.toNat / 18446744073709551616)
/-- Signed quotient truncated toward zero; all ones by 0. -/
def divOp (x y : Word) : Word := if y = 0#64 then 0xFFFFFFFFFFFFFFFF#64 else BitVec.ofInt 64 (x.toInt.tdiv y.toInt)
/-- Unsigned quotient; all ones by 0. -/
def divuOp (x y : Word) : Word := if y = 0#64 then 0xFFFFFFFFFFFFFFFF#64 else BitVec.ofNat 64 (x.toNat / y.toNat)
/-- Signed remainder, with the sign of x; x by 0. -/
def remOp (x y : Word) : Word := if y = 0#64 then x else BitVec.ofInt 64 (x.toInt.tmod y.toInt)
/-- Unsigned remainder; x by 0. -/
def remuOp (x y : Word) : Word := if y = 0#64 then x else BitVec.ofNat 64 (x.toNat % y.toNat)
/-- The shift amount y[5:0]. -/
def amount (y : Word) : Nat := y.toNat % 64
/-- 1 or 0. -/
def boolWord (c : Bool) : Word := if c then 1#64 else 0#64
def lessS (x y : Word) : Bool := decide (x.toInt < y.toInt)
def lessU (x y : Word) : Bool := decide (x.toNat < y.toNat)
/-- The number of leading zeros among the n low bits of v. -/
def leadingZeros : Nat → Nat → Nat
  | 0, _ => 0
  | n + 1, v => if bitAt v n then 0 else leadingZeros n v + 1
/-- The number of ones among the n low bits of v. -/
def onesCount : Nat → Nat → Nat
  | 0, _ => 0
  | n + 1, v => onesCount n v + (if bitAt v n then 1 else 0)
/-- The number of trailing zeros among n bits from bit k on. -/
def trailingZeros : Nat → Nat → Nat → Nat
  | 0, _, _ => 0
  | n + 1, k, v => if bitAt v k then 0 else trailingZeros n (k + 1) v + 1

def execAdd (d a b : Reg) (s : State) := alu3 1 (fun x y => x + y) d a b s
def execSub (d a b : Reg) (s : State) := alu3 1 (fun x y => x - y) d a b s
def execMul (d a b : Reg) (s : State) := alu3 4 (fun x y => x * y) d a b s
def execMulh (d a b : Reg) (s : State) := alu3 4 mulhOp d a b s
def execMulhu (d a b : Reg) (s : State) := alu3 4 mulhuOp d a b s
def execDiv (d a b : Reg) (s : State) := alu3 66 divOp d a b s
def execDivu (d a b : Reg) (s : State) := alu3 66 divuOp d a b s
def execRem (d a b : Reg) (s : State) := alu3 66 remOp d a b s
def execRemu (d a b : Reg) (s : State) := alu3 66 remuOp d a b s
def execAnd (d a b : Reg) (s : State) := alu3 1 (fun x y => x &&& y) d a b s
def execOr (d a b : Reg) (s : State) := alu3 1 (fun x y => x ||| y) d a b s
def execXor (d a b : Reg) (s : State) := alu3 1 (fun x y => x ^^^ y) d a b s
def execAndn (d a b : Reg) (s : State) := alu3 1 (fun x y => x &&& ~~~y) d a b s
def execShl (d a b : Reg) (s : State) := alu3 1 (fun x y => x <<< amount y) d a b s
def execShr (d a b : Reg) (s : State) := alu3 1 (fun x y => x >>> amount y) d a b s
def execSar (d a b : Reg) (s : State) := alu3 1 (fun x y => x.sshiftRight (amount y)) d a b s
def execRol (d a b : Reg) (s : State) := alu3 1 (fun x y => x.rotateLeft (amount y)) d a b s
def execMin (d a b : Reg) (s : State) := alu3 1 (fun x y => if lessS x y then x else y) d a b s
def execMinu (d a b : Reg) (s : State) := alu3 1 (fun x y => if lessU x y then x else y) d a b s
def execMax (d a b : Reg) (s : State) := alu3 1 (fun x y => if lessS x y then y else x) d a b s
def execMaxu (d a b : Reg) (s : State) := alu3 1 (fun x y => if lessU x y then y else x) d a b s
def execSlt (d a b : Reg) (s : State) := alu3 1 (fun x y => boolWord (lessS x y)) d a b s
def execSltu (d a b : Reg) (s : State) := alu3 1 (fun x y => boolWord (lessU x y)) d a b s
def execSeq (d a b : Reg) (s : State) := alu3 1 (fun x y => boolWord (x == y)) d a b s
def execSne (d a b : Reg) (s : State) := alu3 1 (fun x y => boolWord (x != y)) d a b s
def execClz (d a : Reg) (s : State) := alu2 (fun x => BitVec.ofNat 64 (leadingZeros 64 x.toNat)) d a s
def execCtz (d a : Reg) (s : State) := alu2 (fun x => BitVec.ofNat 64 (trailingZeros 64 0 x.toNat)) d a s
def execPopc (d a : Reg) (s : State) := alu2 (fun x => BitVec.ofNat 64 (onesCount 64 x.toNat)) d a s
def execMov (d a : Reg) (s : State) := alu2 (fun x => x) d a s
def execNeg (d a : Reg) (s : State) := alu2 (fun x => 0#64 - x) d a s

/-- `sel`: bit 0 of the old d chooses x or y; SEQ.ILL with d a message queue (R139). -/
def execSel (d a b : Reg) (s : State) : Host.Outcome State Fault Refusal :=
  instr 4 (fun cl ctx s => (illegalIf (isQueue d) s).bind (fun _ s => (rd2 cl ctx a b s).bind (fun (x, y) s =>
    (rd cl ctx d s).bind (fun old s =>
      (wr cl ctx d (if old.getLsbD 0 then x else y) s).bind (fun _ s => .ok .seq s))))) s

/-! ## Immediates (R140) -/

def execAddi (d a : Reg) (i : BitVec 14) (s : State) := alu2 (fun x => x + sx i) d a s
def execAndi (d a : Reg) (i : BitVec 14) (s : State) := alu2 (fun x => x &&& sx i) d a s
def execOri (d a : Reg) (i : BitVec 14) (s : State) := alu2 (fun x => x ||| sx i) d a s
def execXori (d a : Reg) (i : BitVec 14) (s : State) := alu2 (fun x => x ^^^ sx i) d a s
def execShli (d a : Reg) (n : BitVec 6) (s : State) := alu2 (fun x => x <<< n.toNat) d a s
def execShri (d a : Reg) (n : BitVec 6) (s : State) := alu2 (fun x => x >>> n.toNat) d a s
def execSari (d a : Reg) (n : BitVec 6) (s : State) := alu2 (fun x => x.sshiftRight n.toNat) d a s
def execSlti (d a : Reg) (i : BitVec 14) (s : State) := alu2 (fun x => boolWord (lessS x (sx i))) d a s
def execSltiu (d a : Reg) (i : BitVec 14) (s : State) := alu2 (fun x => boolWord (lessU x (sx i))) d a s

/-- `lui`: i · 2^14; it reads no register. -/
def execLui (d : Reg) (i : BitVec 14) (s : State) : Host.Outcome State Fault Refusal :=
  instr 4 (fun cl ctx s => (wr cl ctx d (sx i <<< 14) s).bind (fun _ s => .ok .seq s)) s

/-- `bfx`: SEQ.ILL when pos + len passes 64. -/
def execBfx (d a : Reg) (x : Bool) (l p : BitVec 6) (s : State) : Host.Outcome State Fault Refusal :=
  instr 4 (fun cl ctx s => (illegalIf (decide (64 < p.toNat + (l.toNat + 1))) s).bind (fun _ s =>
    (rd cl ctx a s).bind (fun v s =>
      (wr cl ctx d (fieldOf v p.toNat (l.toNat + 1) x) s).bind (fun _ s => .ok .seq s)))) s

/-- `bfi`: SEQ.ILL when pos + len passes 64 or d is a message queue. -/
def execBfi (d a : Reg) (l p : BitVec 6) (s : State) : Host.Outcome State Fault Refusal :=
  instr 4 (fun cl ctx s => (illegalIf (decide (64 < p.toNat + (l.toNat + 1)) || isQueue d) s).bind (fun _ s =>
    (rd cl ctx a s).bind (fun v s => (rd cl ctx d s).bind (fun old s =>
      (wr cl ctx d (fieldInto old v p.toNat (l.toNat + 1)) s).bind (fun _ s => .ok .seq s))))) s

/-! ## Long immediates (R160) -/

def execLi (d : Reg) (c : BitVec 44) (s : State) : Host.Outcome State Fault Refusal :=
  instr 8 (fun cl ctx s => (wr cl ctx d (sx c) s).bind (fun _ s => .ok .seq s)) s

/-- `lih`: the low 44 bits of the old d, with the immediate above them. -/
def execLih (d : Reg) (i : BitVec 20) (s : State) : Host.Outcome State Fault Refusal :=
  instr 8 (fun cl ctx s => (illegalIf (isQueue d) s).bind (fun _ s => (rd cl ctx d s).bind (fun old s =>
    (wr cl ctx d (lowBits old 44 ||| (zx i <<< 44)) s).bind (fun _ s => .ok .seq s)))) s

def execAddli (d : Reg) (c : BitVec 44) (s : State) : Host.Outcome State Fault Refusal :=
  instr 8 (fun cl ctx s => (illegalIf (isQueue d) s).bind (fun _ s => (rd cl ctx d s).bind (fun old s =>
    (wr cl ctx d (old + sx c) s).bind (fun _ s => .ok .seq s)))) s

end Sys2Proof.Machine
end

