-- ==== Sys2Proof/Machine/Control.lean ====
section
/-! DEFINITION. Control flow (R141 to R143, R259): branches, loop and jumps; filling the instruction cache. -/

namespace Sys2Proof.Machine

/-! ## The instruction cache (R98, R259, R263) -/

/-- Brings one line of the code into a cluster's instruction cache, read as the SQ path reads it; nothing where it cannot be
read. -/
def fillLine (s : State) (cl line : Nat) : State :=
  match s.taskOf cl with
  | none => s
  | some t =>
    match translate s (dieOf cl) t.root (t.codeVA + 128 * line) false with
    | .error _ => s
    | .ok x =>
      match memRead true cl x.pa 128 x.ms x.s with
      | .ok bs s1 => s1.modCluster cl (fun c => c.cacheCode line (Beat.ofBytes bs))
      | _ => s

/-- On entry to a function the first 1 KiB at each listed successor is fetched (R259): every line that it meets. -/
def prefetch (s : State) (cl entry : Nat) : State :=
  match s.taskOf cl with
  | none => s
  | some t =>
    match t.succs.find? (fun r => r.head? == some entry) with
    | none => s
    | some r => (r.drop 1).foldl (fun s off =>
        if off < t.csize then (List.range ((off % 128 + 1024 + 127) / 128)).foldl (fun s k => fillLine s cl (off / 128 + k)) s else s) s

/-! ## Branches and jumps -/

/-- Goes to a code address, or raises SEQ.PC with trapaddr holding it (R143, R161). -/
def goTo (cl : Nat) (t : Word) (s : State) : Res Next :=
  if pcOk s cl t then .ok (.goto t) s else .trap (trapOf Cause.seqPc t)

/-- A conditional branch (R141). -/
def branch (cond : Word → Word → Bool) (a b : Reg) (off : BitVec 14) (s : State) : Host.Outcome State Fault Refusal :=
  instr 4 (fun cl ctx s => (rd2 cl ctx a b s).bind (fun (x, y) s =>
    if cond x y then goTo cl (target (pcOf cl ctx s) off) s else .ok .seq s)) s

def execBeq (a b : Reg) (o : BitVec 14) (s : State) := branch (fun x y => x == y) a b o s
def execBne (a b : Reg) (o : BitVec 14) (s : State) := branch (fun x y => x != y) a b o s
def execBlt (a b : Reg) (o : BitVec 14) (s : State) := branch (fun x y => decide (x.toInt < y.toInt)) a b o s
def execBge (a b : Reg) (o : BitVec 14) (s : State) := branch (fun x y => decide (y.toInt ≤ x.toInt)) a b o s
def execBltu (a b : Reg) (o : BitVec 14) (s : State) := branch (fun x y => decide (x.toNat < y.toNat)) a b o s
def execBgeu (a b : Reg) (o : BitVec 14) (s : State) := branch (fun x y => decide (y.toNat ≤ x.toNat)) a b o s

/-- `loop` (R142): an a of 0 or of 48 and above raises SEQ.ILL. -/
def execLoop (a : Reg) (o : BitVec 14) (s : State) : Host.Outcome State Fault Refusal :=
  instr 4 (fun cl ctx s => (illegalIf (decide (a.toNat = 0) || decide (48 ≤ a.toNat)) s).bind (fun _ s =>
    (rd cl ctx a s).bind (fun x s =>
      let v := x - 1#64
      if v = 0#64 then (wr cl ctx a v s).bind (fun _ s => .ok .seq s)
      else (goTo cl (target (pcOf cl ctx s) o) s).bind (fun n s => (wr cl ctx a v s).bind (fun _ s => .ok n s))))) s

def execJmp (o : BitVec 26) (s : State) : Host.Outcome State Fault Refusal :=
  instr 4 (fun cl ctx s => goTo cl (target (pcOf cl ctx s) o) s) s

/-- `jal` (R143): s31 takes pc + 4; a listed function entry starts the prefetcher (R259). -/
def execJal (o : BitVec 26) (s : State) : Host.Outcome State Fault Refusal :=
  instr 4 (fun cl ctx s =>
    let t := target (pcOf cl ctx s) o
    (goTo cl t s).bind (fun n s => (wr cl ctx 31#6 (pcOf cl ctx s + 4#64) s).bind (fun _ s => .ok n (prefetch s cl t.toNat)))) s

/-- `jr` (R143): raises SEQ.PC before it writes d. -/
def execJr (d a : Reg) (s : State) : Host.Outcome State Fault Refusal :=
  instr 4 (fun cl ctx s => (rd cl ctx a s).bind (fun t s =>
    (goTo cl t s).bind (fun n s => (wr cl ctx d (pcOf cl ctx s + 4#64) s).bind (fun _ s => .ok n s)))) s

end Sys2Proof.Machine
end

