-- ==== Sys2Proof/Machine/Ends.lean ====
section
/-! DEFINITION. The ends of a firing and of an actor (R93, R94, R144, R145, R155, R285) and the return from a trap (R280). -/

namespace Sys2Proof.Machine

/-- The rate handles of a slot in one direction. -/
def Cluster.rateHandles (c : Cluster) (slot : Nat) (out : Bool) : List Nat :=
  (List.range 16).filter (fun h => decide (0 < c.slotRate slot h) && c.handleOut h == out)

/-- A firing's published count and a slot's written beat. -/
def Firing.pubOf (f : Firing) (h : Nat) : Nat := SMap.get f.pub 0 h
def Firing.advOf (f : Firing) (h : Nat) : Nat := SMap.get f.adv 0 h
def Firing.writtenAt (f : Firing) (h slot : Nat) : Option Beat := SMap.find f.written (16 * slot + h)

/-- The beats that publishing slots pub to pub + n − 1 sends: what was written, zero elsewhere (R155). -/
def Firing.beats (f : Firing) (h n : Nat) : List Item :=
  (List.range n).map (fun i => .data ((f.writtenAt h (f.pubOf h + i)).getD 0#1024))

/-- Every outgoing rate handle has room for what the end publishes and for `extra` tokens. -/
def roomToEnd (s : State) (cl slot : Nat) (f : Firing) (extra : Nat) : Bool :=
  let c := s.cluster cl
  (c.rateHandles slot true).all (fun h => s.hasFree cl (portKey 0x20 h) (c.slotRate slot h - f.pubOf h + extra))

/-- The handles are settled (R155): incoming ones advance to their rate, stopping before EOS or an abort token; outgoing ones
publish up to their rate. An incoming handle with fewer items than its rate asks for, and no EOS or abort token among them, advances by the
items present and does not block. DESIGN CHOICE (log entry 48). -/
def settleHandles (s : State) (cl slot : Nat) (f : Firing) : State :=
  let c := s.cluster cl
  let s1 := (c.rateHandles slot false).foldl (fun s h =>
    let items := (s.cluster cl).handleItems h
    takeItems s cl (portKey 0x20 h) (Nat.min (c.slotRate slot h - f.advOf h) (untilEnd items))) s
  (c.rateHandles slot true).foldl (fun s h =>
    sendItems s cl (portKey 0x20 h) (f.beats h (c.slotRate slot h - f.pubOf h))) s1

/-- The context is freed and the firing number counted; what the firing posted no longer counts against a firing (R93). -/
def freeContext (s : State) (cl ctx slot : Nat) (st : SlotStatus) : State :=
  let mine := fun (c : Nat) (x : Option Nat) => if c = cl ∧ x = some ctx then none else x
  let s1 := (s.delFiring cl ctx).modCluster cl (fun c =>
    c.setSlot slot { c.slot slot with status := st, firing := (c.slot slot).firing + 1#64 })
  { s1 with inflight := s1.inflight.map (fun r => { r with ctx := mine r.cl r.ctx }),
            nmops := s1.nmops.map (fun r => { r with ctx := mine r.cl r.ctx }),
            waiters := s1.waiters.filter (fun w => !(w.cl == cl && w.ctx == ctx && w.queue.isNone)) }

/-- An aborting gang ends once its last firing has (R274); a barrier that a firing of it has joined since is poisoned with its actor's
end (R234). -/
def afterEnd (s : State) (cl : Nat) : State :=
  match (s.cluster cl).owner with
  | some t => finishAbort (if (s.abortingAt cl).isSome then poisonBarriers s t else s) t
  | none => s

/-- Traps that still wait once the trap actor has ended: the task is killed with the first, as where a sequencer has no trap actor (R275).
DEDUCED (log entry 5). -/
def strandedTraps (s : State) (cl : Nat) : State :=
  match (s.cluster cl).trapSlot, (s.cluster cl).traps, (s.cluster cl).owner, s.abortingAt cl with
  | none, r :: _, some t, none => killTask s t r.cause
  | _, _, _, _ => s

/-- A firing ends as by `fend`. -/
def endFend (s : State) (cl ctx : Nat) (f : Firing) : State :=
  afterEnd (refresh (freeContext (settleHandles s cl f.slot f) cl ctx f.slot .idle) cl) cl

/-- The actor of a slot exits: EOS on its outgoing rate handles, its drops at barriers, and its incoming rate handles discard
up to EOS or an abort token (R94). -/
def exitActor (s : State) (cl slot : Nat) : State :=
  let c := s.cluster cl
  let s1 := (c.rateHandles slot true).foldl (fun s h => sendItem s cl (portKey 0x20 h) .eos) s
  let s2 := dropAll s1 cl slot
  let s3 := (c.rateHandles slot false).foldl (fun s h => discardPhase s cl (portKey 0x20 h)) s2
  s3.modCluster cl (fun c => c.setSlot slot { c.slot slot with status := .exited, joins := [] })

/-- A firing ends as by `aexit`: it publishes what `fend` would, then the actor exits (R145). -/
def endAexit (s : State) (cl ctx : Nat) (f : Firing) : State :=
  afterEnd (strandedTraps (exitActor (freeContext (settleHandles s cl f.slot f) cl ctx f.slot .exited) cl f.slot) cl) cl

/-- The firing whose trap a trap-actor firing handles, when the record has R = 1. -/
def trappedFiring (s : State) (cl : Nat) (f : Firing) : Option (Nat × Firing) :=
  match f.handling with
  | some r => if r.r then (s.firing cl r.ctx).map (fun g => (r.ctx, g)) else none
  | none => none

/-- The trapped firing ends as if it had executed `fend` (R275). -/
def endTrapped (s : State) (cl : Nat) (f : Firing) : State :=
  match trappedFiring s cl f with
  | some (k, g) => if (((s.cluster cl).slot g.slot).ending) then endAexit s cl k g else endFend s cl k g
  | none => s

/-- Room for the trapped firing's end. -/
def roomForTrapped (s : State) (cl : Nat) (f : Firing) : Bool :=
  match trappedFiring s cl f with
  | some (_, g) => roomToEnd s cl g.slot g (if ((s.cluster cl).slot g.slot).ending then 1 else 0)
  | none => true

/-- Actors of which one has joined a barrier release before their drops arrive, behind every write that the firing has read (R94, R223). -/
def releaseForDrop (s : State) (cl ctx : Nat) (slots : List Nat) : State × Bool :=
  if slots.all (fun m => ((s.cluster cl).slot m).joins.isEmpty) then (s, true)
  else if !(s.unseen cl ctx).isEmpty then (s, false)
  else releaseBy cl ctx true false s

/-- The slot of the trapped firing, if its actor exits with it (R285). -/
def trappedExit (s : State) (cl : Nat) (f : Firing) : List Nat :=
  match trappedFiring s cl f with
  | some (_, g) => if ((s.cluster cl).slot g.slot).ending then [g.slot] else []
  | none => []

/-- A firing ends with actors that exit, or blocks: for room, or for the release their drops need. -/
def endReleased (cl ctx : Nat) (room : Bool) (slots : List Nat) (go : State → State) (s : State) : Res Unit :=
  if room then
    match releaseForDrop s cl ctx slots with
    | (s1, true) => .ok () (go s1)
    | (s1, false) => .stallIn s1
  else .stall

/-- Ends a firing by `aexit`. -/
def tryAexit (cl ctx : Nat) (f : Firing) (s : State) : Res Unit :=
  endReleased cl ctx (roomToEnd s cl f.slot f 1 && roomForTrapped s cl f) (f.slot :: trappedExit s cl f)
    (fun s => endAexit (endTrapped s cl f) cl ctx f) s

/-- `fend` (R144). In the trap actor it ends the trapped firing too (R275); under `halt` it ends the actor (R285). -/
def execFend (s : State) : Host.Outcome State Fault Refusal :=
  instr 4 (fun cl ctx s => match s.firing cl ctx with
    | none => .stall
    | some f =>
      (if ((s.cluster cl).slot f.slot).ending then tryAexit cl ctx f s
       else endReleased cl ctx (roomToEnd s cl f.slot f 0 && roomForTrapped s cl f) (trappedExit s cl f)
         (fun s => endFend (endTrapped s cl f) cl ctx f) s).bind (fun _ s => .ok .gone s)) s

/-- `aexit` (R145, R275). -/
def execAexit (s : State) : Host.Outcome State Fault Refusal :=
  instr 4 (fun cl ctx s => match s.firing cl ctx with
    | none => .stall
    | some f => (tryAexit cl ctx f s).bind (fun _ s => .ok .gone s)) s

/-- `eret` (R280): only in a firing of the trap actor that handles a trap. Under `halt` it ends the trap actor too (R285). -/
def execEret (s : State) : Host.Outcome State Fault Refusal :=
  instr 4 (fun cl ctx s => match s.firing cl ctx with
    | none => .stall
    | some f =>
      match f.handling with
      | none => .trap (trapOf Cause.seqIll 0#64)
      | some r =>
        let resume := fun (s : State) => if r.r then resumeFiring s cl r f.epc else s
        (if ((s.cluster cl).slot f.slot).ending then endReleased cl ctx (roomToEnd s cl f.slot f 1) [f.slot] (fun s => endAexit (resume s) cl ctx f) s
         else endReleased cl ctx (roomToEnd s cl f.slot f 0) [] (fun s => endFend (resume s) cl ctx f) s).bind (fun _ s => .ok .gone s)) s

/-- The slots that `halt` ends at once: valid, not exited, without a firing in flight, other than its own. -/
def haltNow (s : State) (cl own : Nat) : List Nat :=
  (List.range 16).filter (fun m =>
    let c := s.cluster cl
    c.slotValid m && m != own && ((c.slot m).status == .idle || (c.slot m).status == .fireable))

/-- The other actors of a sequencer with a firing in flight are to exit at its `fend`. -/
def markEnding (s : State) (cl own : Nat) : State :=
  s.modCluster cl (fun c => (List.range 16).foldl (fun c m =>
    if m != own && ((c.slot m).status == .running || (c.slot m).status == .suspended)
    then c.setSlot m { c.slot m with ending := true } else c) c)

/-- `halt` (R285): its own actor exits; actors in flight exit at their `fend`, the one whose trap it handles with it; the others exit at once,
in slot order, unless its own exit has ended the task. -/
def execHalt (s : State) : Host.Outcome State Fault Refusal :=
  instr 4 (fun cl ctx s => match s.firing cl ctx with
    | none => .stall
    | some f =>
      let others := haltNow s cl f.slot
      let marked := markEnding s cl f.slot
      let room := others.all (fun m => ((s.cluster cl).rateHandles m true).all (fun h => s.hasFree cl (portKey 0x20 h) 1))
      (endReleased cl ctx (room && roomToEnd s cl f.slot f 1 && roomForTrapped marked cl f) (f.slot :: trappedExit marked cl f ++ others)
        (fun s0 =>
          let s1 := endAexit (endTrapped (markEnding s0 cl f.slot) cl f) cl ctx f
          if (s0.cluster cl).owner.isSome && (s1.cluster cl).owner.isNone then s1
          else strandedTraps (others.foldl (fun s m => exitActor s cl m) s1) cl) s).bind (fun _ s => .ok .gone s)) s

end Sys2Proof.Machine
end

