-- ==== Sys2Proof/Machine/ChanInstr.lean ====
section
/-! DEFINITION. Channel, token and queue instructions (R152 to R159). -/

namespace Sys2Proof.Machine

/-- The rate of a handle in the firing's slot; 0 for a dynamic handle. -/
def rateOf (s : State) (cl : Nat) (f : Firing) (h : Nat) : Nat := (s.cluster cl).slotRate f.slot h

/-- The handle is a rate handle of another slot. -/
def foreign (c : Cluster) (slot h : Nat) : Bool :=
  (List.range 16).any (fun m => m != slot && decide (0 < c.slotRate m h))

/-- SEQ.CHAN with trapaddr holding the handle (R152). -/
def chanFault {α : Type} (h : Nat) : Res α := .trap (trapOf Cause.seqChan (BitVec.ofNat 64 h))

/-- The firing, once its handle is in use, leads the right way and is not another slot's (R152). -/
def onHandle (cl ctx h : Nat) (out : Bool) (s : State) : Res Firing :=
  match s.firing cl ctx with
  | none => .stall
  | some f =>
    let c := s.cluster cl
    if c.handleUsed h && c.handleOut h == out && !foreign c f.slot h then .ok f s else chanFault h

/-- A marked item: an in-band token or a DROP beat (R154). -/
def Item.marked : Item → Bool
  | .data _ => false
  | _ => true

/-- KIND of Table 8.3. -/
def Item.kind : Item → Nat
  | .data _ => 0
  | .eos => 1
  | .eor => 2
  | .eok => 3
  | .bound _ => 4
  | .drop _ => 5
  | .abort _ => 6

/-- PAY of Table 8.3. -/
def Item.pay : Item → Nat
  | .bound n => n
  | .abort st => st.toNat
  | _ => 0

/-- The word `cbw` writes (Table 8.3). -/
def cbwWord (items : List Item) : Word :=
  let idx := items.findIdx? Item.marked
  let it := idx.bind (fun i => items[i]?)
  let i := match idx with
    | some i => if i < 255 then i else 255
    | none => 255
  BitVec.ofNat 64 ((it.map Item.pay).getD 0 * 4294967296 + Nat.min items.length 65535 * 4096 + i * 16 + (it.map Item.kind).getD 0)

/-- `cbw` (R154). -/
def execCbw (d : Reg) (h : BitVec 4) (n : BitVec 8) (s : State) : Host.Outcome State Fault Refusal :=
  instr 4 (fun cl ctx s => (onHandle cl ctx h.toNat false s).bind (fun _ s =>
    let items := (s.cluster cl).handleItems h.toNat
    if n.toNat ≤ items.length ∨ items.any Item.marked then
      (wr cl ctx d (cbwWord items) s).bind (fun _ s => .ok .seq s)
    else .stall)) s

/-- Free slots of an outgoing handle beyond what is published; a handle that no channel leaves has no limit. -/
def handleFree (s : State) (cl h : Nat) : Nat := (s.outFree cl (portKey 0x20 h)).getD 65535

/-- Written and unpublished slots of a handle. -/
def Firing.writtenOf (f : Firing) (h : Nat) : Nat := (f.written.filter (fun w => w.1 % 16 == h)).length

/-- `cbf` (R154): free slots beyond pub and the written slots. -/
def execCbf (d : Reg) (h : BitVec 4) (n : BitVec 8) (s : State) : Host.Outcome State Fault Refusal :=
  instr 4 (fun cl ctx s => (onHandle cl ctx h.toNat true s).bind (fun f s =>
    let free := handleFree s cl h.toNat - f.writtenOf h.toNat
    if n.toNat ≤ free then
      (wr cl ctx d (BitVec.ofNat 64 (Nat.min free 65535)) s).bind (fun _ s => .ok .seq s)
    else .stall)) s

/-- An access to item `last` beyond adv (R152): on a rate handle it stays within the rate and does not reach beyond the
first EOS or abort token; on a dynamic handle it blocks until the item exists. -/
def reachIn (s : State) (cl : Nat) (f : Firing) (h last : Nat) : Res Unit :=
  let items := (s.cluster cl).handleItems h
  let r := rateOf s cl f h
  if 0 < r ∧ (r ≤ f.advOf h + last ∨ (untilEnd items < items.length ∧ untilEnd items < last)) then chanFault h
  else if items.length ≤ last then .stall else .ok () s

/-- `cbadv` (R155). -/
def execCbadv (h : BitVec 4) (n : BitVec 8) (s : State) : Host.Outcome State Fault Refusal :=
  instr 4 (fun cl ctx s => (onHandle cl ctx h.toNat false s).bind (fun f s =>
    if n.toNat = 0 then .ok .seq s
    else (reachIn s cl f h.toNat (n.toNat - 1)).bind (fun _ s =>
      let s1 := s.setFiring cl ctx { f with adv := SMap.set f.adv h.toNat (f.advOf h.toNat + n.toNat) }
      .ok .seq (takeItems s1 cl (portKey 0x20 h.toNat) n.toNat)))) s

/-- `cbpub` (R155). -/
def execCbpub (h : BitVec 4) (n : BitVec 8) (s : State) : Host.Outcome State Fault Refusal :=
  instr 4 (fun cl ctx s => (onHandle cl ctx h.toNat true s).bind (fun f s =>
    let r := rateOf s cl f h.toNat
    if 0 < r ∧ r < f.pubOf h.toNat + n.toNat then chanFault h.toNat
    else if !s.hasFree cl (portKey 0x20 h.toNat) n.toNat then .stall
    else
      let pub := f.pubOf h.toNat
      let f1 := { f with pub := SMap.set f.pub h.toNat (pub + n.toNat),
                         written := f.written.filter (fun w => !(w.1 % 16 == h.toNat && decide (w.1 / 16 < pub + n.toNat))) }
      .ok .seq (sendItems (s.setFiring cl ctx f1) cl (portKey 0x20 h.toNat) (f.beats h.toNat n.toNat)))) s

/-- Dword j of an item: 0 at a token position; a DROP beat gives its lanes (R156). -/
def Item.dwordOf (it : Item) (j : Nat) : Word :=
  match it with
  | .data b => b.dword j
  | .drop b => b.dword j
  | _ => 0#64

/-- `cbld` (R156). -/
def execCbld (d : Reg) (h i j : BitVec 4) (s : State) : Host.Outcome State Fault Refusal :=
  instr 4 (fun cl ctx s => (onHandle cl ctx h.toNat false s).bind (fun f s =>
    (reachIn s cl f h.toNat i.toNat).bind (fun _ s =>
      let v := match ((s.cluster cl).handleItems h.toNat)[i.toNat]? with
        | some it => it.dwordOf j.toNat
        | none => 0#64
      (wr cl ctx d v s).bind (fun _ s => .ok .seq (s.slow cl ctx d 2))))) s

/-- `cbst` (R156): d is its source; a slot already written keeps its other dwords. -/
def execCbst (d : Reg) (h i j : BitVec 4) (s : State) : Host.Outcome State Fault Refusal :=
  instr 4 (fun cl ctx s => (onHandle cl ctx h.toNat true s).bind (fun f s =>
    let r := rateOf s cl f h.toNat
    let slot := f.pubOf h.toNat + i.toNat
    if 0 < r ∧ r ≤ slot then chanFault h.toNat
    else if r = 0 ∧ !s.hasFree cl (portKey 0x20 h.toNat) (i.toNat + 1) then .stall
    else (rd cl ctx d s).bind (fun v s =>
      let b := ((f.writtenAt h.toNat slot).getD 0#1024).setDword j.toNat v
      match s.firing cl ctx with
      | some g => .ok .seq (s.setFiring cl ctx { g with written := SMap.set g.written (16 * slot + h.toNat) b })
      | none => .stall))) s

/-- A token leaves on an outgoing handle, after the items published, into a free slot (R157). -/
def emitToken (cl ctx h : Nat) (it : State → Res Item) (s : State) : Res Next :=
  (onHandle cl ctx h true s).bind (fun f s =>
    if 0 < f.writtenOf h then chanFault h
    else if !s.hasFree cl (portKey 0x20 h) 1 then .stall
    else (it s).bind (fun tok s => .ok .seq (sendItem s cl (portKey 0x20 h) tok)))

/-- `tok.eos` (R157): kind 0 EOS, 1 EOR, 2 EOK; 3 raises SEQ.ILL. -/
def execTokEos (h : BitVec 4) (k : BitVec 2) (s : State) : Host.Outcome State Fault Refusal :=
  instr 4 (fun cl ctx s => (illegalIf (k == 3#2) s).bind (fun _ s =>
    emitToken cl ctx h.toNat (fun s => .ok (if k = 0#2 then .eos else if k = 1#2 then .eor else .eok) s) s)) s

/-- `tok.bnd` (R157): BOUND with payload min(rd(d), 2^32 − 1). -/
def execTokBnd (d : Reg) (h : BitVec 4) (s : State) : Host.Outcome State Fault Refusal :=
  instr 4 (fun cl ctx s => emitToken cl ctx h.toNat
    (fun s => (rd cl ctx d s).bind (fun v s => .ok (.bound (Nat.min v.toNat 4294967295)) s)) s) s

/-- `tok.ctl` (R158): a control token reaches its tile two cycles after it is sent (R173). -/
def execTokCtl (k : Bool) (a : BitVec 5) (s : State) : Host.Outcome State Fault Refusal :=
  instr 4 (fun cl _ s =>
    .ok .seq (s.modCluster cl (fun c => { c with ctlFly := c.ctlFly ++ [{ tile := a.toNat, done := k, due := s.now + 2 }] }))) s

/-- A binding word (R159): reserved bits zero; with V = 1 the cluster lies in the task's placement and the slot is valid
there; with V = 0 every other field is zero. -/
def bindOf (s : State) (cl : Nat) (w : Word) : Option (Option Bind) :=
  let v := w.toNat
  if 32768 ≤ v then none
  else if bitAt v 14 then
    let b : Bind := { cl := bitsAt v 6 8, slot := bitsAt v 2 4, qn := bitsAt v 0 2 }
    let placed := (s.cluster b.cl).owner.isSome && (s.cluster b.cl).owner == (s.cluster cl).owner
    if placed && (s.cluster b.cl).slotValid b.slot then some (some b) else none
  else if v = 0 then some none else none

/-- `qbind` (R159). -/
def execQbind (q : Reg) (n : BitVec 8) (s : State) : Host.Outcome State Fault Refusal :=
  instr 4 (fun cl ctx s => (illegalIf (!isQueue q || decide (47 < n.toNat)) s).bind (fun _ s =>
    (rd cl ctx (n.truncate 6) s).bind (fun w s =>
      match bindOf s cl w, s.firing cl ctx with
      | some b, some f => .ok .seq (s.modCluster cl (fun c =>
          let sl := c.slot f.slot
          c.setSlot f.slot { sl with binds := match b with
            | some x => SMap.set sl.binds (q.toNat - 48) x
            | none => SMap.del sl.binds (q.toNat - 48) }))
      | _, _ => .trap (trapOf Cause.seqQueue 0#64)))) s

end Sys2Proof.Machine
end

