-- ==== Sys2Proof/Machine/Sync.lean ====
section
/-! DEFINITION. Fences, semaphores, gang barriers, atomics and the paired store (R222, R226 to R237). -/

namespace Sys2Proof.Machine

/-! ## Fences (R221, R222, R228) -/

/-- The body of `fence.scope`: every scope but `cl` waits for the sequencer's writes; it closes the die's batch (R213). -/
def execFenceScope (sc : BitVec 2) (s : State) : Host.Outcome State Fault Refusal :=
  instr 4 (fun cl ctx s =>
    if sc = 0#2 then .ok .seq (closeBatch s (dieOf cl))
    else match releaseBy cl ctx (sc == 3#2) false s with
      | (s1, true) => .ok .seq s1
      | (s1, false) => .stallIn s1) s

/-- The path of an engine class (Table 14.1): ST for classes 0 and 1. -/
def classPath (cls : Nat) : Nat :=
  match cls with
  | 0 => 1
  | 1 => 1
  | 2 => 2
  | 3 => 3
  | 4 => 4
  | _ => 6

/-- A command on a path of the mask that entered its queue before a name was given. -/
def Cmd.covered (x : Cmd) (paths upto : Nat) : Bool := bitAt paths (classPath x.cls) && decide (x.id < upto)

/-- Every covered command has completed: none is queued or running (R222). DEDUCED (log entry 27). -/
def commandsDone (c : Cluster) (paths upto : Nat) : Bool :=
  !(c.running.any (fun r => r.cmd.covered paths upto) || c.queues.any (fun q => q.2.any (fun x => x.covered paths upto))
    || c.portq.any (fun q => q.2.any (fun x => x.covered paths upto)))

/-- Every covered event of the sequencer, issued before a name was given, meets the scope: its writes (SQ), its near-memory
operations (NM), the ring writes of the cluster's elastic tracks (RING, R228). DEDUCED (log entry 27). -/
def eventsDone (s : State) (cl paths : Nat) (sc : BitVec 2) (upto : Nat) : Bool :=
  let dom := sc == 3#2
  (sc == 0#2 || !bitAt paths 0 || !sqPending s cl upto dom) &&
  (sc == 0#2 || !bitAt paths 5 || !s.nmops.any (fun o => o.cl == cl && o.cmd.isNone && decide (o.id < upto) && !beyond dom o.pa)) &&
  (!bitAt paths 7 || (s.cluster cl).chans.all (fun x => x.2.spilling.all (fun y => decide (upto ≤ y.1))))

/-- `xfence` (R222, R228): P of zero raises SEQ.ILL. While it blocks, later commands on its paths do not start. DEDUCED (log entry 27). -/
def execXfence (p : BitVec 8) (sc : BitVec 2) (s : State) : Host.Outcome State Fault Refusal :=
  instr 4 (fun cl ctx s => (illegalIf (p == 0#8) s).bind (fun _ s =>
    let mine := (s.cluster cl).fenceOf ctx
    let s1 := if mine.isSome then s else closeBatch s (dieOf cl)
    let upto := (mine.map (·.upto)).getD s1.nextId
    if commandsDone (s1.cluster cl) p.toNat upto && eventsDone s1 cl p.toNat sc upto then .ok .seq (s1.modCluster cl (fun c => c.dropFence ctx))
    else .stallIn (s1.modCluster cl (fun c => c.putFence ctx p.toNat upto false)))) s

/-! ## Near-memory addresses (R226) -/

/-- Translation, then the region, then the lease. -/
def nmAddress (cl va n : Nat) (write : Bool) (s : State) : Res Nat :=
  match s.taskOf cl with
  | none => .trap (trapOf Cause.xlateNp (BitVec.ofNat 64 va))
  | some t =>
    match translate s (dieOf cl) t.root va write with
    | .error f => f.res va
    | .ok x =>
      if 2 ≤ regionOf x.pa then trapAt Cause.syncAddr va
      else if t.leased va n && !x.s.inPool x.pa n then .ok x.pa x.s else .kill Cause.leaseOut

/-! ## Semaphores (R229 to R231) -/

/-- `sem.sig`: a release, then one posted update. -/
def execSemSig (a b : Reg) (s : State) : Host.Outcome State Fault Refusal :=
  instr 4 (fun cl ctx s => (rd2 cl ctx a b s).bind (fun (x, y) s1 =>
    (faultIf (decide (x.toNat % 8 ≠ 0)) Cause.seqAlign x.toNat s1).bind (fun _ s1 =>
      (nmAddress cl x.toNat 8 true s1).bind (fun pa s1 => (nmLine cl ctx none x.toNat pa 8 s1).bind (fun _ s1 =>
        match releaseBy cl ctx true false s1 with
        | (s2, true) => (storeRoom cl ctx s2).bind (fun _ s2 => .ok .seq (postNm cl none (some ctx) pa (.sig y) s2))
        | (_, false) => .stallIn (releaseBy cl ctx true false s).1))))) s

/-- The stack whose NMU holds an address. -/
def stackOf (pa : Nat) : Nat := pa / Config.stackBytes

/-- The NMU of an address has a waiter free (R230). -/
def waiterFree (s : State) (pa : Nat) : Bool :=
  decide ((s.waiters.filter (fun w => !w.polling && stackOf w.pa == stackOf pa)).length < Config.nmuWaiters)

/-- The waiter of a firing, and the state without it. -/
def Waiter.of (w : Waiter) (cl ctx : Nat) : Bool := w.cl == cl && w.ctx == ctx && w.queue.isNone
def dropWaiter (s : State) (cl ctx : Nat) : State := { s with waiters := s.waiters.filter (fun w => !w.of cl ctx) }

/-- `sem.wge`: an acquire. A satisfied wait goes on; an unsatisfied one registers a waiter, or polls where none is free. -/
def execSemWge (a b : Reg) (s : State) : Host.Outcome State Fault Refusal :=
  instr 4 (fun cl ctx s => (illegalIf (isQueue a || isQueue b) s).bind (fun _ s =>
    (rd2 cl ctx a b s).bind (fun (x, t) s =>
      (faultIf (decide (x.toNat % 8 ≠ 0)) Cause.seqAlign x.toNat s).bind (fun _ s =>
        (nmAddress cl x.toNat 8 false s).bind (fun pa s => (nmLine cl ctx (some false) x.toNat pa 8 s).bind (fun _ s =>
          match s.waiters.find? (fun w => w.of cl ctx) with
          | some w => if w.ok then .ok .seq { (dropWaiter s cl ctx).learn (dieOf cl) pa 8 with asked := some (cl, pa, true) } else .stallIn s
          | none =>
            let s1 := nmSettle cl pa 8 s
            if semMeets s1.mem pa t then .ok .seq s1
            else .stallIn { s1 with waiters := s1.waiters ++
              [{ cl := cl, ctx := ctx, pa := pa, target := t, ok := false, polling := !waiterFree s1 pa, queue := none }] })))))) s

/-- `sem.rd`. -/
def execSemRd (d a : Reg) (s : State) : Host.Outcome State Fault Refusal :=
  instr 4 (fun cl ctx s0 => (rd cl ctx a s0).bind (fun x s =>
    (faultIf (decide (x.toNat % 8 ≠ 0)) Cause.seqAlign x.toNat s).bind (fun _ s =>
      (nmAddress cl x.toNat 8 false s).bind (fun pa s => (nmLine cl ctx (some false) x.toNat pa 8 s).bind (fun _ s =>
        let s1 := nmSettle cl pa 8 s
        (wr cl ctx d (BitVec.ofNat 64 (s1.mem.read 8 pa)) s1).bind (fun _ s => .ok .seq (s0.keepBack cl ctx [d, a] s))))))) s

/-! ## Gang barriers (R232 to R235) -/

/-- The barrier a word names for a firing: task, index and group (R232). -/
def barrierKey (s : State) (cl : Nat) (wid w : Word) : Nat × Nat × Nat :=
  ((s.cluster cl).owner.getD 0, barIdx w, groupOf (((s.taskOf cl).map (·.widths)).getD []) wid (barLevel w))

def syncFault {α : Type} (c : Cause) (w : Word) : Res α := .trap (trapOf c w)

/-- The checks of an arrival, in their order (R233). -/
def arrivalFault (b : Barrier) (level : Nat) (n : Word) : Option Cause :=
  if b.pz then some Cause.syncPoison
  else if b.lv.isSome ∧ b.lv ≠ some level then some Cause.syncCount
  else if n = 0#64 ∨ 65536 ≤ n.toNat then some Cause.syncCount
  else match b.n with
    | some m => if m ≠ n.toNat then some Cause.syncCount else none
    | none => none

/-- The barrier after one arrival, which releases a vector of batches. -/
def Barrier.arrive (b : Barrier) (level n : Nat) (v : List Lane) : Barrier :=
  ({ b with n := some n, lv := some level, a := b.a + 1, clock := clockMax b.clock v } : Barrier).check

/-- `gbar.arr`: a release, then the arrival, which stands behind every write that the firing has read (R223; DEDUCED, log entry 6).
DEDUCED (log entry 30). -/
def execGbarArr (d a b : Reg) (s : State) : Host.Outcome State Fault Refusal :=
  instr 4 (fun cl ctx s => (rd2 cl ctx a b s).bind (fun (w, n) s1 =>
    (illegalIf (!barWordOk w) s1).bind (fun _ s1 =>
      if !(s1.unseen cl ctx).isEmpty then .stall
      else match s1.firing cl ctx, releaseBy cl ctx true true s1 with
      | none, _ => .stall
      | some _, (_, false) => .stallIn (releaseBy cl ctx true true s).1
      | some f, (s2, true) =>
        let key := barrierKey s2 cl f.wid w
        let bar := s2.barrier key
        match arrivalFault bar (barLevel w) n with
        | some c => syncFault c w
        | none =>
          (wr cl ctx d bar.c s2).bind (fun _ s3 =>
            .ok .seq ((s3.setBarrier key (bar.arrive (barLevel w) n.toNat ((s3.die (dieOf cl)).releases (dieOf cl)))).modCluster cl (fun c =>
              c.setSlot f.slot { c.slot f.slot with
                joins := SMap.set (c.slot f.slot).joins (barIdx w) (key.2.2, bar.c) })))))) s

/-- `gbar.wait`: an acquire. DEDUCED (log entry 30). -/
def execGbarWait (a b : Reg) (s : State) : Host.Outcome State Fault Refusal :=
  instr 4 (fun cl ctx s => (rd2 cl ctx a b s).bind (fun (w, p) s =>
    (illegalIf (!barWordOk w) s).bind (fun _ s =>
      match s.firing cl ctx with
      | none => .stall
      | some f =>
        let bar := s.barrier (barrierKey s cl f.wid w)
        if bar.pz then syncFault Cause.syncPoison w
        else if 0 ≤ (bar.c - p - 1#64).toInt then .ok .seq (s.dependOn (dieOf cl) bar.clock) else .stall))) s

/-- `gbar.drop` (R233): the barrier that the word names, with the phase of the slot's last arrival there. DEDUCED (log entry 30). -/
def execGbarDrop (a : Reg) (s : State) : Host.Outcome State Fault Refusal :=
  instr 4 (fun cl ctx s => (rd cl ctx a s).bind (fun w s =>
    (illegalIf (!barWordOk w) s).bind (fun _ s =>
      match s.firing cl ctx with
      | none => .stall
      | some f =>
        match SMap.find ((s.cluster cl).slot f.slot).joins (barIdx w) with
        | none => syncFault Cause.syncCount w
        | some (_, last) =>
          let key := barrierKey s cl f.wid w
          .ok .seq ((s.setBarrier key ((s.barrier key).drop last)).modCluster cl (fun c =>
            c.setSlot f.slot { c.slot f.slot with joins := SMap.del (c.slot f.slot).joins (barIdx w) }))))) s

/-! ## Atomics (R236) -/

/-- The operand's address: aligned to its width, in HBM and leased. -/
def atomicAddress (cl ctx : Nat) (answered : Option Bool) (a : Reg) (ty : Nat) (s : State) : Res Nat :=
  (rd cl ctx a s).bind (fun x s =>
    (faultIf (decide (x.toNat % nmSize ty ≠ 0)) Cause.seqAlign x.toNat s).bind (fun _ s =>
      (nmAddress cl x.toNat (nmSize ty) true s).bind (fun pa s => (nmLine cl ctx answered x.toNat pa (nmSize ty) s).bind (fun _ s => .ok pa s))))

/-- `amo`. -/
def execAmo (d a b : Reg) (o t : BitVec 4) (s : State) : Host.Outcome State Fault Refusal :=
  instr 4 (fun cl ctx s => (illegalIf (!nmValid o.toNat t.toNat) s).bind (fun _ s =>
    (atomicAddress cl ctx (some true) a t.toNat s).bind (fun pa s => (rd cl ctx b s).bind (fun y s =>
      let n := nmSize t.toNat
      let s1 := nmSettle cl pa n s
      let old := s1.mem.read n pa
      let s2 := nmStore cl pa (bytesOfNat n (nmCompute o.toNat t.toNat old (y.toNat % 2 ^ (8 * n)))) s1
      (wr cl ctx d (BitVec.ofNat 64 old) s2).bind (fun _ s => .ok .seq s))))) s

/-- `red`: `swap` is reserved. -/
def execRed (a b : Reg) (o t : BitVec 4) (s : State) : Host.Outcome State Fault Refusal :=
  instr 4 (fun cl ctx s => (illegalIf (!nmValid o.toNat t.toNat || o == 0#4) s).bind (fun _ s =>
    (atomicAddress cl ctx none a t.toNat s).bind (fun pa s => (rd cl ctx b s).bind (fun y s =>
      (storeRoom cl ctx s).bind (fun _ s =>
        .ok .seq (postNm cl none (some ctx) pa (.rmw o.toNat t.toNat y) s)))))) s

/-- `cas`: types 0 to 3; a d in the q registers raises SEQ.ILL. A failing one still writes the location with its own value. -/
def execCas (d a b : Reg) (t : BitVec 4) (s : State) : Host.Outcome State Fault Refusal :=
  instr 4 (fun cl ctx s => (illegalIf (decide (3 < t.toNat) || isQueue d) s).bind (fun _ s =>
    (atomicAddress cl ctx (some true) a t.toNat s).bind (fun pa s => (rd2 cl ctx b d s).bind (fun (y, e) s =>
      let n := nmSize t.toNat
      let s1 := nmSettle cl pa n s
      let old := s1.mem.read n pa
      let new := if old = e.toNat % 2 ^ (8 * n) then y.toNat % 2 ^ (8 * n) else old
      (wr cl ctx d (BitVec.ofNat 64 old) (nmStore cl pa (bytesOfNat n new) s1)).bind (fun _ s => .ok .seq s))))) s

/-! ## Paired store (R237) -/

/-- The types `pst` refuses: E2M1, INT4 and pixels. -/
def pstBad (t : Tensor) : Bool := !t.twinned || t.ty == 5 || t.ty == 11 || isPixel t.ty

/-- The coordinates with the first two exchanged. -/
def transposed : List Nat → List Nat
  | x :: y :: r => y :: x :: r
  | xs => xs

/-- A write of an element meets its leaf's W (R243, R254). -/
def elementWritable (cl : Nat) (t : Task) (id : Nat) (xs : List Nat) (s : State) : Res Unit :=
  match translate s (dieOf cl) t.root (t.elementVa id xs) true with
  | .error f => f.res (t.elementVa id xs)
  | .ok x => .ok () (touchTile x.s cl 9 (tileKey id false ((t.tensor id).layout.tileOf xs)))

/-- The checks of one copy of an element that an NM operation writes (R226, R250): translation, region and lease; of a windowed tensor, whose
tiles lie in HBM frames of their own, translation alone; and the line. -/
def copyChecked (cl ctx : Nat) (t : Task) (id n pa : Nat) (xs : List Nat) (s : State) : Res Unit :=
  let va := t.elementVa id xs
  let line := fun (s : State) => nmLine cl ctx none va pa n s
  if t.tableWindowed id then line s else (nmAddress cl va n true s).bind (fun _ s => line s)

/-- `pst`: both copies in one posted write. A copy on a leaf without W raises XLATE.PERM (R243). -/
def execPst (d a b : Reg) (s : State) : Host.Outcome State Fault Refusal :=
  instr 4 (fun cl ctx s => (tensorElement cl ctx a b pstBad s).bind (fun (id, ten, xs) s =>
    match s.taskOf cl with
    | none => .stall
    | some t =>
      let tid := (s.cluster cl).owner.getD 0
      (elementWritable cl t id xs s).bind (fun _ s => (elementWritable cl t ten.twin (transposed xs) s).bind (fun _ s =>
        match elementPlace s tid t id false ten.layout xs,
          elementPlace s tid t ten.twin false (t.tensor ten.twin).layout (transposed xs) with
        | some p, some q =>
          let n := tyBits ten.ty / 8
          (copyChecked cl ctx t id n p.pa xs s).bind (fun _ s => (copyChecked cl ctx t ten.twin n q.pa (transposed xs) s).bind (fun _ s =>
            (storeRoom cl ctx s).bind (fun _ s => (rd cl ctx d s).bind (fun v s =>
              .ok .seq (postNm cl none (some ctx) p.pa (.pair q.pa (bytesOfNat n v.toNat)) s)))))
        | _, _ => .stall)))) s

end Sys2Proof.Machine
end

