-- ==== Sys2Proof/Machine/Command.lean ====
section
/-! DEFINITION. The issue of an engine command (R180, R181, R320): its checks, its captured registers and its queue; and the
groups of stream commands that barriers name (R192). -/

namespace Sys2Proof.Machine

/-- The queue of a class: ST and SB share one (R181). -/
def queueOf (cls : Nat) : Nat := if cls ≤ 1 then 0 else cls

/-- The completion target of a command (R180, R181). -/
def targetOf (cl ctx : Nat) (e : EOps) (s : State) : Res Target :=
  if e.cmpl then
    (rd cl ctx e.d s).bind (fun x s =>
      (faultIf (decide (x.toNat % 8 ≠ 0)) Cause.seqAlign x.toNat s).bind (fun _ s =>
        (sqAddress cl x.toNat 8 true s).bind (fun p s => .ok (.sem p.1) s)))
  else
    let h := e.handle.toNat
    if (s.cluster cl).handleUsed h && (s.cluster cl).handleCmpl h then .ok (.handle h) s
    else .trap (trapOf Cause.seqChan (BitVec.ofNat 64 h))

/-- A `cp.mx` whose copy has landed and whose follow-on waits for a place in the MX queue (R195). -/
def Run.landed (r : Run) : Bool := r.cmd.cls == 2 && r.cmd.sub == 1 && r.aux == 2

/-- A queue takes a command that a sequencer or a port offers. -/
def Cluster.offers (c : Cluster) (q : Nat) : Bool :=
  decide ((c.queue q).length < Config.queueDepth) && !(q == 3 && c.running.any Run.landed)

/-- A command enters the queue of its class, or the firing blocks. -/
def issueCmd (cls sub : Nat) (e : EOps) (s : State) : Host.Outcome State Fault Refusal :=
  instr 8 (fun cl ctx s =>
    (rd cl ctx e.a s).bind (fun a s => (rd cl ctx e.b s).bind (fun b s => (rd cl ctx e.c s).bind (fun c s =>
      (targetOf cl ctx e s).bind (fun t s =>
        let q := queueOf cls
        if (s.cluster cl).offers q then
          let (id, s1) := s.fresh
          .ok .seq (s1.modCluster cl (fun k => k.setQueue q (k.queue q ++
            [{ id := id, cls := cls, sub := sub, cs := e.cs.toNat, a := a, b := b, c := c, tag := e.tag.toNat, target := t,
               parent := none, after := s.unseen cl ctx }])))
        else .stall))))) s

def execStrM2s (e : EOps) (s : State) := issueCmd 0 0 e s
def execStrS2p (e : EOps) (s : State) := issueCmd 0 1 e s
def execStrM2p (e : EOps) (s : State) := issueCmd 0 2 e s
def execStrP2m (e : EOps) (s : State) := issueCmd 0 3 e s
def execStrP2s (e : EOps) (s : State) := issueCmd 0 4 e s
def execStrS2m (e : EOps) (s : State) := issueCmd 0 5 e s
def execStrM2pBm (e : EOps) (s : State) := issueCmd 0 6 e s
def execStrP2mBm (e : EOps) (s : State) := issueCmd 0 7 e s
def execStrInd (e : EOps) (s : State) := issueCmd 0 8 e s
def execStrSct (e : EOps) (s : State) := issueCmd 0 9 e s
def execStrCst (e : EOps) (s : State) := issueCmd 0 10 e s
def execStrRec (e : EOps) (s : State) := issueCmd 0 11 e s
def execSbarSr (e : EOps) (s : State) := issueCmd 1 0 e s
def execSbarSw (e : EOps) (s : State) := issueCmd 1 1 e s
def execSbarM (e : EOps) (s : State) := issueCmd 1 2 e s
def execSbarAll (e : EOps) (s : State) := issueCmd 1 3 e s
def execCp (e : EOps) (s : State) := issueCmd 2 0 e s
def execCpMx (e : EOps) (s : State) := issueCmd 2 1 e s
def execCpS (e : EOps) (s : State) := issueCmd 2 2 e s
def execMxLd (e : EOps) (s : State) := issueCmd 3 0 e s
def execMxMmaBf16 (e : EOps) (s : State) := issueCmd 3 1 e s
def execMxMmaF16 (e : EOps) (s : State) := issueCmd 3 2 e s
def execMxMmaE4m3 (e : EOps) (s : State) := issueCmd 3 3 e s
def execMxMmaE5m2 (e : EOps) (s : State) := issueCmd 3 4 e s
def execMxMmaE2m1 (e : EOps) (s : State) := issueCmd 3 5 e s
def execMxMmaI8 (e : EOps) (s : State) := issueCmd 3 6 e s
def execMxMmaI16 (e : EOps) (s : State) := issueCmd 3 7 e s
def execMxSt (e : EOps) (s : State) := issueCmd 3 8 e s
def execMxZero (e : EOps) (s : State) := issueCmd 3 9 e s
def execCoA2a (e : EOps) (s : State) := issueCmd 4 0 e s
def execCoAg (e : EOps) (s : State) := issueCmd 4 1 e s
def execCoRs (e : EOps) (s : State) := issueCmd 4 2 e s
def execCoAr (e : EOps) (s : State) := issueCmd 4 3 e s
def execCoPut (e : EOps) (s : State) := issueCmd 4 4 e s
def execCoGet (e : EOps) (s : State) := issueCmd 4 5 e s
def execCoSig (e : EOps) (s : State) := issueCmd 4 6 e s
def execDxInflate (e : EOps) (s : State) := issueCmd 5 0 e s
def execDxZstd (e : EOps) (s : State) := issueCmd 5 1 e s
def execDxLz4 (e : EOps) (s : State) := issueCmd 5 2 e s
def execStoRd (e : EOps) (s : State) := issueCmd 5 3 e s

/-! ## Groups of stream commands (R192) -/

/-- Reads scratchpad; `str.rec` by the SPACE of its generator. -/
def Cmd.spadReader (c : Cluster) (x : Cmd) : Bool :=
  x.cls == 0 && (x.sub == 1 || x.sub == 5 || (x.sub == 11 && !c.agSpace x.gen))
/-- Writes scratchpad. -/
def Cmd.spadWriter (x : Cmd) : Bool := x.cls == 0 && (x.sub == 0 || x.sub == 4 || (x.sub == 10 && bitAt x.cs 0))
/-- Reads or writes memory. -/
def Cmd.memory (c : Cluster) (x : Cmd) : Bool :=
  x.cls == 0 && ([0, 2, 3, 5, 6, 7, 8, 9].contains x.sub || (x.sub == 10 && !bitAt x.cs 0) || (x.sub == 11 && c.agSpace x.gen))

/-- The earlier commands a barrier waits for. -/
def Cmd.awaited (c : Cluster) (bar x : Cmd) : Bool :=
  match bar.sub with
  | 0 => x.spadReader c
  | 1 => x.spadWriter
  | 2 => x.memory c
  | _ => x.cls == 0

/-- The later commands a barrier holds. -/
def Cmd.heldBy (c : Cluster) (bar x : Cmd) : Bool :=
  match bar.sub with
  | 0 => x.spadWriter
  | 1 => x.spadReader c || x.spadWriter
  | 2 => x.memory c
  | _ => x.cls == 0

end Sys2Proof.Machine
end

