-- ==== Sys2Proof/Machine/Special.lean ====
section
/-! DEFINITION. The special functions of stage 4 (R109), correctly rounded. An irrational value is taken to 400 binary places,
and the last place is odd, so that it never falls on a boundary of R28 or R29. -/

namespace Sys2Proof.Machine

/-! ## Fixed-point values: n stands for n / 2^400 -/

def fxBits : Nat := 400
def fxOne : Nat := 2 ^ fxBits

/-- floor (√n), bit by bit from bit k − 1 down, r the bits found so far. -/
def isqrtFrom : Nat → Nat → Nat → Nat
  | 0, _, r => r
  | k + 1, n, r => let t := r + 2 ^ k; isqrtFrom k n (if t * t ≤ n then t else r)

/-- floor (√n). DEDUCED (log entry 35). -/
def isqrt (n : Nat) : Nat := isqrtFrom (Nat.log2 n / 2 + 1) n 0

/-- ln ((1 + y)/(1 − y)) by its odd series: the sum of y^(2k+1)/(2k+1), twice; t holds y^(2k+1) and y2 its square. -/
def lnSeries : Nat → Nat → Nat → Nat → Nat
  | 0, _, _, _ => 0
  | n + 1, k, t, y2 => 2 * t / (2 * k + 1) + lnSeries n (k + 1) (t * y2 / fxOne) y2

/-- ln (n/d) for 1 ≤ n/d ≤ 2. DEDUCED (log entry 35). -/
def lnFx (n d : Nat) : Nat :=
  let y := (n - d) * fxOne / (n + d)
  lnSeries 132 0 y (y * y / fxOne)

/-- ln 2. -/
def ln2Fx : Nat := lnFx 2 1

/-- e^x by its series, for 0 ≤ x < 1: t holds x^k / k!. -/
def expSeries : Nat → Nat → Nat → Nat → Nat
  | 0, _, _, _ => 0
  | n + 1, k, t, x => t + expSeries n (k + 1) (t * x / fxOne / (k + 1)) x

def expFx (x : Nat) : Nat := expSeries 90 0 fxOne x

/-- A positive fraction with an odd last place. -/
def sticky (n : Nat) : Nat := 2 * n + 1

/-! ## Values -/

/-- e^x for a non-negative fixed-point x, as a fraction. -/
def expRat (x : Nat) : Nat × Nat :=
  let k := x / ln2Fx
  (sticky (expFx (x - k * ln2Fx)) * 2 ^ k, 2 * fxOne)

/-- The magnitude of m·2^e as a fixed-point number, cut to 2^200. -/
def fxOf (m : Nat) (e : Int) : Nat :=
  let k : Int := e + (fxBits : Int)
  let v := if 0 ≤ k then m * 2 ^ (Nat.min k.toNat 700) else m / 2 ^ (-k).toNat
  Nat.min v (fxOne * 2 ^ 200)

/-- A fraction far below and unequal to any rounding boundary above 0. -/
def tinyRat : Nat × Nat := (1, 2 ^ 300)

/-- 2^a for a = ±m·2^e: exact when a is whole. -/
def exp2Rat (neg : Bool) (m : Nat) (e : Int) : Nat × Nat :=
  let a := fxOf m e
  if fxOne * 200 ≤ a then (if neg then tinyRat else (2 ^ 200, 1))
  else
    let k := a / fxOne
    let f := a - k * fxOne
    let whole := decide (f = 0) && decide (0 ≤ e ∨ m % 2 ^ (-e).toNat = 0)
    if !neg then
      if whole then (2 ^ k, 1) else (sticky (expFx (f * ln2Fx / fxOne)) * 2 ^ k, 2 * fxOne)
    else if whole then (1, 2 ^ k)
    else (sticky (expFx ((fxOne - f) * ln2Fx / fxOne)), 2 * fxOne * 2 ^ (k + 1))

/-- The sign and the magnitude of log2 of m·2^e. -/
def log2Rat (m : Nat) (e : Int) : Bool × Nat × Nat :=
  let b := Nat.log2 m
  let w : Int := e + (b : Int)
  if m = 2 ^ b then (decide (w < 0), w.natAbs, 1)
  else
    let x : Int := w * (fxOne : Int) + ((lnFx m (2 ^ b) * fxOne / ln2Fx : Nat) : Int)
    (decide (x < 0), sticky x.natAbs, 2 * fxOne)

/-- tanh of a positive m·2^e. -/
def tanhRat (m : Nat) (e : Int) : Nat × Nat :=
  if e + (Nat.log2 m : Int) < -40 then
    -- just below a: no boundary lies between a − a³/3 and a
    let (n, d) := scaled m 1 (-e)
    (n * (2 ^ 100 - 1), d * 2 ^ 100)
  else
    let a := fxOf m e
    if fxOne * 100 ≤ a then (2 ^ 200 - 1, 2 ^ 200)
    else let (n, d) := expRat (2 * a)
      (n - d, n + d)

/-- 1/(1 + e^(−a)) for a = ±m·2^e. -/
def sigmRat (neg : Bool) (m : Nat) (e : Int) : Nat × Nat :=
  let a := fxOf m e
  if fxOne * 190 ≤ a then (if neg then tinyRat else (2 ^ 200 - 1, 2 ^ 200))
  else
    let (n, d) := if a = 0 then (sticky fxOne, 2 * fxOne) else expRat a
    if neg then (d, n + d) else (n, n + d)

/-- √(n/d) by 2^200, with an exactness test. -/
def sqrtRat (n d : Nat) : Nat × Nat :=
  let v := n * 2 ^ 400 / d
  let r := isqrt v
  if r * r * d = n * 2 ^ 400 then (r, 2 ^ 200) else (sticky r, 2 ^ 201)

/-! ## The operations (Table 6.2) -/

/-- Opcodes $17 to $1D on an FP32 encoding. -/
def special (op : Nat) (mode : Mode) (u a : Nat) : Rounded :=
  let f := Fmt.f32
  let out := fun (neg : Bool) (q : Nat × Nat) => roundRat f mode u neg q.1 q.2
  let one := 0x3F800000
  let half := 0x3F000000
  let invalid := nanOf f true
  match f.read a with
  | .nan s => nanOf f s
  | .inf neg =>
    match op with
    | 0x17 => plain (if neg then 0 else f.infinity false)
    | 0x18 => if neg then invalid else plain (f.infinity false)
    | 0x19 => plain (f.signed neg 0)
    | 0x1A => if neg then invalid else plain 0
    | 0x1B => if neg then invalid else plain (f.infinity false)
    | 0x1C => plain (f.signed neg one)
    | _ => plain (if neg then 0 else one)
  | .fin neg m e =>
    if m = 0 then
      match op with
      | 0x17 => plain one
      | 0x18 => { bits := f.infinity true, flags := Flag.dz }
      | 0x19 => { bits := f.infinity neg, flags := Flag.dz }
      | 0x1A => { bits := f.infinity neg, flags := Flag.dz }
      | 0x1B => plain (f.signed neg 0)
      | 0x1C => plain (f.signed neg 0)
      | _ => plain half
    else
      match op with
      | 0x17 => out false (exp2Rat neg m e)
      | 0x18 =>
        if neg then invalid
        else let (sn, n, d) := log2Rat m e
          if n = 0 then plain 0 else out sn (n, d)
      | 0x19 => let (n, d) := scaled 1 m e
        out neg (n, d)
      | 0x1A => if neg then invalid else let (n, d) := scaled 1 m e
        out false (sqrtRat n d)
      | 0x1B => if neg then invalid else let (n, d) := scaled m 1 (-e)
        out false (sqrtRat n d)
      | 0x1C => out neg (tanhRat m e)
      | _ => out false (sigmRat neg m e)

end Sys2Proof.Machine
end

