-- ==== Sys2Proof/Machine/StageFloat.lean ====
section
/-! DEFINITION. The floating-point and conversion stage operations, lane by lane (R102 to R110, R115 to R118). A lane is the
number of its 32 bits; u 0 and u 1 are the stochastic draws of its subwords (R29). -/

namespace Sys2Proof.Machine

/-- The result of a lane, and the flags of each of its subwords. -/
structure LaneOut where
  bits : Nat
  flags : Nat → Flags

/-- A result of one element in subword 0. -/
def one (r : Rounded) : LaneOut := { bits := r.bits, flags := fun k => if k = 0 then r.flags else Flag.none }

/-- A value that raises nothing. -/
def quiet (v : Nat) : LaneOut := { bits := v, flags := fun _ => Flag.none }

/-- Two 16-bit results. -/
def pair16 (f : Nat → Rounded) : LaneOut :=
  { bits := (f 0).bits + 65536 * (f 1).bits, flags := fun k => if k ≤ 1 then (f k).flags else Flag.none }

/-- Subword k of 16 bits. -/
def half (v k : Nat) : Nat := bitsAt v (16 * k) 16

/-- a·b with a sign that subtraction turns: the exact forms of R102. -/
def ffms (f : Fmt) (m : Mode) (u : Nat) (x y z : FVal) (negP negZ : Bool) : Rounded :=
  ffma f m u (if negP then x.neg else x) y (if negZ then z.neg else z)

/-- `fcmp.f32` (R105). -/
def fcompare (cond a b : Nat) : Rounded :=
  let x := Fmt.f32.read a
  let y := Fmt.f32.read b
  let unord := x.isNan || y.isNan
  let r := match cond with
    | 0 => x.eq y
    | 1 => !x.eq y
    | 2 => x.less y
    | 3 => x.less y || x.eq y
    | 4 => y.less x
    | 5 => y.less x || x.eq y
    | 6 => unord
    | _ => !unord
  { bits := if r then 1 else 0, flags := flagIf (x.snan || y.snan) Flag.nv }

/-- `fclass` (R106). -/
def fclassify (a : Nat) : Nat :=
  match Fmt.f32.read a with
  | .nan s => if s then 2 ^ 8 else 2 ^ 9
  | .inf n => if n then 2 ^ 0 else 2 ^ 7
  | .fin n m _ =>
    if m = 0 then (if n then 2 ^ 3 else 2 ^ 4)
    else if m < 2 ^ 23 then (if n then 2 ^ 2 else 2 ^ 5)
    else (if n then 2 ^ 1 else 2 ^ 6)

/-- A change of sign of a number; a NaN gives the canonical NaN (R104). -/
def signOp (a : Nat) (f : Nat → Nat) : Rounded :=
  match Fmt.f32.read a with
  | .nan s => nanOf Fmt.f32 s
  | _ => plain (f a)

/-- Rounding to a whole number of w bits, signed (R32, R110). -/
def toInt (w : Nat) (mode u a : Nat) : Rounded :=
  let top : Int := 2 ^ (w - 1) - 1
  let bot : Int := -(2 ^ (w - 1))
  let enc := fun (n : Int) => (n % 2 ^ w).toNat
  match Fmt.f32.read a with
  | .nan _ => { bits := 0, flags := Flag.nv }
  | .inf neg => { bits := enc (if neg then bot else top), flags := Flag.nv ||| Flag.ix }
  | .fin neg m e =>
    let (n, d) := scaled m 1 (-e)
    let k : Int := roundNat (Mode.rounding mode) neg u n d
    let v := if neg then -k else k
    let c := if v < bot then bot else if top < v then top else v
    { bits := enc c, flags := flagIf (c != v) Flag.nv ||| flagIf (c != v || n % d != 0) Flag.ix }

/-- A whole number to FP32. -/
def ofInt (mode u : Nat) (v : Int) : Rounded := roundDyad Fmt.f32 mode u false { n := v, e := 0 }

/-! ## Block scales (R20, R115 to R117) -/

/-- The value of an E3M5 encoding as n/256 (R20); $FF is no number. -/
def scaleE3m5 (s : Nat) : Nat :=
  let e := bitsAt s 5 3
  let m := bitsAt s 0 5
  if e = 0 then m else (32 + m) * 2 ^ (e - 1)

/-- The smallest encoding whose value is not below n/d, at most 15.5. -/
def ruE3m5 (n d : Nat) : Nat := ((List.range 255).find? (fun s => decide (n * 256 ≤ scaleE3m5 s * d))).getD 0xFE

/-- A BF16 value, positive and finite, as a fraction. -/
def positive (b : Nat) : Option (Nat × Nat) :=
  match Fmt.bf16.read b with
  | .fin false m e => if m = 0 then none else some (scaled m 1 (-e))
  | _ => none

/-- `qscale` (R115). -/
def qscale (tgt a c : Nat) : Rounded :=
  let q := if tgt = 0 then 6 else 448
  match Fmt.f32.read a with
  | .fin neg m e =>
    if m = 0 then plain 0
    else match positive (half c 0) with
    | none => { bits := 0xFF, flags := Flag.nv }
    | some (bn, bd) =>
      let (an, ad) := scaled m 1 (-e)
      let n := an * bd
      let d := ad * bn * q
      if neg then { bits := 1, flags := Flag.uf }
      else if 31 * d < 2 * n then { bits := 0xFE, flags := Flag.of }
      else if 256 * n < d then { bits := 1, flags := Flag.uf }
      else plain (ruE3m5 n d)
  | _ => { bits := 0xFF, flags := Flag.nv }

/-- The quantisers (R116): `fp8` selects E4M3. -/
def quantise (fp8 : Bool) (mode u a b c : Nat) : Rounded :=
  let s := bitsAt b 0 8
  let f := if fp8 then Fmt.e4m3 else Fmt.e2m1
  let x := Fmt.f32.read a
  if s = 0 ∨ s = 0xFF then plain 0
  else match positive (half c 0) with
  | none => { bits := 0, flags := Flag.nv }
  | some (bn, bd) =>
    match x with
    | .nan sn => if fp8 then nanOf f sn else { bits := 0, flags := Flag.nv }
    | .inf neg =>
      if !fp8 || Mode.sat mode then { bits := f.signed neg f.maxBits, flags := Flag.of } else { bits := f.qnan, flags := Flag.nv }
    | .fin neg m e =>
      if m = 0 then plain (f.signed neg 0)
      else
        let (n, d) := scaled m 1 (-e)
        roundRat f mode u neg (n * bd * 256) (d * bn * scaleE3m5 s)

/-- The dequantisers (R117). -/
def dequantise (fp8 : Bool) (dst mode u a b c : Nat) : Rounded :=
  let s := bitsAt b 0 8
  let f := if dst = 0 then Fmt.f32 else Fmt.bf16
  let q := if fp8 then Fmt.e4m3.read (bitsAt a 0 8) else Fmt.e2m1.read (bitsAt a 0 4)
  let band := Fmt.bf16.read (half c 0)
  if s = 0xFF ∨ band.isNan ∨ band.isInf ∨ q.isNan then plain f.qnan
  else
    let p := Dyad.mul (Dyad.mul q.value { n := (scaleE3m5 s : Nat), e := -8 }) band.value
    roundDyad f mode u (q.isNeg != band.isNeg) p

/-- `qef.e5m2` (R118): the value, or the new error; both roundings raise their flags whichever leaves. -/
def qef (out mode u a b : Nat) : Rounded :=
  let x := Fmt.f32.read a
  let y := Fmt.bf16.read (half b 0)
  let q := fadd Fmt.e5m2 mode u x y
  let r : Rounded := match x, y, Fmt.e5m2.read q.bits with
    | .fin n m e, .fin n' m' e', .fin qn qm qe =>
      roundDyad Fmt.bf16 Mode.rne 0 false (Dyad.add (Dyad.add (dyad n m e) (dyad n' m' e')) (dyad qn qm qe).neg)
    | _, _, _ => plain 0
  { bits := if out = 0 then q.bits else r.bits, flags := r.flags ||| q.flags }

/-! ## One lane -/

/-- The packed forms (R107): 16-bit format f, `mode k` and `u k` those of subword k. -/
def packed16 (f : Fmt) (op : Nat) (mode : Nat → Mode) (u : Nat → Nat) (a b c : Nat) : LaneOut :=
  pair16 (fun k =>
    let x := f.read (half a k)
    let y := f.read (half b k)
    match op with
    | 0 => fadd f (mode k) (u k) x y
    | 1 => fmul f (mode k) (u k) x y
    | 2 => ffma f (mode k) (u k) x y (f.read (half c k))
    | 3 => fminmax f false (half a k) (half b k)
    | _ => fminmax f true (half a k) (half b k))

/-- The dot forms (R108). -/
def fdot (f : Fmt) (mode : Mode) (u : Nat → Nat) (a b c : Nat) : LaneOut :=
  let x := fun v k => f.read (half v k)
  one (fsum Fmt.f32 mode (u 0) [(x a 0, x b 0), (x a 1, x b 1)] [Fmt.f32.read c])

/-- A lane of an operation of $01 to $1D; `md k` is the mode of subword k. -/
def floatLane (op par : Nat) (md : Nat → Mode) (u : Nat → Nat) (a b c : Nat) : LaneOut :=
  let f := Fmt.f32
  let mode := md 0
  let x := f.read a
  let y := f.read b
  let z := f.read c
  match op with
  | 0x01 => one (fadd f mode (u 0) x y)
  | 0x02 => one (fadd f mode (u 0) x y.neg)
  | 0x03 => one (fmul f mode (u 0) x y)
  | 0x04 => one (ffms f mode (u 0) x y z false false)
  | 0x05 => one (ffms f mode (u 0) x y z false true)
  | 0x06 => one (ffms f mode (u 0) x y z true false)
  | 0x07 => one (fminmax f false a b)
  | 0x08 => one (fminmax f true a b)
  | 0x09 => one (signOp a (fun v => v % 2 ^ 31))
  | 0x0A => one (signOp a (fun v => if v < 2 ^ 31 then v + 2 ^ 31 else v - 2 ^ 31))
  | 0x0B => one (fcompare (par % 8) a b)
  | 0x0C => quiet (fclassify a)
  | 0x0D => packed16 Fmt.bf16 0 md u a b c
  | 0x0E => packed16 Fmt.bf16 1 md u a b c
  | 0x0F => packed16 Fmt.bf16 2 md u a b c
  | 0x10 => packed16 Fmt.bf16 3 md u a b c
  | 0x11 => packed16 Fmt.bf16 4 md u a b c
  | 0x12 => packed16 Fmt.f16 0 md u a b c
  | 0x13 => packed16 Fmt.f16 1 md u a b c
  | 0x14 => packed16 Fmt.f16 2 md u a b c
  | 0x15 => fdot Fmt.bf16 mode u a b c
  | 0x16 => fdot Fmt.f16 mode u a b c
  | _ => one (special op mode (u 0) a)

/-- A lane of an operation of $C0 to $D3, block lag apart. -/
def convertLane (op par : Nat) (mode : Mode) (u : Nat → Nat) (a b c : Nat) : LaneOut :=
  match op with
  | 0xC0 => one (convert Fmt.f32 Mode.rne 0 (Fmt.bf16.read (half a 0)))
  | 0xC1 => one (convert Fmt.bf16 mode (u 0) (Fmt.f32.read a))
  | 0xC2 => one (convert Fmt.f32 Mode.rne 0 (Fmt.f16.read (half a 0)))
  | 0xC3 => one (convert Fmt.f16 mode (u 0) (Fmt.f32.read a))
  | 0xC4 => one (convert Fmt.e4m3 mode (u 0) (Fmt.f32.read a))
  | 0xC5 => one (convert Fmt.e5m2 mode (u 0) (Fmt.f32.read a))
  | 0xC6 => one (convert Fmt.f32 Mode.rne 0 (Fmt.e4m3.read (bitsAt a 0 8)))
  | 0xC7 => one (convert Fmt.f32 Mode.rne 0 (Fmt.e5m2.read (bitsAt a 0 8)))
  | 0xC8 => one (toInt 32 mode (u 0) a)
  | 0xC9 => one (ofInt mode (u 0) (asSigned a 32))
  | 0xCA => one (toInt 16 mode (u 0) a)
  | 0xCB => one (ofInt Mode.rne 0 (asSigned (half a 0) 16))
  | 0xCE => one (qscale (par % 2) a c)
  | 0xCF => one (quantise false Mode.rne (u 0) a b c)
  | 0xD0 => one (dequantise false (par % 2) mode (u 0) a b c)
  | 0xD1 => one (quantise true mode (u 0) a b c)
  | 0xD2 => one (dequantise true (par % 2) mode (u 0) a b c)
  | _ => one (qef (par % 2) mode (u 0) a b)

/-- The elements of a lane for which the operation rounds, so that each draws in SR mode (R29); s subwords carry an element. -/
def roundings (op s : Nat) : Nat :=
  if 0x0D ≤ op ∧ op ≤ 0x14 then Nat.min s 2 else 1

end Sys2Proof.Machine
end

