-- ==== Sys2Proof/Machine/StageInt.lean ====
section
/-! DEFINITION. The integer, pixel, logic and key stage operations, lane by lane (R119 to R124, R133, R136). -/

namespace Sys2Proof.Machine

/-- Subword k of w bits. -/
def subw (w v k : Nat) : Nat := bitsAt v (w * k) w

/-- Subword k of w bits, signed. -/
def subs (w v k : Nat) : Int := asSigned (subw w v k) w

/-- A lane from its subwords of w bits: each an exact integer, of which the low bits stay. -/
def wrapLane (w : Nat) (f : Nat → Int) : LaneOut :=
  quiet ((List.range (32 / w)).foldl (fun n k => n + (f k % (2 ^ w : Nat)).toNat * 2 ^ (w * k)) 0)

/-- A lane from subwords clamped to [lo, hi]; OF where the clamp changes one. -/
def satLane (w : Nat) (lo hi : Int) (f : Nat → Int) : LaneOut :=
  let clamp := fun (v : Int) => if v < lo then lo else if hi < v then hi else v
  { bits := (wrapLane w (fun k => clamp (f k))).bits,
    flags := fun k => if k < 32 / w then flagIf (clamp (f k) != f k) Flag.of else Flag.none }

def satI16 (f : Nat → Int) : LaneOut := satLane 16 (-32768) 32767 f
def satU8 (f : Nat → Int) : LaneOut := satLane 8 0 255 f

/-- The sum over the subwords of a lane. -/
def sumSub (n : Nat) (f : Nat → Int) : Int := (List.range n).foldl (fun t k => t + f k) 0

/-- A lane of an operation of Table 7.1, the pixel operations apart. -/
def intLane (op a b c : Nat) : LaneOut :=
  let i32 := fun v => asSigned v 32
  let u := fun (v : Nat) => (v : Int)
  let r32 := fun (v : Int) => wrapLane 32 (fun _ => v)
  let s16 := fun v k => subs 16 v k
  let u16 := fun v k => u (subw 16 v k)
  let u8 := fun v k => u (subw 8 v k)
  let s8 := fun v k => subs 8 v k
  match op with
  | 0x40 => r32 (i32 a + i32 b)
  | 0x41 => r32 (i32 a - i32 b)
  | 0x42 => r32 (i32 a * i32 b)
  | 0x43 => r32 (i32 a * i32 b + i32 c)
  | 0x44 => r32 (i32 a * i32 b / 4294967296)
  | 0x45 => r32 (if i32 b < i32 a then i32 b else i32 a)
  | 0x46 => r32 (if i32 a < i32 b then i32 b else i32 a)
  | 0x47 => quiet (Nat.min a b)
  | 0x48 => quiet (Nat.max a b)
  | 0x49 => r32 (if i32 a < 0 then -i32 a else i32 a)
  | 0x4A => wrapLane 16 (fun k => s16 a k + s16 b k)
  | 0x4B => satI16 (fun k => s16 a k + s16 b k)
  | 0x4C => satI16 (fun k => s16 a k - s16 b k)
  | 0x4D => wrapLane 16 (fun k => s16 a k * s16 b k)
  | 0x4E => wrapLane 16 (fun k => s16 a k * s16 b k + s16 c k)
  | 0x4F => satI16 (fun k => s16 a k * s16 b k + s16 c k)
  | 0x50 =>
    let v := fun k =>
      let m := if s16 a k < s16 b k then s16 b k else s16 a k
      if s16 c k < m then s16 c k else m
    { bits := (wrapLane 16 v).bits, flags := fun k => if k ≤ 1 then flagIf (v k != s16 a k) Flag.of else Flag.none }
  | 0x51 => wrapLane 16 (fun k => u (Nat.min (subw 16 a k) (subw 16 b k)))
  | 0x52 => wrapLane 16 (fun k => u (Nat.max (subw 16 a k) (subw 16 b k)))
  | 0x53 => wrapLane 8 (fun k => s8 a k + s8 b k)
  | 0x54 => satU8 (fun k => u8 a k + u8 b k)
  | 0x55 => satU8 (fun k => u8 a k - u8 b k)
  | 0x56 => wrapLane 8 (fun k => (u8 a k + u8 b k + 1) / 2)
  | 0x57 => r32 (i32 c + sumSub 4 (fun k => s8 a k * s8 b k))
  | 0x58 => r32 (i32 c + sumSub 4 (fun k => ((u8 a k - u8 b k).natAbs : Int)))
  | _ => r32 (i32 c + sumSub 2 (fun k => ((u16 a k - u16 b k).natAbs : Int)))

/-- Bits of a pixel of the pack and unpack forms. -/
def pixBits (op : Nat) : Nat := 10 + 2 * ((op - 0x5A) % 3)

/-- The two n-bit pixels of lane l of a beat in carrier form (R122). -/
def unpackPix (n beat l : Nat) : Nat := bitsAt beat (n * (2 * l)) n + 65536 * bitsAt beat (n * (2 * l + 1)) n

/-- Lane l of `unpk.pN` over a beat in carrier form (R122). -/
def unpackLane (op beat l : Nat) : Nat := unpackPix (pixBits op) beat l

/-- The carrier form of the elements of a beat (R122), and whether one of a live lane was cut: a lane whose predicate is false raises
no flag (R69). -/
def packBeat (op : Nat) (cells : List (Nat × Nat)) (live : Nat → Bool) (lanes : List Nat) : Nat × Bool :=
  let n := pixBits op
  let top := 2 ^ n - 1
  cells.foldl (fun acc x =>
    let v := half (lanes.getD x.1 0) x.2
    (acc.1 + Nat.min v top * 2 ^ (n * (2 * x.1 + x.2)), acc.2 || (live x.1 && decide (top < v)))) (0, false)

/-! ## Logic (R123, R124) -/

def u32 (v : Nat) : Nat := v % 4294967296
def not32 (v : Nat) : Nat := 4294967295 - u32 v

/-- Ones of a lane. -/
def popcount32 (v : Nat) : Nat := ((List.range 32).filter (fun k => bitAt v k)).length

/-- Leading zeros of a lane. -/
def clz32 (v : Nat) : Nat := if v = 0 then 32 else 31 - Nat.log2 v

/-- One byte of CRC-32C, reflected polynomial $82F6_3B78. -/
def crcByte (r b : Nat) : Nat :=
  (List.range 8).foldl (fun r _ => if r % 2 = 1 then (r / 2) ^^^ 0x82F63B78 else r / 2) (r ^^^ b)

/-- CRC-32C over the n low bytes of a value, lowest first. -/
def crcBytes : Nat → Nat → Nat → Nat
  | 0, r, _ => r
  | n + 1, r, v => crcBytes n (crcByte r (v % 256)) (v / 256)

/-- Bits [POS+LEN−1 : POS] as the word BF says (R124). -/
def bfxLane (par a : Nat) : Nat :=
  let len := bitsAt par 5 5 + 1
  let v := bitsAt a (bitsAt par 0 5) len
  if bitAt par 10 then (asSigned v len % 4294967296).toNat else v

def bfiLane (par a b : Nat) : Nat :=
  let pos := bitsAt par 0 5
  let len := bitsAt par 5 5 + 1
  u32 (a - bitsAt a pos len * 2 ^ pos + bitsAt b 0 len * 2 ^ pos)

/-- A lane of an operation of Table 7.2: lane number l, and the value n of the counter that CT names. On a value in carrier form (R122) the
operations, `sel` and a write mask act on the 32-bit lanes of the carrier string, whatever pixels lie there. DESIGN CHOICE (log entry 45). -/
def logicLane (op par l n a b c : Nat) : Nat :=
  let sh := b % 32
  let sxh := fun k => asSigned (half par k) 16
  let low := fun (v : Int) => (v % 4294967296).toNat
  match op with
  | 0x80 => a &&& b
  | 0x81 => a ||| b
  | 0x82 => a ^^^ b
  | 0x83 => a &&& not32 b
  | 0x84 => not32 a
  | 0x85 => u32 (a * 2 ^ sh)
  | 0x86 => a / 2 ^ sh
  | 0x87 => low (asSigned a 32 / (2 ^ sh : Nat))
  | 0x88 => u32 (a * 2 ^ sh) + a / 2 ^ (32 - sh)
  | 0x89 => if c % 2 = 1 then a else b
  | 0x8A => if a = b then 1 else 0
  | 0x8B => if asSigned a 32 < asSigned b 32 then 1 else 0
  | 0x8C => if a < b then 1 else 0
  | 0x8D => popcount32 a
  | 0x8E => clz32 a
  | 0x8F => bfxLane par a
  | 0x90 => bfiLane par a b
  | 0x91 => a
  | 0x92 => u32 par
  | 0x93 => low (sxh 0 + (l : Int) * sxh 1)
  | 0x94 => low ((n : Int) * sxh 1 + (a : Int))
  | _ => crcBytes 4 b a

/-! ## Keys and tags (R133, R136) -/

/-- The score of a key, and whether it is a number. -/
def keyScore (k : Nat) : FVal := Fmt.bf16.read (half k 1)

/-- Key x ranks above key y, or with it; `m` are the masked ids. -/
def ranksFirst (m : Nat → Bool) (x y : Nat) : Bool :=
  if m x && m y then true
  else if m x then false
  else if m y then true
  else
    let u := keyScore x
    let v := keyScore y
    if u.isNan && v.isNan then decide (half x 0 ≤ half y 0)
    else if u.isNan then false
    else if v.isNan then true
    else if v.less u then true
    else if u.less v then false
    else decide (half x 0 ≤ half y 0)

/-- Ids that a mask C ranks below every other key. -/
def maskedId (c k : Nat) : Bool := decide (half k 0 < 32) && bitAt c (half k 0)

/-- A lane of `cfwd`, `cfwd.mask`, `gate` or `seqtag`; the other flow nodes pass A. -/
def flowLane (op par l a b c : Nat) : Nat :=
  match op with
  | 0xE2 => if ranksFirst (fun _ => false) a b then a else b
  | 0xE3 => if ranksFirst (maskedId c) a b then a else b
  | 0xE6 => (convert Fmt.bf16 Mode.rne 0 (Fmt.f32.read a)).bits * 65536 + (half par 0 + l) % 65536
  | 0xE8 =>
    if l = bitsAt par 0 5 then b % 2147483648
    else if bitAt par 10 ∧ l = bitsAt par 5 5 then c else a
  | _ => a

end Sys2Proof.Machine
end

