-- ==== Sys2Proof/Machine/StageTable.lean ====
section
/-! DEFINITION. The stage operations as tables (R67 to R71, R83, R100, R101, R119 to R130): which stages take an opcode, what
it reads, its parameter word, its modes, and the order of its result (R55). -/

namespace Sys2Proof.Machine

/-- What an operation reads through a source. -/
inductive Arg where
  /-- not read: the source holds $0F -/
  | no
  /-- any type -/
  | any
  /-- a whole lane -/
  | lane
  /-- INT32 without a subword axis, along A's axes less their subword axes -/
  | mask
  /-- one of these types -/
  | ty (l : List Nat)
  deriving DecidableEq, Repr

/-- Parameter words. -/
inductive Par where
  | none | cmp | blk | bit0 | bf | word | ln | ct | rl | bc | pm | zp | st | mg | cn | bn | gt | sq
  deriving DecidableEq, Repr

/-- Mode rules of Table 6.1. -/
inductive ModeRule where
  | none | round | rne | free
  deriving DecidableEq, Repr

structure OpInfo where
  stages : List Nat
  a : Arg
  b : Arg
  c : Arg
  par : Par
  mode : ModeRule
  deriving DecidableEq, Repr

/-- An operation with mode %0000. -/
def op0 (st : List Nat) (a b c : Arg) (p : Par) : Option OpInfo := some { stages := st, a := a, b := b, c := c, par := p, mode := .none }
/-- An operation of a mode rule without a parameter word. -/
def opR (st : List Nat) (a b c : Arg) (m : ModeRule) : Option OpInfo := some { stages := st, a := a, b := b, c := c, par := .none, mode := m }

def f32T : Arg := .ty [0]
def bf16T : Arg := .ty [1]
def f16T : Arg := .ty [2]
def i32T : Arg := .ty [8]
def e3m5T : Arg := .ty [15]
def i16T : Arg := .ty [7]
def u16T : Arg := .ty [10]
def u8T : Arg := .ty [9]

/-- Floating-point and conversion operations (Table 6.1). -/
def opFloat (op : Nat) : Option OpInfo :=
  match op with
  | 0x01 => opR [2, 4] f32T f32T .no .round
  | 0x02 => opR [2, 4] f32T f32T .no .round
  | 0x03 => opR [3] f32T f32T .no .round
  | 0x04 => opR [3] f32T f32T f32T .round
  | 0x05 => opR [3] f32T f32T f32T .round
  | 0x06 => opR [3] f32T f32T f32T .round
  | 0x07 => op0 [2, 4] f32T f32T .no .none
  | 0x08 => op0 [2, 4] f32T f32T .no .none
  | 0x09 => op0 [2, 4] f32T .no .no .none
  | 0x0A => op0 [2, 4] f32T .no .no .none
  | 0x0B => op0 [2, 4] f32T f32T .no .cmp
  | 0x0C => op0 [2, 4] f32T .no .no .none
  | 0x0D => opR [3, 4] bf16T bf16T .no .round
  | 0x0E => opR [3] bf16T bf16T .no .round
  | 0x0F => opR [3] bf16T bf16T bf16T .round
  | 0x10 => op0 [3, 4] bf16T bf16T .no .none
  | 0x11 => op0 [3, 4] bf16T bf16T .no .none
  | 0x12 => opR [3, 4] f16T f16T .no .round
  | 0x13 => opR [3] f16T f16T .no .round
  | 0x14 => opR [3] f16T f16T f16T .round
  | 0x15 => opR [3] bf16T bf16T f32T .round
  | 0x16 => opR [3] f16T f16T f32T .round
  | 0xC0 => opR [1, 6] bf16T .no .no .none
  | 0xC1 => opR [1, 6] f32T .no .no .round
  | 0xC2 => opR [1, 6] f16T .no .no .none
  | 0xC3 => opR [1, 6] f32T .no .no .round
  | 0xC4 => opR [1, 6] f32T .no .no .round
  | 0xC5 => opR [1, 6] f32T .no .no .round
  | 0xC6 => opR [1, 6] (.ty [3]) .no .no .none
  | 0xC7 => opR [1, 6] (.ty [4]) .no .no .none
  | 0xC8 => opR [1, 6] f32T .no .no .free
  | 0xC9 => opR [1, 6] i32T .no .no .round
  | 0xCA => opR [1, 6] f32T .no .no .free
  | 0xCB => opR [1, 6] i16T .no .no .none
  | 0xCC => op0 [6] f32T .no .no .blk
  | 0xCD => op0 [6] .any .no .no .blk
  | 0xCE => op0 [1, 6] f32T .no bf16T .bit0
  | 0xCF => some { stages := [6], a := f32T, b := e3m5T, c := bf16T, par := .blk, mode := .rne }
  | 0xD0 => some { stages := [1, 6], a := .ty [5], b := e3m5T, c := bf16T, par := .bit0, mode := .round }
  | 0xD1 => some { stages := [6], a := f32T, b := e3m5T, c := bf16T, par := .blk, mode := .round }
  | 0xD2 => some { stages := [1, 6], a := .ty [3], b := e3m5T, c := bf16T, par := .bit0, mode := .round }
  | 0xD3 => some { stages := [6], a := f32T, b := bf16T, c := .no, par := .bit0, mode := .round }
  | _ => if 0x17 ≤ op ∧ op ≤ 0x1D then opR [4] f32T .no .no .round else none

/-- Integer and pixel operations (Table 7.1). -/
def opInt (op : Nat) : Option OpInfo :=
  match op with
  | 0x42 => op0 [3] i32T i32T .no .none
  | 0x43 => op0 [3] i32T i32T i32T .none
  | 0x44 => op0 [3] i32T i32T .no .none
  | 0x49 => op0 [2, 4] i32T .no .no .none
  | 0x4A => op0 [2, 4] (.ty [7, 10]) (.ty [7, 10]) .no .none
  | 0x4B => op0 [2, 4] i16T i16T .no .none
  | 0x4C => op0 [2, 4] i16T i16T .no .none
  | 0x4D => op0 [3] (.ty [7, 10]) (.ty [7, 10]) .no .none
  | 0x4E => op0 [3] (.ty [7, 10]) (.ty [7, 10]) (.ty [7, 10]) .none
  | 0x4F => op0 [3] i16T i16T i16T .none
  | 0x50 => op0 [2, 4] i16T i16T i16T .none
  | 0x51 => op0 [2, 4] u16T u16T .no .none
  | 0x52 => op0 [2, 4] u16T u16T .no .none
  | 0x53 => op0 [2, 4] (.ty [6, 9]) (.ty [6, 9]) .no .none
  | 0x54 => op0 [2, 4] u8T u8T .no .none
  | 0x55 => op0 [2, 4] u8T u8T .no .none
  | 0x56 => op0 [2, 4] u8T u8T .no .none
  | 0x57 => op0 [3] (.ty [6]) (.ty [6]) i32T .none
  | 0x58 => op0 [2, 4] u8T u8T i32T .none
  | 0x59 => op0 [2, 4] u16T u16T i32T .none
  | 0x5A => op0 [1] (.ty [12]) .no .no .none
  | 0x5B => op0 [1] (.ty [13]) .no .no .none
  | 0x5C => op0 [1] (.ty [14]) .no .no .none
  | 0x5D => op0 [6] u16T .no .no .none
  | 0x5E => op0 [6] u16T .no .no .none
  | 0x5F => op0 [6] u16T .no .no .none
  | _ => if op = 0x40 ∨ op = 0x41 ∨ (0x45 ≤ op ∧ op ≤ 0x48) then op0 [2, 4] i32T i32T .no .none else none

/-- Logic operations (Table 7.2). -/
def opLogic (op : Nat) : Option OpInfo :=
  match op with
  | 0x84 => op0 [2, 4] .any .no .no .none
  | 0x89 => op0 [1, 2, 4] .any .any .mask .none
  | 0x8D => op0 [2, 4] .lane .no .no .none
  | 0x8E => op0 [2, 4] .lane .no .no .none
  | 0x8F => op0 [2, 4] .lane .no .no .bf
  | 0x90 => op0 [2, 4] .any .any .no .bf
  | 0x91 => op0 [1, 2, 4] .any .no .no .none
  | 0x92 => op0 [1, 2, 4] .no .no .no .word
  | 0x93 => op0 [1, 2, 4] .no .no .no .ln
  | 0x94 => op0 [1, 2, 4] .any .no .no .ct
  | 0x95 => op0 [2, 4] .lane .lane .no .bit0
  | _ =>
    if 0x80 ≤ op ∧ op ≤ 0x83 then op0 [2, 4] .any .any .no .none
    else if (0x85 ≤ op ∧ op ≤ 0x88) ∨ (0x8A ≤ op ∧ op ≤ 0x8C) then op0 [2, 4] .lane .lane .no .none else none

/-- Lane operations (Table 7.3) and flow nodes (Table 7.4). -/
def opLane (op : Nat) : Option OpInfo :=
  match op with
  | 0xA0 => op0 [5] .any .no .no .pm
  | 0xA1 => op0 [5] .any .no .no .rl
  | 0xA2 => op0 [5] .any .no .no .bc
  | 0xA3 => op0 [5] f32T .no .no .bit0
  | 0xA4 => op0 [5] f32T .no .no .bit0
  | 0xA5 => op0 [5] f32T .no .no .bit0
  | 0xA6 => op0 [5] i32T .no .no .bit0
  | 0xA7 => op0 [5] f32T .no .no .none
  | 0xA8 => op0 [5] i32T .no .no .none
  | 0xA9 => op0 [5] .any .mask .no .none
  | 0xAA => op0 [5] .any .mask .no .none
  | 0xAB => op0 [5] .any .no .no .none
  | 0xAC => op0 [5] .any .any .no .zp
  | 0xAD => op0 [5] .any .no .no .bit0
  | 0xE0 => op0 [6] .any i32T .no .st
  | 0xE1 => op0 [6] .any .any .no .mg
  | 0xE2 => op0 [6] i32T i32T .no .none
  | 0xE3 => op0 [6] i32T i32T i32T .none
  | 0xE4 => op0 [6] .any .no .no .cn
  | 0xE5 => op0 [6] .any .no .no .bn
  | 0xE6 => op0 [6] f32T .no .no .gt
  | 0xE7 => op0 [6] .any i32T .no .none
  | 0xE8 => op0 [6] .any i32T f32T .sq
  -- R70 names `cmd` among the operations with a parameter word, and Table 7.4 gives that word no field: any word is taken and none is
  -- read. DEDUCED (log entry 18).
  | 0xE9 => op0 [6] .any i32T .no .word
  | _ => none

/-- An opcode of Table 4.7; none for one it does not assign. -/
def opInfo (op : Nat) : Option OpInfo :=
  if op = 0 then op0 [1, 2, 3, 4, 5, 6] .any .no .no .none
  else if op < 0x40 then opFloat op
  else if op < 0x80 then opInt op
  else if op < 0xA0 then opLogic op
  else if op < 0xC0 then opLane op
  else if op < 0xE0 then opFloat op
  else opLane op

/-- A mode that the rule takes (R27). -/
def ModeRule.ok (r : ModeRule) (m : Nat) : Bool :=
  match r with
  | .none => m == 0
  | .round => decide (m % 8 ≤ 4)
  | .rne => m % 8 == 0
  | .free => decide (m % 8 ≤ 4)

/-- A parameter word whose reserved bits are zero and whose fields are legal (R100). -/
def parOk (op : Nat) (p : Par) (v : Nat) : Bool :=
  let below := fun n => decide (v < 2 ^ n)
  match p with
  | .none => true
  | .word => true
  | .ln => true
  | .cmp => below 3
  | .blk => below 2 && v != 0
  | .bit0 => below 1
  | .bf => below 11 && decide (bitsAt v 0 5 + bitsAt v 5 5 + 1 ≤ 32) && !(op == 0x90 && bitAt v 10)
  | .ct => bitsAt v 2 14 == 0
  | .rl => below 6
  | .bc => below 5
  | .pm => below 18
  | .zp => decide (v ≤ 5)
  | .st => below 9 && bitsAt v 5 3 == 0
  | .mg => below 12 && bitsAt v 0 5 != bitsAt v 5 5
  | .cn => below 5
  | .bn => below 3
  | .gt => below 16
  | .sq => below 11 && !(bitAt v 10 && bitsAt v 0 5 == bitsAt v 5 5)

/-! ## Orders of results (R55) -/

/-- The axes of an order without those of a placement; one lane axis of extent 1 when none remains. -/
def Order.without (o : Order) (p : Place) : Order :=
  match o.axes.filter (fun a => a.place != p) with
  | [] => { o with axes := [{ ext := 1, place := .lane, dim := (o.axes.map (·.dim)).headD 0 }] }
  | as => { o with axes := as }

/-- The same axes. -/
def Order.sameAxes (o p : Order) : Bool := o.axes == p.axes && o.rag == p.rag

/-- Each lane axis named once by the slots of PM, in the sequence of the output (R126). -/
def permAxes (o : Order) (pm : Nat) : Option (List Axis) :=
  let n := (o.axes.filter (fun a => a.place == .lane)).length
  let slots := (List.range n).map (fun k => bitsAt pm (3 * k) 3)
  let named := slots.map (fun i => o.axes[i]?)
  if (List.range 6).all (fun k => decide (k < n) || bitsAt pm (3 * k) 3 == 7) && slots.Nodup
      && named.all (fun a => match a with | some x => x.place == .lane | none => false)
  then some (named.filterMap id) else none

/-- An order whose subwords fit its type. -/
def fits (o : Order) : Except Cause (Option Order) := if o.s ≤ tyPack o.ty then .ok (some o) else .error Cause.ordCover

/-- A lane that the descriptor of the data names as an element's, where a tag or a weight in use stands (R130). -/
def tagClash (op par : Nat) (o : Order) : Bool :=
  (op == 0xE1 && decide (bitsAt par 0 5 < o.l ∨ bitsAt par 5 5 < o.l))
    || (op == 0xE8 && decide (bitsAt par 0 5 < o.l ∨ (bitAt par 10 ∧ bitsAt par 5 5 < o.l)))

/-- The order of an operation's result over the order its operands share. -/
def resultOver (op par : Nat) (o : Order) : Except Cause (Option Order) :=
  let cover : Except Cause (Option Order) := .error Cause.ordCover
  match op with
  | 0x0B => .ok (some (o.withTy 8))
  | 0x0C => .ok (some (o.withTy 8))
  | 0x5A => fits (o.withTy 10)
  | 0x5B => fits (o.withTy 10)
  | 0x5C => fits (o.withTy 10)
  | 0x5D => fits (o.withTy 12)
  | 0x5E => fits (o.withTy 13)
  | 0x5F => fits (o.withTy 14)
  | 0x95 => .ok (some (o.withTy 8))
  | 0xA0 => match permAxes o par with
    | some as => .ok (some { o with axes := o.axes.filter (fun a => a.place == .sub) ++ as ++ o.axes.filter (fun a => a.place == .beat) })
    | none => cover
  | 0xAB => .ok (some ((o.without .sub).withTy 8))
  | 0xAC =>
    let subs := o.axes.filter (fun a => a.place == .sub)
    if 2 * o.s ≤ tyPack o.ty ∧ o.axes.length < 6 then
      .ok (some { o with axes := subs ++ [{ ext := 2, place := .sub, dim := par % 8 }] ++ o.axes.filter (fun a => a.place != .sub) })
    else cover
  | 0xAD =>
    let subs := o.axes.filter (fun a => a.place == .sub)
    match subs.getLast? with
    | some x => if x.ext = 2 then
        match subs.dropLast ++ o.axes.filter (fun a => a.place != .sub) with
        | [] => .ok (some { o with axes := [{ ext := 1, place := .lane, dim := x.dim }] })
        | as => .ok (some { o with axes := as })
      else cover
    | none => cover
  | 0xC0 => fits (o.withTy 0)
  | 0xC1 => fits (o.withTy 1)
  | 0xC2 => fits (o.withTy 0)
  | 0xC3 => fits (o.withTy 2)
  | 0xC4 => fits (o.withTy 3)
  | 0xC5 => fits (o.withTy 4)
  | 0xC6 => fits (o.withTy 0)
  | 0xC7 => fits (o.withTy 0)
  | 0xC8 => fits (o.withTy 8)
  | 0xC9 => fits (o.withTy 0)
  | 0xCA => fits (o.withTy 7)
  | 0xCB => fits (o.withTy 0)
  | 0xCE => fits (o.withTy 15)
  | 0xCF => fits (o.withTy 5)
  | 0xD0 => fits (o.withTy (par % 2))
  | 0xD1 => fits (o.withTy 3)
  | 0xD2 => fits (o.withTy (par % 2))
  | 0xD3 => fits (o.withTy (if par % 2 = 0 then 4 else 1))
  | 0xE1 =>
    if tagClash op par o then cover
    else if bitAt par 10 ∧ o.ty ≠ 0 then .error Cause.ordType else .ok (some o)
  | 0xE6 => .ok (some (o.withTy 8))
  | 0xE8 => if tagClash op par o then cover else .ok (some o)
  | _ =>
    if 0xA3 ≤ op ∧ op ≤ 0xA6 then .ok (some (if par % 2 = 0 then o.without .lane else o))
    else if (0x85 ≤ op ∧ op ≤ 0x88) ∨ (0x8A ≤ op ∧ op ≤ 0x8F) then .ok (some (o.withTy 8))
    else .ok (some o)

/-- The subword extent that a reducing form asks for (R108, R121), and the type of its result. -/
def reducing (op : Nat) : Option (Nat × Nat) :=
  match op with
  | 0x15 => some (2, 0)
  | 0x16 => some (2, 0)
  | 0x57 => some (4, 8)
  | 0x58 => some (4, 8)
  | 0x59 => some (2, 8)
  | _ => none

/-- The type faults of one operand. An operand of a reducing form with a wrong TYPE is refused with ORD.TYPE, as R100 has it, and not with
R121's ORD.COVER. DESIGN CHOICE (log entry 45). `compress` and `expand` refuse any other order of their mask with ORD.COVER (R128). -/
def argFault (op : Nat) (x : Arg × Option Order) : Option Cause :=
  match x with
  | (.ty l, some o) => if l.contains o.ty then none else some Cause.ordType
  | (.mask, some o) => if o.ty ≠ 8 then some (if op = 0x89 then Cause.ordType else Cause.ordCover) else if 1 < o.s then some Cause.ordCover else none
  | (.lane, some o) => if 1 < o.s then some Cause.ordCover else none
  | _ => none

/-- Two operands that must share a type do not. -/
def typesClash (x y : Arg × Option Order) : Bool :=
  match x, y with
  | (p, some o), (q, some r) => p == q && p != .lane && o.ty != r.ty
  | _, _ => false

/-- Operations whose order needs that of A: an A without one is refused with ORD.COVER, since no P and no lane axis is given. DESIGN CHOICE:
R119 lets orderless sources give orderless results (log entry 45). -/
def needsA (op : Nat) : Bool := op == 0xA0 || (decide (0xA9 ≤ op) && decide (op ≤ 0xAD))

/-- The order has one subword axis, of extent n (R108, R121). -/
def Order.oneSub (o : Order) (n : Nat) : Bool :=
  match o.axes.filter (fun a => a.place == .sub) with
  | [a] => a.ext == n
  | _ => false

/-- The order of a result (R55), from the orders of the values that its sources name. Operands of any type whose types differ are
refused with ORD.TYPE, which Table 3.4 puts before ORD.COVER. DEDUCED (log entry 18). Where A and B carry no order and C does, a `sel` takes
C's order, TYPE 8 with it, and a reducing form C's order with the type of its result. DESIGN CHOICE (log entry 45). -/
def resultOrder (op par : Nat) (a b c : Option Order) : Except Cause (Option Order) :=
  match opInfo op with
  | none => .ok none
  | some i =>
    let args := [(i.a, if i.a = .no then none else a), (i.b, if i.b = .no then none else b), (i.c, if i.c = .no then none else c)]
    let x := args.getD 0 (.no, none)
    let y := args.getD 1 (.no, none)
    let z := args.getD 2 (.no, none)
    match args.filterMap (argFault op) with
    | f :: _ => .error f
    | [] =>
      if typesClash x y || typesClash x z || typesClash y z then .error (if op = 0xAC then Cause.ordCover else Cause.ordType)
      else if needsA op && x.2.isNone then .error Cause.ordCover
      else match reducing op with
      | some (n, ty) =>
        let pair := x.2.orElse (fun _ => y.2)
        match pair with
        | none => .ok (z.2.map (fun o => o.withTy ty))
        | some o =>
          let flat := (o.without .sub).withTy ty
          let ok := o.oneSub n && (y.2.all (fun r => r.sameAxes o)) && (z.2.all (fun r => r.sameAxes flat))
          if ok then .ok (some flat) else .error Cause.ordCover
      | none =>
        let main := (args.filter (fun p => p.1 != .mask)).filterMap (·.2)
        let masks := (args.filter (fun p => p.1 == .mask)).filterMap (·.2)
        match main ++ masks with
        | [] => .ok none
        | o :: _ =>
          if main.all (fun r => r.sameAxes o) && masks.all (fun r => r.sameAxes (o.without .sub) || main.isEmpty) then resultOver op par o
          else .error Cause.ordCover

end Sys2Proof.Machine
end

