-- ==== Sys2Proof/Machine/StageLane.lean ====
section
/-! DEFINITION. The lane operations of stage 5 (R39, R125 to R129) and the block maximum (R111, R113), over the lanes of a beat. -/

namespace Sys2Proof.Machine

/-- Lanes and subwords that carry an element: L, S; all of them without an order (R331). -/
def lanesOf (o : Option Order) : Nat := (o.map Order.l).getD 32
def subsOf (o : Option Order) : Nat := (o.map Order.s).getD 8
def typeOf (o : Option Order) : Nat := (o.map (·.ty)).getD 8

/-- Lane l of a list. -/
def laneAt (v : List Nat) (l : Nat) : Nat := v.getD l 0

/-- Lanes computed one by one. -/
def perLane (f : Nat → Nat) : List Nat := (List.range 32).map f

/-- A lane cut to its first s subwords of a type; zero at or beyond lane n. -/
def elemsOnly (o : Option Order) (v : List Nat) : List Nat :=
  perLane (fun l => if l < lanesOf o then laneAt v l % 2 ^ Nat.min 32 (subsOf o * tyWidth (typeOf o)) else 0)

/-- What a lane that does not count reads as in a reduction or a scan (R39). -/
def identityOf (op : Nat) : Nat :=
  match op with
  | 0xA3 => 0x80000000
  | 0xA4 => 0xFF800000
  | 0xA5 => 0x7F800000
  | 0xA7 => 0x80000000
  | _ => 0

/-- One node of a reduction or a scan. -/
def combineNode (op x y : Nat) : Rounded :=
  match op with
  | 0xA4 => fminmax Fmt.f32 true x y
  | 0xA5 => fminmax Fmt.f32 false x y
  | 0xA6 => plain (u32 (x + y))
  | 0xA8 => plain (u32 (x + y))
  | _ => fadd Fmt.f32 Mode.rne 0 (Fmt.f32.read x) (Fmt.f32.read y)

/-- One level of the pairwise tree. -/
def treeLevel (op : Nat) : List Nat → List Nat × Flags
  | x :: y :: r =>
    let n := combineNode op x y
    let (r', f) := treeLevel op r
    (n.bits :: r', n.flags ||| f)
  | r => (r, Flag.none)

/-- n levels of the tree. -/
def tree (op : Nat) : Nat → List Nat → Flags → Nat × Flags
  | 0, v, f => (v.headD 0, f)
  | n + 1, v, f => let (v', g) := treeLevel op v; tree op n v' (f ||| g)

/-- An inclusive scan in lane order (R39), from lane l on; a step raises flags in a lane that `live` counts alone (R69, R331). Lane 0 is
copied as it is, a NaN with its payload, and raises none of its own: R39 has y0 = x0, beside R22's canonical NaN results. DESIGN CHOICE (log
entry 45). -/
def scanFrom (op : Nat) (live : Nat → Bool) : Nat → Nat → List Nat → Flags → List Nat × Flags
  | _, _, [], f => ([], f)
  | l, acc, x :: r, f =>
    let n := combineNode op acc x
    let (r', g) := scanFrom op live (l + 1) n.bits r (if live l then f ||| n.flags else f)
    (n.bits :: r', g)

def scan (op : Nat) (live : Nat → Bool) : List Nat → List Nat × Flags
  | [] => ([], Flag.none)
  | x :: r => let (r', f) := scanFrom op live 1 x r Flag.none; (x :: r', f)

/-- The positions of a beat, in increasing sequence (R128). -/
def positions (o : Option Order) : List (Nat × Nat) :=
  (List.range (lanesOf o)).flatMap (fun l => (List.range (subsOf o)).map (fun s => (l, s)))

/-- The element at a position. -/
def elemAt (o : Option Order) (v : List Nat) (p : Nat × Nat) : Nat := subw (tyWidth (typeOf o)) (laneAt v p.1) p.2

/-- Lanes from elements at positions. -/
def placeElems (o : Option Order) (es : List ((Nat × Nat) × Nat)) : List Nat :=
  perLane (fun l => (es.filter (fun e => e.1.1 == l)).foldl (fun n e => n + e.2 * 2 ^ (tyWidth (typeOf o) * e.1.2)) 0)

/-- An element is zero: ±0 of a floating-point type, 0 of the others (R128). -/
def laneZero (ty v : Nat) : Bool := if ty ≤ 5 then v % 2 ^ (tyWidth ty - 1) == 0 else v == 0

/-- Lanes in the sequence PM names (R126). -/
def permLanes (o : Option Order) (par : Nat) (a : List Nat) : List Nat :=
  match o with
  | none => a
  | some ord =>
    match permAxes ord par with
    | none => a
    | some as =>
      let out : Order := { ord with axes := ord.axes.filter (fun x => x.place == .sub) ++ as ++ ord.axes.filter (fun x => x.place == .beat) }
      -- the element of A in lane k goes to the lane that the output order gives it
      let dest := (List.range ord.l).map (fun k => (posFrom out.axes (ord.coords 0 k 0) 1 1 1 { t := 0, l := 0, s := 0 }).l)
      perLane (fun l => match dest.findIdx? (· == l) with
        | some k => laneAt a k
        | none => 0)

/-- A lane operation over the lanes of A and B, elements in their lanes: `count` says which lanes a reduction or a scan counts, and `live`
those whose predicate is true. A step of a scan belongs to the lane it writes; a node of a reduction belongs to no one lane, and its flags
count whatever the predicates. DEDUCED (log entry 43). -/
def placedBeat (op par : Nat) (o : Option Order) (count live : Nat → Bool) (a b : List Nat) : List Nat × Flags :=
  let own := fun l => decide (l < lanesOf o) && live l
  let seen := perLane (fun l => if l < lanesOf o ∧ count l then laneAt a l else identityOf op)
  match op with
  | 0xA0 => (elemsOnly o (permLanes o par a), Flag.none)
  | 0xA1 =>
    let rot := bitsAt par 0 5
    (elemsOnly o (perLane (fun l => if l + rot < 32 then laneAt a (l + rot) else if bitAt par 5 then 0 else laneAt a (l + rot - 32))), Flag.none)
  | 0xA2 => (elemsOnly o (perLane (fun _ => laneAt a (bitsAt par 0 5))), Flag.none)
  | 0xA7 => let (v, f) := scan op own seen; (perLane (fun l => if l < lanesOf o then laneAt v l else 0), f)
  | 0xA8 => let (v, f) := scan op own seen; (perLane (fun l => if l < lanesOf o then laneAt v l else 0), f)
  | 0xA9 =>
    let ps := positions o
    let sel := ps.filter (fun p => bitAt (laneAt b p.1) p.2)
    (placeElems o (ps.zip (sel.map (elemAt o a))), Flag.none)
  | 0xAA =>
    let ps := positions o
    let sel := ps.filter (fun p => bitAt (laneAt b p.1) p.2)
    (placeElems o (sel.zip (ps.map (elemAt o a))), Flag.none)
  | 0xAB =>
    let nz := (positions o).filter (fun p => !laneZero (typeOf o) (elemAt o a p))
    (perLane (fun l => nz.length * 65536 + (nz.filter (fun p => p.1 == l)).foldl (fun n p => n + 2 ^ p.2) 0), Flag.none)
  | 0xAC =>
    let w := subsOf o * tyWidth (typeOf o)
    (perLane (fun l => if l < lanesOf o then laneAt a l % 2 ^ w + laneAt b l % 2 ^ w * 2 ^ w else 0), Flag.none)
  | 0xAD =>
    let w := subsOf o / 2 * tyWidth (typeOf o)
    (perLane (fun l => if l < lanesOf o then bitsAt (laneAt a l) (w * (par % 2)) w else 0), Flag.none)
  | _ =>
    let (v, f) := tree op 5 seen Flag.none
    (perLane (fun l => if par % 2 = 1 ∨ l = 0 then v else 0), f)

/-- A lane operation over beats (R125). Pixels in carrier form stand unpacked in their lanes while it works, and what it moves leaves in
carrier form (R122). -/
def laneBeat (op par : Nat) (o : Option Order) (count live : Nat → Bool) (a b : List Nat) : List Nat × Flags :=
  if 12 ≤ typeOf o ∧ typeOf o ≤ 14 then
    let n := 10 + 2 * (typeOf o - 12)
    let spread := fun (v : List Nat) => let beat := (Beat.ofLanes (v.map (BitVec.ofNat 32))).toNat; perLane (unpackPix n beat)
    let (r, f) := placedBeat op par o count live (spread a) (if op = 0xAC then spread b else b)
    if op = 0xAB then (r, f)
    else
      let v := (List.range 64).foldl (fun t p => t + half (laneAt r (p / 2)) (p % 2) % 2 ^ n * 2 ^ (n * p)) 0
      (perLane (fun l => bitsAt v (32 * l) 32), f)
  else placedBeat op par o count live a b

/-! ## Blocks (R111, R113) -/

/-- Lanes of a block, and its beats. -/
def blockLanes (par : Nat) : Nat := 2 ^ (par % 4)
def blockBeats (par : Nat) : Nat := 8 / 2 ^ (par % 4)

/-- The larger of two magnitudes, of which a NaN outweighs all (R113). -/
def amaxJoin (x y : Nat) : Nat := if 0x7F800000 < x ∨ 0x7F800000 < y then 0x7FC00000 else Nat.max x y

/-- The magnitude of an element. -/
def magnitude (x : Nat) : Nat := x % 2147483648

/-- The maximum of the block that lane l lies in, over the beats of the block. -/
def blockMax (par : Nat) (mags : List Beat) (l : Nat) : Nat :=
  let g := blockLanes par
  mags.foldl (fun m b => (List.range g).foldl (fun m k => amaxJoin m (Beat.lane b (l / g * g + k)).toNat) m) 0

end Sys2Proof.Machine
end

