-- ==== Sys2Proof/Machine/Element.lean ====
section
/-! DEFINITION. Compute elements at work (R64 to R70, R84 to R89, R112, R131 to R137, R295, R296, R330, R331): CE_FIRE,
CE_TOKEN, CE_EOS_EMIT, PIPELINE_EXIT, SKID_DRAIN and BRAMBLE_RELEASE. -/

namespace Sys2Proof.Machine

/-! ## Configuration (Table 4.4) -/

def Cluster.ceEn (c : Cluster) (n : Nat) : Bool := bitAt (c.fieldN n 0) 0
/-- The rate of head k, and of output o: 0 or 1 (R85). -/
def Cluster.ceIn (c : Cluster) (n k : Nat) : Bool := bitsAt (c.fieldN n 1) (4 * k) 4 != 0
def Cluster.ceOut (c : Cluster) (n o : Nat) : Bool := bitsAt (c.fieldN n 2) (4 * o) 4 != 0
/-- LCTRIP: trips − 1. -/
def Cluster.ceTrip (c : Cluster) (n k : Nat) : Nat := c.fieldN n (4 + k)
def Cluster.ceChain (c : Cluster) (n bit : Nat) : Bool := bitAt (c.fieldN n 8) bit
def Cluster.ceSeed (c : Cluster) (n : Nat) : Nat := c.fieldN n 0x0A + 65536 * c.fieldN n 0x0B
/-- The 48-bit descriptor of a stage. -/
def Cluster.sdesc (c : Cluster) (n st : Nat) : Nat :=
  c.fieldN n (16 * st) * 4294967296 + c.fieldN n (16 * st + 1) * 65536 + c.fieldN n (16 * st + 2)
/-- Constant k of a stage. -/
def Cluster.sconst (c : Cluster) (n st k : Nat) : Nat :=
  c.fieldN n (16 * st + 4 + 2 * k) + 65536 * c.fieldN n (16 * st + 5 + 2 * k)

/-! The fields of a stage descriptor (R67). -/

def dOp (d : Nat) : Nat := bitsAt d 40 8
def dMode (d : Nat) : Nat := bitsAt d 36 4
/-- Source k: A, B, C. -/
def dSrc (d k : Nat) : Nat := bitsAt d (30 - 6 * k) 6
def dPred (d : Nat) : Nat := bitsAt d 14 4
def dWmask (d : Nat) : Nat := bitsAt d 12 2
def dCidx (d : Nat) : Nat := bitsAt d 8 4
def dRoute (d : Nat) : Nat := bitsAt d 0 8

/-- The parameter word of a stage. -/
def Cluster.spar (c : Cluster) (n st : Nat) : Nat := c.sconst n st (dCidx (c.sdesc n st) % 4)

/-- What the operation of a descriptor reads through source k. -/
def argOf (d k : Nat) : Arg :=
  match opInfo (dOp d) with
  | some i => if k = 0 then i.a else if k = 1 then i.b else i.c
  | none => .no

/-- The stage that a predicate names. -/
def predStage (d : Nat) : Nat := if dPred d < 8 then dPred d else dPred d - 8

/-- A descriptor that is not all zero reads the pipeline register of stage k. -/
def readsStage (d k : Nat) : Bool :=
  d != 0 && ((List.range 3).any (fun x => argOf d x != .no && dSrc d x == 3 + k) || (dPred d != 0 && predStage d == k))

/-- A stage that is not idle (R65). -/
def Cluster.stageOn (c : Cluster) (n st : Nat) : Bool :=
  c.sdesc n st != 0 || (List.range 7).any (fun k => decide (st < k) && readsStage (c.sdesc n k) st)

/-- An output that a stage is routed to, and the last such stage (R70). -/
def Cluster.routeOf (c : Cluster) (n o : Nat) : Option Nat :=
  (List.range 7).reverse.find? (fun st => decide (0 < st) && c.stageOn n st && bitAt (dRoute (c.sdesc n st)) o)

def Cluster.ceRouted (c : Cluster) (n : Nat) : List Nat := (List.range 2).filter (fun o => (c.routeOf n o).isSome)

/-- The opcode of stage 6; 0 when it is idle. -/
def Cluster.ceFlow (c : Cluster) (n : Nat) : Nat := if c.stageOn n 6 then dOp (c.sdesc n 6) else 0
def Cluster.ceLag (c : Cluster) (n : Nat) : Bool := c.ceFlow n == 0xCC || c.ceFlow n == 0xCD
/-- A steer with PARK = 1. -/
def Cluster.cePark (c : Cluster) (n : Nat) : Bool := c.ceFlow n == 0xE0 && bitAt (c.spar n 6) 8
def Cluster.ceHeads (c : Cluster) (n : Nat) : List Nat := (List.range 4).filter (fun k => c.ceIn n k)

/-! ## Orders inside an element (R55) -/

/-- The order of head k. -/
def Cluster.headOrder (c : Cluster) (n k : Nat) : Order :=
  (orderOf ((List.range 8).foldr (fun i v => v * 65536 + c.fieldN n (0x70 + 8 * k + i)) 0)).getD Order.blank

/-- The order of the value a source names, given those of the heads and of the stages so far; the sources beyond the pipeline
registers carry none. -/
def srcOrder (hd : Nat → Option Order) (ps : List (Option Order)) (code : Nat) : Option Order :=
  if code < 4 then hd code else if code < 10 then (ps.getD (code - 4) none) else none

/-- The order of a stage's result; none for an idle stage. -/
def stageOrder (c : Cluster) (n st : Nat) (hd : Nat → Option Order) (ps : List (Option Order)) : Except Cause (Option Order) :=
  if !c.stageOn n st then .ok none
  else
    let o := fun k => srcOrder hd ps (dSrc (c.sdesc n st) k)
    resultOrder (dOp (c.sdesc n st)) (c.spar n st) (o 0) (o 1) (o 2)

/-- The orders of p1 to p6, and the first fault found on the way. -/
def composeOrders (c : Cluster) (n : Nat) (hd : Nat → Option Order) : List (Option Order) × Option Cause :=
  (List.range 6).foldl (fun acc k => match stageOrder c n (k + 1) hd acc.1 with
    | .ok o => (acc.1 ++ [o], acc.2)
    | .error f => (acc.1 ++ [none], acc.2.orElse (fun _ => some f))) ([], none)

/-- The orders of p1 to p6 of an element whose heads have their descriptors' orders. -/
def Cluster.stageOrders (c : Cluster) (n : Nat) : List (Option Order) := (composeOrders c n (fun k => some (c.headOrder n k))).1

/-- The order of a stage's operand A. -/
def Cluster.orderA (c : Cluster) (n st : Nat) : Option Order :=
  srcOrder (fun k => some (c.headOrder n k)) (c.stageOrders n) (dSrc (c.sdesc n st) 0)

/-! ## Stochastic generators (R29) -/

def lfsrStep (s : Nat) : Nat := if s % 2 = 1 then (s / 2) ^^^ 0x80200003 else s / 2

/-- The seed of a lane of a stage from the element's seed word. -/
def srSeed (w st l : Nat) : Nat :=
  let v := w ^^^ ((32 * (st - 1) + l + 1) * 0x9E3779B9 % 4294967296)
  if v = 0 then 1 else v

/-- n draws of a lane's generator: the values and the generators after them. -/
def draws (w st l : Nat) : Nat → SMap Lane → List Nat × SMap Lane
  | 0, g => ([], g)
  | n + 1, g =>
    let u := (SMap.get g (BitVec.ofNat 32 (srSeed w st l)) (32 * (st - 1) + l)).toNat
    let (us, g') := draws w st l n (SMap.set g (32 * (st - 1) + l) (BitVec.ofNat 32 (lfsrStep u)))
    (u :: us, g')

/-! ## One stage of a firing (R331) -/

/-- What a firing has computed: pipeline registers p1 on, the flags raised, the generators. -/
structure Shot where
  ps : List (List Nat)
  flags : Flags
  gens : SMap Lane

/-- The lanes a source names (R68). Source $14 reads the flags that every earlier firing of the element raised, those of beats still in the
pipeline too, and none that the same firing raises. DEDUCED (log entry 18). -/
def srcLanes (c : Cluster) (x : Ce) (n st : Nat) (heads : List (List Nat)) (ps : List (List Nat)) (code : Nat) : List Nat :=
  if code < 4 then heads.getD code []
  else if code < 10 then ps.getD (code - 4) []
  else if code < 14 then perLane (fun _ => x.lc.getD (code - 10) 0)
  else if code = 14 then perLane (fun l => l)
  else if code = 15 then []
  else if code < 20 then perLane (fun _ => c.sconst n st (code - 16))
  else perLane (fun _ => x.flags.toNat)

/-- A lane whose predicate is true, or ignored (R69). -/
def lanePred (d : Nat) (ps : List (List Nat)) (l : Nat) : Bool :=
  dPred d == 0 || dWmask d == 0 || (laneAt (ps.getD (predStage d - 1) []) l % 2 == (if dPred d < 8 then 1 else 0))

/-- Whether the stage draws: it rounds in SR mode, in a firing on data. -/
def stageDraws (d : Nat) (dropped : Bool) : Bool :=
  !dropped && dMode d % 8 == 4 && (match opInfo (dOp d) with | some i => i.mode != .none | none => false)

/-- One lane of an operation that works lane by lane. -/
def laneValue (x : Ce) (d par l : Nat) (md u : Nat → Nat) (a b c : Nat) : LaneOut :=
  let op := dOp d
  if op = 0 then quiet a
  else if op < 0x40 then floatLane op par md u a b c
  else if op < 0x80 then intLane op a b c
  else if op < 0xA0 then quiet (logicLane op par l (x.lc.getD (par % 4) 0) a b c)
  else if op < 0xE0 then convertLane op par (md 0) u a b c
  else quiet (flowLane op par l a b c)

/-- The subwords of a lane whose flags count: those that carry an element. -/
def laneFlags (s : Nat) (r : LaneOut) : Flags := (List.range (Nat.min s 8)).foldl (fun f k => f ||| r.flags k) Flag.none

/-- The operations of a stage that work on whole beats: lanes and flags, before the predicate. `count` says which lanes a reduction or a
scan counts, and `live` those whose predicate is true. -/
def beatValue (d par : Nat) (o : Option Order) (count live : Nat → Bool) (a b : List Nat) : Option (List Nat × Flags) :=
  let op := dOp d
  if 0xA0 ≤ op ∧ op ≤ 0xAD then some (laneBeat op par o count live a b)
  else if 0x5A ≤ op ∧ op ≤ 0x5C then
    let beat := (Beat.ofLanes (a.map (BitVec.ofNat 32))).toNat
    some (perLane (unpackLane op beat), Flag.none)
  else if 0x5D ≤ op ∧ op ≤ 0x5F then
    let cells := (positions o).filter (fun p => decide (p.2 < 2))
    let (v, cut) := packBeat op cells live a
    some (perLane (fun l => bitsAt v (32 * l) 32), flagIf cut Flag.of)
  else if op = 0x95 ∧ par % 2 = 1 then
    let v := crcBytes 128 (laneAt b 0) (Beat.ofLanes (a.map (BitVec.ofNat 32))).toNat
    some (perLane (fun _ => v), Flag.none)
  else if op = 0xCC ∨ op = 0xCD then some (a, Flag.none)
  else none

/-- Runs one stage. A write mask acts on the 32-bit lanes of a value in carrier form too. DESIGN CHOICE (log entry 45). -/
def runStage (c : Cluster) (x : Ce) (n : Nat) (heads : List (List Nat)) (dropped : Bool) (t : Shot) (st : Nat) : Shot :=
  if !c.stageOn n st then { t with ps := t.ps ++ [perLane (fun _ => 0)] }
  else
    let d := c.sdesc n st
    let par := c.spar n st
    let v := fun k => srcLanes c x n st heads t.ps (dSrc d k)
    let o := c.orderA n st
    let live := fun l => lanePred d t.ps l
    let masked := fun l r => if live l then r else if dWmask d = 2 then laneAt (v 0) l else 0
    match beatValue d par o (fun l => dWmask d != 3 || live l) live (v 0) (v 1) with
    | some (r, f) => { t with ps := t.ps ++ [perLane (fun l => masked l (laneAt r l))], flags := t.flags ||| f }
    | none =>
      let rne := if dMode d % 8 = 4 then dMode d - 4 else dMode d
      let s := subsOf o
      let (r, f, g) := (List.range 32).foldl (fun (acc : List Nat × Flags × SMap Lane) l =>
        if !live l then (masked l 0 :: acc.1, acc.2.1, acc.2.2)
        else
          let inside := decide (l < lanesOf o)
          let drawing := stageDraws d dropped && inside
          let (us, g) := if drawing then draws (c.ceSeed n) st l (roundings (dOp d) s) acc.2.2 else ([], acc.2.2)
          let q := laneValue x d par l (fun k => if drawing ∧ k < us.length then dMode d else rne) (fun k => us.getD k 0)
            (laneAt (v 0) l) (laneAt (v 1) l) (laneAt (v 2) l)
          (q.bits :: acc.1, if inside then acc.2.1 ||| laneFlags s q else acc.2.1, g)) ([], t.flags, t.gens)
      { ps := t.ps ++ [r.reverse], flags := f, gens := g }

/-- Runs the six stages on the beats at the heads; a firing on DROP beats raises no flag (R89). -/
def runStages (c : Cluster) (x : Ce) (n : Nat) (heads : List (List Nat)) (dropped : Bool) : Shot :=
  let t := (List.range 6).foldl (fun t k => runStage c x n heads dropped t (k + 1)) { ps := [], flags := Flag.none, gens := x.gens }
  if dropped then { t with flags := Flag.none } else t

/-- Lanes as a beat. -/
def beatOfLanes (v : List Nat) : Beat := Beat.ofLanes (v.map (BitVec.ofNat 32))

/-- Source B of stage 6, lane l. -/
def steerLane (c : Cluster) (x : Ce) (n : Nat) (heads : List (List Nat)) (t : Shot) (l : Nat) : Nat :=
  laneAt (srcLanes c x n 6 heads t.ps (dSrc (c.sdesc n 6) 1)) l

/-! ## Loop counters (R88) -/

/-- One step of the counters: their values, and those that wrap. -/
def stepCounters (c : Cluster) (n : Nat) (lc : List Nat) : List Nat × List Nat :=
  let (vs, ws, _) := (List.range 4).foldl (fun (acc : List Nat × List Nat × Bool) k =>
    let v := lc.getD k 0
    if !c.ceChain n k then (acc.1 ++ [0], acc.2.1, acc.2.2)
    else if !acc.2.2 then (acc.1 ++ [v], acc.2.1, false)
    else if c.ceTrip n k ≤ v then (acc.1 ++ [0], acc.2.1 ++ [k], true)
    else (acc.1 ++ [v + 1], acc.2.1, false)) ([], [], true)
  (vs, ws)

/-- The tokens that follow a firing's beat: EOR before EOK, each at most once. -/
def wrapTokens (c : Cluster) (n : Nat) (ws : List Nat) : List Item :=
  (if ws.any (fun k => c.ceChain n (4 + k)) then [.eor] else []) ++ (if ws.any (fun k => c.ceChain n (8 + k)) then [.eok] else [])

/-! ## Room and time (R86, R87) -/

/-- The results block lag holds, which count as waiting in the skid (R112). -/
def heldCount (c : Cluster) (n : Nat) (x : Ce) : Nat := if c.ceLag n then Nat.min x.span (blockBeats (c.spar n 6) - 1) else 0

def Ce.skid (x : Ce) (o : Nat) : List Item := if o = 0 then x.skid0 else x.skid1

/-- The earliest cycle of the next firing: one after the last. DEDUCED (log entry 2). -/
def fireCycle (s : State) (x : Ce) : Nat :=
  match x.pipe.getLast? with
  | some f => Nat.max s.now (f.exit - 5)
  | none => s.now

/-- F is at least k on every output in use (R86): the slots free at the end of the cycle before the firing, less what waits in the skid. -/
def ceRoom (s : State) (cl n k : Nat) : Bool :=
  let c := s.cluster cl
  let x := c.ce n
  (List.range 2).all (fun o => !c.ceOut n o || s.hadFree cl (portKey n (4 + o)) (fireCycle s x) (k + (x.skid o).length + if c.routeOf n o = some 6 then heldCount c n x else 0))

/-- The room that an item which closes a span asks for beside that of its tokens: D, with block lag (R112). -/
def lagRoom (c : Cluster) (n : Nat) : Nat := if c.ceLag n then blockBeats (c.spar n 6) - 1 else 0

/-- Nothing is due to leave the pipeline before the next firing enters it. -/
def Ce.entry (s : State) (x : Ce) : Bool := match x.pipe.head? with | some f => decide (fireCycle s x < f.exit) | none => true

/-- The element may fire: enabled, in use, its START consumed or pending, nothing due to leave first, no end of phase in
progress, and not wholly idle (R65, R86, R173). -/
def ceReady (s : State) (cl n : Nat) : Bool :=
  let c := s.cluster cl
  let x := c.ce n
  decide (n < 16) && c.ceEn n && c.owner.isSome && !c.stopping && !s.settling cl n && !x.eos && x.heldTok.isNone
    && (List.range 7).any (fun st => decide (0 < st) && c.stageOn n st)
    && (x.started || !c.swTile n || c.starts.contains n)
    && x.entry s

/-- The element begins its loop, if it has not (R173). -/
def beginLoop (s : State) (cl n : Nat) : State :=
  s.modCluster cl (fun c =>
    let x := c.ce n
    if c.swTile n && !x.started then { c.setCe n { x with started := true } with starts := c.starts.filter (fun a => a != n) } else c)

/-- Puts a firing's items in the pipeline. -/
def launch (s : State) (cl n : Nat) (o0 o1 : List Item) (f : Ce → Ce) : State :=
  let t := fireCycle s ((s.cluster cl).ce n)
  let s1 := beginLoop (s.upTo t) cl n
  s1.modCluster cl (fun c => c.setCe n (f { c.ce n with pipe := (c.ce n).pipe ++ [{ exit := t + 6, o0 := o0, o1 := o1 }] }))

/-- The same items on every routed output. -/
def launchAll (s : State) (cl n : Nat) (its : List Item) (f : Ce → Ce) : State :=
  let r := (s.cluster cl).ceRouted n
  launch s cl n (if r.contains 0 then its else []) (if r.contains 1 then its else []) f

/-- The element's loop is over. -/
def endLoop (s : State) (cl n : Nat) : State :=
  s.modCluster cl (fun c => loopEnd s.now (c.setCe n { c.ce n with started := false }) n)

/-! ## Heads -/

/-- The item at the front of a head. -/
def front (s : State) (cl n k : Nat) : Option Item := ((s.cluster cl).chan (portKey n k)).bind (fun ch => ch.seen.head?)

/-- The fronts of the used heads. -/
def fronts (s : State) (cl n : Nat) : List (Nat × Option Item) := ((s.cluster cl).ceHeads n).map (fun k => (k, front s cl n k))

/-- Takes the fronts of some heads. -/
def takeFronts (s : State) (cl n : Nat) (ks : List Nat) : State := ks.foldl (fun s k => takeItems s cl (portKey n k) 1) s

/-- A firing takes the fronts of some heads, in its own cycle (R86). -/
def fireFronts (s : State) (cl n : Nat) (ks : List Nat) : State := takeFronts (s.upTo (fireCycle s ((s.cluster cl).ce n))) cl n ks

/-- The lanes of an item. -/
def itemLanes (it : Option Item) : List Nat :=
  match it with
  | some (.data b) => (Beat.lanes b).map BitVec.toNat
  | some (.drop b) => (Beat.lanes b).map BitVec.toNat
  | _ => []

/-- The four heads' lanes. -/
def headLanes (fs : List (Nat × Option Item)) : List (List Nat) :=
  (List.range 4).map (fun k => itemLanes ((fs.find? (fun f => f.1 == k)).bind (·.2)))

/-- The DROP beat at the lowest head that holds one. -/
def firstDrop (fs : List (Nat × Option Item)) : Option Beat :=
  fs.findSome? (fun f => match f.2 with | some (.drop b) => some b | _ => none)

def isBeat (it : Option Item) : Bool :=
  match it with
  | some (.data _) => true
  | some (.drop _) => true
  | _ => false

/-! ## Block lag (R112 to R114) -/

/-- The item that leaves for a beat of the span, the first of `lag` being the start of its block. -/
def lagResult (c : Cluster) (n : Nat) (lag : List LagBeat) (b : LagBeat) : Item :=
  match b.own with
  | .data own =>
    if c.ceFlow n = 0xCC then
      let mags := (lag.take (blockBeats (c.spar n 6))).map (·.mag)
      .data (beatOfLanes (perLane (fun l => if b.live.getLsbD l then blockMax (c.spar n 6) mags l else (Beat.lane own l).toNat)))
    else .data own
  | it => it

/-- Emits the results of the span up to, not including, beat j of it: the items, and the beats still needed. `base` is the
index in the span of the first of `lag`, a multiple of the block length. -/
def lagEmit (c : Cluster) (n : Nat) : Nat → List LagBeat → Nat → Nat → List Item
  | 0, _, _, _ => []
  | k + 1, lag, base, j =>
    let lb := blockBeats (c.spar n 6)
    let cut := lag.drop (j / lb * lb - base)
    (match lag[j - base]? with
     | some b => [lagResult c n cut b]
     | none => []) ++ lagEmit c n k lag base (j + 1)

/-- Where `lag` begins: the block of the oldest beat not yet out. -/
def lagBase (c : Cluster) (n : Nat) (x : Ce) : Nat :=
  let lb := blockBeats (c.spar n 6)
  (x.span - heldCount c n x) / lb * lb

/-- The held results, when a span closes. DEDUCED (log entry 18). -/
def lagFlush (c : Cluster) (n : Nat) (x : Ce) : List Item :=
  if c.ceLag n then lagEmit c n (heldCount c n x) x.lag (lagBase c n x) (x.span - heldCount c n x) else []

/-- A beat enters the lag: the item that leaves with it, and the element after it. DEDUCED (log entry 18). -/
def lagPush (c : Cluster) (n : Nat) (x : Ce) (b : LagBeat) : List Item × Ce :=
  let lag := x.lag ++ [b]
  let base := lagBase c n x
  let span := x.span + 1
  let x1 := { x with lag := lag, span := span }
  let out := lagEmit c n (span - heldCount c n x1 - (x.span - heldCount c n x)) lag base (x.span - heldCount c n x)
  (out, { x1 with lag := lag.drop (lagBase c n x1 - base) })

/-- The beat of a firing as the lag holds it. -/
def lagBeatOf (c : Cluster) (n : Nat) (heads : List (List Nat)) (x : Ce) (t : Shot) (dropped : Option Beat) : LagBeat :=
  let d := c.sdesc n 6
  let a := srcLanes c x n 6 heads t.ps (dSrc d 0)
  let live := fun l => lanePred d t.ps l
  let n6 := lanesOf (c.orderA n 6)
  match dropped with
  | some b => { own := .drop b, live := 0#32, mag := 0#1024 }
  | none =>
    { own := .data (beatOfLanes (t.ps.getD 5 [])),
      live := BitVec.ofNat 32 ((List.range 32).foldl (fun v l => if live l then v + 2 ^ l else v) 0),
      mag := beatOfLanes (perLane (fun l => if l < n6 ∧ (live l ∨ dWmask d ≠ 3) then magnitude (laneAt a l) else 0)) }

/-! ## Ending a phase early (R89) -/

/-- Rows parked at a node go, with their Bramble entries (R295, R296). -/
def dropParked (s : State) (cl n : Nat) : State :=
  (s.modCluster cl (fun c => c.setCe n { c.ce n with parked := [] })).modDie (dieOf cl) (fun d =>
    { d with bramble := d.bramble.filter (fun b => !(b.cl == cl % 64 && b.ce == n && some b.task == (s.cluster cl).owner)) })

/-- The element ends its phase with an abort token, which waits for parked rows, and discards from every used head (R89, R330). -/
def abortPhase (s : State) (cl n : Nat) (st : Cause) : State :=
  let c := s.cluster cl
  let clear := fun (x : Ce) => { x with lag := [], span := 0, last := none, row := none, rowBeats := 0, rowLen := none }
  let s1 :=
    if (c.ce n).parked.isEmpty then launchAll s cl n [.abort st] clear
    else (beginLoop s cl n).modCluster cl (fun c => c.setCe n { clear (c.ce n) with heldTok := some (.abort st) })
  (c.ceHeads n).foldl (fun s k => discardPhase s cl (portKey n k)) s1

/-! ## CE_FIRE -/

/-- Takes the flags, registers and generators of a firing in a cycle. -/
def Shot.into (t : Shot) (now : Nat) (x : Ce) : Ce :=
  { x.raise now t.flags with pregs := t.ps.map beatOfLanes, gens := t.gens }

/-- The items of the beat itself on output o (R89, R112, R131, R136, R137). What a stage before stage 6 sends to an output of an element with
block lag leaves with its own firing. DEDUCED (log entry 18). -/
def beatItems (c : Cluster) (x : Ce) (n o : Nat) (heads : List (List Nat)) (t : Shot) (dropped : Option Beat) : List Item :=
  match c.routeOf n o with
  | none => []
  | some st =>
    let plain : Item := match dropped with
      | some b => .drop b
      | none => .data (beatOfLanes (t.ps.getD (st - 1) []))
    if st ≠ 6 then [plain]
    else
      let cond := steerLane c x n heads t 0
      match c.ceFlow n with
      | 0xE0 =>
        let way := if dropped.isSome then 0 else bitsAt cond (bitsAt (c.spar n 6) 0 5) 1
        if o = way then [plain] else []
      | 0xE7 => if dropped.isNone ∧ cond % 2 = 1 then [.drop (beatOfLanes (t.ps.getD 5 []))] else [plain]
      | 0xE9 => if dropped.isNone ∧ cond % 2 = 1 then [plain] else []
      | 0xCC => []
      | 0xCD => []
      | _ => [plain]

/-- What ends with the wrap of counter OUTER in a counter source (R134): with BEN = 0 the phase, with BEN = 1 the period. -/
def cntWraps (c : Cluster) (n : Nat) (ws : List Nat) : Bool := c.ceFlow n == 0xE4 && ws.contains (c.spar n 6 % 4)
def cntBen (c : Cluster) (n : Nat) : Bool := bitAt (c.spar n 6) 4

/-- Fires on the beats at the heads. A token that the element's own counters emit closes a span as one that reaches its heads does. DEDUCED (log entry 18). -/
def fireBeat (s : State) (cl n : Nat) (fs : List (Nat × Option Item)) : State :=
  let c := s.cluster cl
  let x := c.ce n
  let dropped := firstDrop fs
  let heads := headLanes fs
  let steps := !fs.isEmpty || c.ceFlow n == 0xE4
  let (lc, ws) := if steps then stepCounters c n x.lc else (x.lc, [])
  let ends := cntWraps c n ws && !cntBen c n
  let toks := wrapTokens c n ws ++ (if ends then [Item.eos] else [])
  if !ceRoom s cl n (1 + toks.length + if toks = [] then 0 else lagRoom c n) then s
  else
    let t := runStages c x n heads dropped.isSome
    let (lagged, x1) := if c.ceLag n then lagPush c n x (lagBeatOf c n heads x t dropped) else ([], x)
    let (flushed, x2) := if c.ceLag n ∧ toks ≠ [] then (lagFlush c n x1, { x1 with lag := [], span := 0 }) else ([], x1)
    let items := fun o =>
      (if (c.routeOf n o).isNone then []
       else beatItems c x n o heads t dropped ++ (if c.routeOf n o = some 6 then lagged ++ flushed else []) ++ toks)
    let s1 := launch (fireFronts s cl n (fs.map (·.1))) cl n (items 0) (items 1) (fun y =>
      let y1 := t.into (fireCycle s x) { y with lag := x2.lag, span := x2.span, lc := if ends then [0, 0, 0, 0] else lc }
      if cntWraps c n ws then { y1 with opened := false, finished := y1.finished || ends } else y1)
    if ends then endLoop s1 cl n else s1

/-! ### PARK (R295, R296) -/

/-- Tag x precedes tag y (R130). -/
def precedes (x y : Nat) : Bool :=
  let d := (y + 2147483648 - x % 2147483648) % 2147483648
  decide (1 ≤ d) && decide (d ≤ 1073741823)

/-- The next parked row to go: the one that is leaving, else the released row of the least tag. -/
def nextRow (x : Ce) : Option Nat :=
  match x.parked.findIdx? (fun r => decide (0 < r.sent)) with
  | some i => some i
  | none =>
    ((List.range x.parked.length).foldl (fun (b : Option (Nat × Nat)) i =>
      match x.parked[i]? with
      | some r =>
        if r.releasing then match b with
          | some y => if precedes r.tag.toNat y.2 then some (i, r.tag.toNat) else b
          | none => some (i, r.tag.toNat)
        else b
      | none => b) none).map (·.1)

/-- One beat of a released row leaves on its recorded output; with its last the row and its Bramble entry go. -/
def releaseBeat (s : State) (cl n i : Nat) : State :=
  match ((s.cluster cl).ce n).parked[i]? with
  | none => s
  | some r =>
    if !ceRoom s cl n 1 then s
    else
      let it := (r.beats.drop r.sent).take 1
      let last := decide (r.beats.length ≤ r.sent + 1)
      let s1 := launch s cl n (if r.outp then [] else it) (if r.outp then it else []) (fun x =>
        { x with parked := if last then x.parked.eraseIdx i else listModify (fun r => { r with sent := r.sent + 1 }) i x.parked })
      if last then
        s1.modDie (dieOf cl) (fun d => match d.bramble.findIdx? (fun b => b.cl == cl % 64 && b.ce == n && b.key == r.key && b.tag == r.tag && some b.task == (s.cluster cl).owner) with
          | some k => { d with bramble := d.bramble.eraseIdx k }
          | none => d)
      else s1

/-- Beats of a row: a period of the order of the data (R48). -/
def rowLength (c : Cluster) (n : Nat) (x : Ce) : Nat := x.rowLen.getD (((c.orderA n 6).map Order.t).getD 1)

/-- The oldest tag parked at a node. -/
def oldestTag (x : Ce) : Option Nat :=
  x.parked.foldl (fun b r => match b with
    | some t => if precedes r.tag.toNat t then some r.tag.toNat else some t
    | none => some r.tag.toNat) none

/-- How the node disposes of a row at its first beat: none while it may not fire; an inner none for an unknown key. -/
def decideRow (s : State) (cl n : Nat) (lane : Nat → Nat) (dropped : Bool) : Option (Option RowWay) :=
  let c := s.cluster cl
  let x := c.ce n
  let outp := bitAt (lane 0) (bitsAt (c.spar n 6) 0 5)
  let key := lane (if outp then 2 else 1)
  let tag := lane 3 % 2147483648
  let far := match oldestTag x with
    | some t => let d := (tag + 2147483648 - t % 2147483648) % 2147483648
      decide (1024 ≤ d) && decide (d ≤ 1073741823)
    | none => false
  if far || decide (Config.brambleEntries ≤ (s.die (dieOf cl)).bramble.length) then none
  else match s.ert key with
  | none => if dropped then some (some (.route outp)) else some none
  | some e =>
    let behind := x.parked.any (fun r => r.key.toNat == key)
    let absent := decide (e.pre < e.pfx) && !dropped
    if behind || absent then some (some .park) else some (some (.route outp))

/-- A row begins to park: its entry, its place among the parked rows, and a fetch when its slice is absent. -/
def parkRow (s : State) (cl n : Nat) (lane : Nat → Nat) (dropped : Bool) : State :=
  let c := s.cluster cl
  let x := c.ce n
  let outp := bitAt (lane 0) (bitsAt (c.spar n 6) 0 5)
  let key := BitVec.ofNat 32 (lane (if outp then 2 else 1))
  let tag := BitVec.ofNat 32 (lane 3 % 2147483648)
  let weight := BitVec.ofNat 32 (lane 4)
  let (loc, s0) := s.free
  let row : Parked :=
    { key := key, drop := dropped, tag := tag, weight := weight, outp := outp, beats := [],
      ptsc := s.tsc, sent := 0, releasing := x.parked.any (fun r => r.key == key && r.releasing) }
  let entry : BramEntry :=
    { key := key, dropped := dropped, tag := tag, weight := weight, beats := rowLength c n x, outp := outp,
      cl := cl % 64, ce := n, loc := loc.toNat, ptsc := BitVec.ofNat 64 s.tsc, task := c.owner.getD 0 }
  let s1 := (s0.modCluster cl (fun c => c.setCe n { c.ce n with parked := (c.ce n).parked ++ [row] })).modDie (dieOf cl)
    (fun d => { d with bramble := d.bramble ++ [entry] })
  match s.ert key.toNat with
  | some e => if e.pre < e.pfx ∧ !dropped then needSlice s1 cl key.toNat (e.pfx - 1) else s1
  | none => s1

/-- A PARK steer takes the next beat of its row. -/
def fireRow (s : State) (cl n : Nat) (fs : List (Nat × Option Item)) : State :=
  let c := s.cluster cl
  let x := c.ce n
  let dropped := firstDrop fs
  let heads := headLanes fs
  let t := runStages c x n heads dropped.isSome
  let (lc, ws) := stepCounters c n x.lc
  let toks := wrapTokens c n ws
  if !ceRoom s cl n (1 + toks.length) then s
  else
    let lane := steerLane c x n heads t
    match (if x.rowBeats = 0 then decideRow s cl n lane dropped.isSome else some x.row) with
    | none => s
    | some none => abortPhase (dropParked s cl n) cl n Cause.ertKey
    | some (some way) =>
      let key := lane (if bitAt (lane 0) (bitsAt (c.spar n 6) 0 5) then 2 else 1)
      let s1 := if x.rowBeats = 0 ∧ (s.ert key).isSome then noteUse s (dieOf cl) key else s
      let s2 := if x.rowBeats = 0 ∧ way = .park then parkRow s1 cl n lane dropped.isSome else s1
      let it : Item := match dropped with
        | some b => .drop b
        | none => .data (beatOfLanes (t.ps.getD 5 []))
      let own := fun o => match way with
        | .route outp => if outp = o then [it] else []
        | .park => []
      let done := decide (rowLength c n x ≤ x.rowBeats + 1)
      launch (fireFronts s2 cl n (fs.map (·.1))) cl n (own false ++ toks) (own true ++ toks) (fun y =>
        let y1 := if way = .park then { y with parked := listModify (fun r => { r with beats := r.beats ++ [it] }) (y.parked.length - 1) y.parked }
          else y
        t.into (fireCycle s x)
          { y1 with lc := lc, row := if done then none else some way, rowBeats := if done then 0 else x.rowBeats + 1,
                    rowLen := if done then none else x.rowLen })

/-! ### Merge (R132) -/

/-- The parameters of a merge. -/
def mgTag (c : Cluster) (n : Nat) : Nat := bitsAt (c.spar n 6) 0 5
def mgWeight (c : Cluster) (n : Nat) : Nat := bitsAt (c.spar n 6) 5 5

/-- FP32 sum of two lanes, RNE. -/
def sumLane (x y : Nat) : Rounded := fadd Fmt.f32 Mode.rne 0 (Fmt.f32.read x) (Fmt.f32.read y)

/-- A merged row: whether it is a DROP beat, its lanes, its flags. -/
structure Merged where
  drop : Bool
  lanes : List Nat
  flags : Flags

/-- Two rows of one tag, L element lanes. -/
def combineRows (tl wl l : Nat) (da db : Bool) (a b : List Nat) : Merged :=
  let mark := fun (v : List Nat) => perLane (fun k => if k = tl then laneAt v k % 2147483648 + 2147483648 else laneAt v k)
  if da && db then { drop := true, lanes := perLane (fun k => if k = wl then 0 else laneAt (mark a) k), flags := Flag.none }
  else if da then { drop := false, lanes := mark b, flags := Flag.none }
  else if db then { drop := false, lanes := mark a, flags := Flag.none }
  else
    let r := (List.range 32).map (fun k => if k < l ∨ k = wl then sumLane (laneAt a k) (laneAt b k) else plain (laneAt a k))
    let d := decide (2147483648 ≤ laneAt a tl ∨ 2147483648 ≤ laneAt b tl)
    let v := r.map (·.bits)
    { drop := false, lanes := if d then mark v else v, flags := r.foldl (fun f q => f ||| q.flags) Flag.none }

/-- FP32 quotient, RNE. -/
def divLane (x w : Nat) : Rounded :=
  match Fmt.f32.read x, Fmt.f32.read w with
  | .nan s, _ => nanOf Fmt.f32 s
  | .inf neg, _ => plain (Fmt.f32.infinity neg)
  | .fin neg m e, .fin _ n g =>
    if m = 0 then plain (Fmt.f32.signed neg 0)
    else
      let (a, b) := scaled m 1 (-e)
      let (p, q) := scaled n 1 (-g)
      roundRat Fmt.f32 Mode.rne 0 neg (a * q) (b * p)
  | _, _ => nanOf Fmt.f32 false

/-- RENORM: a data beat with D = 1 and a positive finite weight is divided by it. -/
def renorm (c : Cluster) (n l : Nat) (m : Merged) : Merged :=
  let w := laneAt m.lanes (mgWeight c n)
  if bitAt (c.spar n 6) 11 && !m.drop && decide (2147483648 ≤ laneAt m.lanes (mgTag c n)) && decide (0 < w ∧ w < 0x7F800000) then
    let r := (List.range 32).map (fun k => if k < l then divLane (laneAt m.lanes k) w
      else if k = mgWeight c n then plain 0x3F800000 else plain (laneAt m.lanes k))
    { m with lanes := r.map (·.bits), flags := r.foldl (fun f q => f ||| q.flags) m.flags }
  else m

def isDrop (it : Item) : Bool :=
  match it with
  | .drop _ => true
  | _ => false

/-- Merges with a beat at one head at least: one row leaves. The rows are those of I0 and I1 and leave on the routed output, whatever the
merge's source fields, predicate and write mask and whichever stage is routed. DESIGN CHOICE (log entry 45). -/
def mergeBeat (s : State) (cl n : Nat) (fa fb : Item) : State :=
  let c := s.cluster cl
  let x := c.ce n
  let tl := mgTag c n
  let a := itemLanes (some fa)
  let b := itemLanes (some fb)
  let ta := laneAt a tl % 2147483648
  let tb := laneAt b tl % 2147483648
  let sum := bitAt (c.spar n 6) 10
  let l := lanesOf (c.orderA n 6)
  let take : List Nat :=
    if fa.token then [1] else if fb.token then [0]
    else if precedes ta tb then [0] else if precedes tb ta then [1]
    else if sum then [0, 1] else [0]
  let tag := if take.contains 0 then ta else tb
  let (lc, ws) := stepCounters c n x.lc
  let toks := wrapTokens c n ws
  if !ceRoom s cl n (1 + toks.length) then s
  else if x.last.any (fun y => precedes tag y.toNat) then abortPhase s cl n Cause.ordStream
  else
    let m := if take.length = 2 then combineRows tl (mgWeight c n) l (isDrop fa) (isDrop fb) a b
      else if take.contains 0 then { drop := isDrop fa, lanes := a, flags := Flag.none }
      else { drop := isDrop fb, lanes := b, flags := Flag.none }
    let r := renorm c n l m
    let it : Item := if r.drop then .drop (beatOfLanes r.lanes) else .data (beatOfLanes r.lanes)
    launchAll (fireFronts s cl n take) cl n (it :: toks) (fun y =>
      { y.raise (fireCycle s x) r.flags with lc := lc, last := some (BitVec.ofNat 32 tag) })

/-- The results that block lag holds leave an element about to change, under its old fields (R62, R112). DEDUCED (log entry 18). -/
def lagLeave (s : State) (cl n : Nat) : State :=
  let c := s.cluster cl
  let held := fun o => if c.routeOf n o = some 6 then lagFlush c n (c.ce n) else []
  if ceRoom s cl n 0 then launch s cl n (held 0) (held 1) (fun y => { y with lag := [], span := 0 }) else s

/-- CE_FIRE: one firing on beats: a data or DROP beat of the element, a merged row, a beat of a counter source, or a beat of a
released row. A counter source never looks at a head that R134 does not give it, though its rate be 1. DESIGN CHOICE (log entry 45). -/
def execCeFire (cl ce : Nat) (s : State) : Host.Outcome State Fault Refusal :=
  let c := s.cluster cl
  let x := c.ce ce
  let fs := fronts s cl ce
  if s.settling cl ce then .next (if x.lag = [] ∨ c.stopping ∨ !x.entry s then s else lagLeave s cl ce)
  else if x.rowBeats = 0 ∧ c.cePark ce ∧ (nextRow x).isSome ∧ c.ceEn ce ∧ !c.stopping then
    match nextRow x with
    | some i => if x.entry s then .next (releaseBeat s cl ce i) else .next s
    | none => .next s
  else if !ceReady s cl ce then .next s
  else if c.ceFlow ce = 0xE1 then
    match front s cl ce 0, front s cl ce 1 with
    | some fa, some fb => if isBeat (some fa) || isBeat (some fb) then
        (match fa, fb with
         | .abort _, _ => .next s
         | _, .abort _ => .next s
         | _, _ => .next (mergeBeat s cl ce fa fb))
        else .next s
    | _, _ => .next s
  else if c.ceFlow ce = 0xE4 then
    if x.finished || (cntBen c ce && !x.opened) then .next s else .next (fireBeat s cl ce [])
  else if !fs.all (fun f => isBeat f.2) then .next s
  else if c.cePark ce then .next (fireRow s cl ce fs)
  else .next (fireBeat s cl ce fs)

/-! ## CE_TOKEN -/

/-- The status of the abort token at the lowest head that holds one. DEDUCED (log entry 18). -/
def abortAmong (fs : List (Nat × Option Item)) : Option Cause :=
  fs.findSome? (fun f => match f.2 with | some (.abort st) => some st | _ => none)

/-- A token passes: held results first where it closes a span, then one copy on every routed output. EOS waits (R89). A BOUND closes no
span and leaves ahead of the results held. DEDUCED (log entry 18). -/
def passToken (s : State) (cl n : Nat) (ks : List Nat) (it : Item) : State :=
  let c := s.cluster cl
  let x := c.ce n
  let closes := c.ceLag n && (match it with | .bound _ => false | _ => true)
  if !ceRoom s cl n (if closes then 2 + lagRoom c n else 1) then s
  else
    let held := if closes then lagFlush c n x else []
    let clear := fun (y : Ce) => if closes then { y with lag := [], span := 0 } else y
    let s1 := fireFronts s cl n ks
    let emit := fun (its : List Item) (f : Ce → Ce) =>
      launch s1 cl n (if c.ceLag n && c.routeOf n 0 == some 6 then held ++ its else if (c.routeOf n 0).isSome then its else [])
        (if c.ceLag n && c.routeOf n 1 == some 6 then held ++ its else if (c.routeOf n 1).isSome then its else []) f
    match it with
    | .eos =>
      if c.cePark n && !x.parked.isEmpty then
        (beginLoop s1 cl n).modCluster cl (fun c => c.setCe n { c.ce n with heldTok := some .eos, row := none, rowBeats := 0, rowLen := none })
      else emit [] (fun y => { clear y with eos := true, last := none, row := none, rowBeats := 0, rowLen := none })
    | .eor => emit [it] (fun y => { clear y with row := none, rowBeats := 0, rowLen := none })
    | .bound k => emit [it] (fun y => { clear y with rowLen := (c.orderA n 6).bind (fun o => if o.rag then some (k * o.block) else none) })
    | _ => emit [it] clear

/-- BOUND at every used head of a `bnd` element (R135). -/
def passBound (s : State) (cl n : Nat) (ks : List Nat) (k : Nat) : State :=
  let c := s.cluster cl
  let ctr := c.spar n 6 % 4
  if 65536 < k then (if ceRoom s cl n 1 then abortPhase s cl n Cause.ordStream else s)
  else
    let fwd := bitAt (c.spar n 6) 2
    if fwd && !ceRoom s cl n 1 then s
    else
      let set := fun (s : State) => if k = 0 then s
        else s.modCluster cl (fun c =>
          { c.setCe n { c.ce n with lc := (c.ce n).lc.set ctr 0 } with cfg := SMap.set c.cfg (256 * n + 4 + ctr) (BitVec.ofNat 16 (k - 1)) })
      let s1 := set (fireFronts s cl n ks)
      if fwd then launchAll s1 cl n [.bound k] id else beginLoop s1 cl n

/-- A front of I0 of a counter source with BEN = 1 (R134). An EOK, which R134 does not list, is consumed and sent on; a DROP beat is a data
beat; an abort token ends the phase with its status, as R89 has it elsewhere, and leaves the finished mark clear. DESIGN CHOICE (log entry
45). -/
def cntFront (s : State) (cl n : Nat) (it : Item) : State :=
  let c := s.cluster cl
  let bad := fun (_ : Unit) => launchAll (fireFronts s cl n [0]) cl n [.abort Cause.ordStream] (fun y => { y with finished := true })
  let openIt := fun (s : State) => (beginLoop s cl n).modCluster cl (fun c => c.setCe n { c.ce n with opened := true })
  match it with
  | .bound 0 => if ceRoom s cl n 1 then launchAll (fireFronts s cl n [0]) cl n [.eor] id else s
  | .bound k =>
    if 65536 < k then (if ceRoom s cl n 1 then bad () else s)
    else openIt ((fireFronts s cl n [0]).modCluster cl (fun c =>
      { c with cfg := SMap.set c.cfg (256 * n + 4 + bitsAt (c.spar n 6) 2 2) (BitVec.ofNat 16 (k - 1)) }))
  | .eor => openIt (fireFronts s cl n [0])
  | .eos =>
    if ceRoom s cl n 1 then
      endLoop (launchAll (fireFronts s cl n [0]) cl n [.eos] (fun y => { y with finished := true, lc := [0, 0, 0, 0] })) cl n
    else s
  | .abort st => if ceRoom s cl n 1 then abortPhase s cl n st else s
  | .eok => if c.ceRouted n ≠ [] ∧ !ceRoom s cl n 1 then s else launchAll (fireFronts s cl n [0]) cl n [.eok] id
  | _ => if ceRoom s cl n 1 then bad () else s

/-- Tokens of one kind. -/
def sameKind (a b : Item) : Bool :=
  match a, b with
  | .bound _, .bound _ => true
  | _, _ => a == b

/-- A head with rate 0 discards whatever arrives on it (R89). -/
def idleHeads (s : State) (cl n : Nat) : List Nat :=
  let c := s.cluster cl
  (List.range 4).filter (fun k => !c.ceIn n k && (front s cl n k).isSome)

/-- CE_TOKEN: tokens at the used heads pass, or end the phase; what stands at unused heads goes. A merge takes any two BOUND tokens as one
kind (R132) and passes the one of I0; elsewhere BOUND tokens of unequal payload are no same token. DEDUCED (log entry 18). -/
def execCeToken (cl ce : Nat) (s : State) : Host.Outcome State Fault Refusal :=
  let c := s.cluster cl
  let x := c.ce ce
  let fs := fronts s cl ce
  let abort := fun (st : Cause) => if ceRoom s cl ce 1 then abortPhase s cl ce st else s
  if c.ceEn ce && !(idleHeads s cl ce).isEmpty then .next (takeFronts s cl ce (idleHeads s cl ce))
  else if !ceReady s cl ce then .next s
  else if c.ceFlow ce = 0xE4 then
    match front s cl ce 0 with
    | some it => if cntBen c ce && !x.opened && !x.finished then .next (cntFront s cl ce it) else .next s
    | none => .next s
  else if fs.isEmpty || fs.all (fun f => isBeat f.2) || fs.any (fun f => f.2.isNone) then .next s
  else match abortAmong fs with
  | some st => .next (abort st)
  | none =>
    match fs.map (·.2) with
    | some it :: rest =>
      if c.ceFlow ce = 0xE1 && (it.token != ((rest.headD none).any Item.token)) then .next s
      else if it.token && rest.all (fun r => if c.ceFlow ce = 0xE1 then r.any (sameKind it) else r == some it) then
        match it with
        | .bound k => if c.ceFlow ce = 0xE5 then .next (passBound s cl ce (fs.map (·.1)) k) else .next (passToken s cl ce (fs.map (·.1)) it)
        | _ => .next (passToken s cl ce (fs.map (·.1)) it)
      else .next (abort Cause.ordStream)
    | _ => .next s

/-! ## CE_EOS_EMIT, PIPELINE_EXIT, SKID_DRAIN, BRAMBLE_RELEASE -/

/-- One free slot on every routed output. -/
def roomForEnd (s : State) (cl n : Nat) : Bool :=
  ((s.cluster cl).ceRouted n).all (fun o => s.hasFree cl (portKey n (4 + o)) 1)

/-- CE_EOS_EMIT: EOS, or the token a PARK steer held, leaves once nothing is left before it; EOS resets the counters. -/
def execCeEosEmit (cl ce : Nat) (s : State) : Host.Outcome State Fault Refusal :=
  let c := s.cluster cl
  let x := c.ce ce
  let tok : Option Item := if x.eos then some .eos else if x.parked.isEmpty then x.heldTok else none
  match tok with
  | none => .next s
  | some it =>
    if !(x.pipe.isEmpty && x.skid0.isEmpty && x.skid1.isEmpty) || !roomForEnd s cl ce then .next s
    else
      let s1 := (c.ceRouted ce).foldl (fun s o => sendItem s cl (portKey ce (4 + o)) it) s
      let s2 := s1.modCluster cl (fun c => c.setCe ce
        { c.ce ce with eos := false, heldTok := none, lc := if it = .eos then [0, 0, 0, 0] else (c.ce ce).lc })
      .next (if it = .eos then endLoop s2 cl ce else s2)

/-- Items leave stage 6 on output o: into the channel, or behind what waits in the skid. -/
def leave (s : State) (cl n o : Nat) (its : List Item) : State :=
  its.foldl (fun s it =>
    let x := (s.cluster cl).ce n
    if (x.skid o).isEmpty && s.hasFree cl (portKey n (4 + o)) 1 then sendItem s cl (portKey n (4 + o)) it
    else s.modCluster cl (fun c => c.setCe n (if o = 0 then { x with skid0 := x.skid0 ++ [it] } else { x with skid1 := x.skid1 ++ [it] }))) s

/-- PIPELINE_EXIT: the oldest firing leaves stage 6. DEDUCED (log entry 2). -/
def execPipelineExit (cl ce : Nat) (s : State) : Host.Outcome State Fault Refusal :=
  match ((s.cluster cl).ce ce).pipe with
  | [] => .next s
  | f :: rest =>
    let s1 := (s.upTo f.exit).modCluster cl (fun c => c.setCe ce { c.ce ce with pipe := rest })
    .next (leave (leave s1 cl ce 0 f.o0) cl ce 1 f.o1)

/-- SKID_DRAIN: the oldest item of an output's skid enters the channel. -/
def execSkidDrain (cl ce out : Nat) (s : State) : Host.Outcome State Fault Refusal :=
  let x := (s.cluster cl).ce ce
  if 2 ≤ out then .next s
  else match x.skid out with
  | [] => .next s
  | it :: rest =>
    if s.hasFree cl (portKey ce (4 + out)) 1 then
      .next (sendItem (s.modCluster cl (fun c => c.setCe ce (if out = 0 then { x with skid0 := rest } else { x with skid1 := rest })))
        cl (portKey ce (4 + out)) it)
    else .next s

/-- The rows of a key parked at a cluster's nodes are released. -/
def releaseKey (key : Lane) (c : Cluster) : Cluster :=
  { c with ces := c.ces.map (fun e => (e.1, { e.2 with parked := e.2.parked.map (fun r => if r.key = key then { r with releasing := true } else r) })) }

/-- BRAMBLE_RELEASE: a slice-ready event whose PRE reaches PFX arrives at a die and releases every entry of its key, those of
tasks that are away among them. CE_FIRE then re-emits the rows, and CE_EOS_EMIT the token held behind them. -/
def execBrambleRelease (die : Nat) (key : Lane) (s : State) : Host.Outcome State Fault Refusal :=
  match s.ert key.toNat with
  | some e =>
    if e.pfx ≤ e.pre ∧ !s.onWay (.sliceReady key.toNat die) ∧ !s.onWay (.ertUpdate key.toNat die) then
      .next { s with clusters := s.clusters.map (fun k => if dieOf k.1 = die then (k.1, releaseKey key k.2) else k),
                     fw := { s.fw with saved := s.fw.saved.map (fun v => if dieOf v.cl = die then { v with ctx := releaseKey key v.ctx } else v) } }
    else .next s
  | none => .next s

end Sys2Proof.Machine
end

