-- ==== Sys2Proof/Machine/Checker.lean ====
section
/-! DEFINITION. The configuration checker: a stream's framing and checksum (R60, R61), its word faults, and the faults of each
element it writes (R63, with the rules of R69, R70, R85, R90, R131, R132, R164, R166, R169, R170, R172, R173, R175, R176, R332). -/

namespace Sys2Proof.Machine

/-- A configuration word: element address, field number, value (R59). -/
def wEl (w : Lane) : Nat := bitsAt w.toNat 24 8
def wField (w : Lane) : Nat := bitsAt w.toNat 16 8
def wValue (w : Lane) : Nat := bitsAt w.toNat 0 16

/-- A field write: element, field, value. -/
abbrev FieldWrite := Nat × Nat × Nat

/-! ## Framing (R60, R61) -/

/-- The bytes that the checksum covers: every word, the origin word's value taken as 0. -/
def sumBytes (ws : List Lane) : List Nat :=
  ws.flatMap (fun w =>
    let v := if wEl w = 0xFF ∧ wField w = 1 then w.toNat / 65536 * 65536 else w.toNat
    (List.range 4).map (fun k => bitsAt v (8 * k) 8))

/-- CRC-32C with initial value and final exclusive-or $FFFF_FFFF. -/
def crc32c (bs : List Nat) : Nat := not32 (bs.foldl crcByte 0xFFFFFFFF)

/-- The words of a framed stream: begin, origin, two identifier words, body, two checksum words, commit. -/
structure Framed where
  index : Nat
  origin : Nat
  objid : Nat
  body : List Lane
  deriving DecidableEq, Repr

/-- A header word with a field number. -/
def isHeader (f : Nat) (w : Lane) : Bool := wEl w == 0xFF && wField w == f

/-- CFG.SEQ and CFG.SUM over a whole stream. -/
def unframe (ws : List Lane) : Except Cause Framed :=
  let n := ws.length
  let at_ := fun k => ws.getD k 0#32
  let body := (ws.drop 4).take (n - 7)
  -- header fields of the reserved numbers are word faults, found later
  let placed := body.all (fun w => wEl w != 0xFF || decide (4 ≤ wField w ∧ wField w ≤ 0xEF) || decide (0xF3 ≤ wField w))
  if n < 7 ∨ !isHeader 0 (at_ 0) ∨ !isHeader 1 (at_ 1) ∨ !isHeader 2 (at_ 2) ∨ !isHeader 3 (at_ 3) ∨ !isHeader 0xF1 (at_ (n - 3))
      ∨ !isHeader 0xF2 (at_ (n - 2)) ∨ !isHeader 0xF0 (at_ (n - 1)) ∨ !placed ∨ wValue (at_ (n - 1)) ≠ (n - 1) % 65536 then
    .error Cause.cfgSeq
  else if crc32c (sumBytes (ws.take (n - 3))) ≠ wValue (at_ (n - 3)) + 65536 * wValue (at_ (n - 2)) then .error Cause.cfgSum
  else .ok { index := wValue (at_ 0), origin := wValue (at_ 1), objid := wValue (at_ 2) + 65536 * wValue (at_ 3), body := body }

/-! ## Word faults -/

/-- The bits a field may hold, whatever the other fields hold; none for a reserved field. -/
def fieldMask (el f : Nat) : Option Nat :=
  let all := some 0xFFFF
  if el < 0x10 then
    if f = 0 then some 1 else if f = 1 then all else if f = 2 then some 0xFF
    else if 4 ≤ f ∧ f ≤ 7 then all else if f = 8 then some 0xFFF else if f = 0x0A ∨ f = 0x0B then all
    else if 0x10 ≤ f ∧ f ≤ 0x6F then (if f % 16 = 2 then some 0xFF03 else if f % 16 ≤ 1 ∨ (4 ≤ f % 16 ∧ f % 16 ≤ 0xB) then all else none)
    else if 0x70 ≤ f ∧ f ≤ 0x8F then all else none
  else if el < 0x18 then (if f ≤ 3 then some 0xFF else none)
  else if el < 0x20 then
    if f = 0 then some 0x3F else if f = 1 then all else if f = 2 then some 7
    else if 8 ≤ f ∧ f ≤ 0xF then all
    else if 0x10 ≤ f ∧ f ≤ 0x1F then (if f % 4 = 3 then some 0xF else all) else none
  else if el = 0x20 then
    if f = 0 then some 1 else if f = 1 then all else if f = 2 then some 0xFF
    else if 0x10 ≤ f ∧ f ≤ 0x1F then some 7
    else if 0x40 ≤ f ∧ f ≤ 0xBF then (if f % 8 = 0 then some 3 else if f % 8 = 7 then none else all) else none
  else if el = 0x21 then (if f = 0 then some 7 else if f = 1 then some 7 else if 8 ≤ f ∧ f ≤ 0x1F then all else none)
  else if el = 0x22 then (if f = 0 then some 1 else if f = 1 then some 0xF else none)
  else if el = 0x23 then (if f = 0 then some 0x1FFF else none)
  else if el = 0x24 then (if f ≤ 0x1F then some 0x7F else none)
  else if 0x30 ≤ el ∧ el ≤ 0x47 then
    (if f = 0 then some 0x3F else if f = 1 then some 0x1FFF else if 8 ≤ f ∧ f ≤ 0xF then all else none)
  else if 0x80 ≤ el ∧ el ≤ 0x9F then
    (if f ≤ 0xB then some 0x3F else if f = 0xC ∨ f = 0xD then some 0xFFF else if f = 0xE then some 0x1F else none)
  else none

/-- An element address of Table 4.1, the header apart. -/
def isElement (el : Nat) : Bool :=
  decide (el ≤ 0x24) || decide (0x30 ≤ el ∧ el ≤ 0x47) || decide (0x80 ≤ el ∧ el ≤ 0x9F)

/-- The fault of one word. -/
def wordFault (w : Lane) : Option Cause :=
  if wEl w = 0xFF then some Cause.cfgField
  else if !isElement (wEl w) then some Cause.cfgAddr
  else match fieldMask (wEl w) (wField w) with
    | some m => if wValue w ||| m = m then none else some Cause.cfgField
    | none => some Cause.cfgField

/-- Steps 1 and 2 of R63: the stream's frame and its field writes; the begin word comes first of the words. -/
def parseStream (ws : List Lane) : Except Cause (Framed × List FieldWrite) :=
  match unframe ws with
  | .error c => .error c
  | .ok f =>
    if 256 ≤ f.index then .error Cause.cfgField
    else match f.body.findSome? wordFault with
    | some c => .error c
    | none => .ok (f, f.body.map (fun w => (wEl w, wField w, wValue w)))

/-- The fields with the writes of a stream over them, the last write of a field winning (R62). -/
def overlay (cfg : SMap (BitVec 16)) (fs : List FieldWrite) : SMap (BitVec 16) :=
  fs.foldl (fun m w => SMap.set m (256 * w.1 + w.2.1) (BitVec.ofNat 16 w.2.2)) cfg

/-! ## Compute elements -/

/-- A source select that a stage may hold (R68, R100). -/
def srcFault (c : Cluster) (n st k : Nat) : Bool :=
  let d := c.sdesc n st
  let v := dSrc d k
  if argOf d k = .no then v != 0x0F
  else decide (0x15 ≤ v) || (decide (4 ≤ v ∧ v ≤ 9) && decide (st ≤ v - 3)) || (decide (v ≤ 3) && !c.ceIn n v)

/-- A predicate that is reserved or names the same or a later stage (R69). -/
def predFault (d st : Nat) : Bool :=
  let p := dPred d
  p == 7 || p == 8 || p == 15 || (p != 0 && decide (st ≤ predStage d))

/-- The first fault of a stage. -/
def stageFault (c : Cluster) (n st : Nat) : Option Cause :=
  let d := c.sdesc n st
  if d = 0 then (if c.stageOn n st ∧ !c.ceIn n 0 then some Cause.cfgSrc else none)
  else match opInfo (dOp d) with
  | none => some Cause.cfgOp
  | some i =>
    if !i.stages.contains st then some Cause.cfgStage
    else if (List.range 3).any (srcFault c n st) || predFault d st then some Cause.cfgSrc
    else if !i.mode.ok (dMode d) then some Cause.cfgMode
    else if (dPred d == 0 && dWmask d != 0) || decide (3 < dCidx d) || (i.par == .none && dCidx d != 0) || !parOk (dOp d) i.par (c.spar n st) then some Cause.cfgField
    else none

/-- Stages routed to an output. -/
def routedStages (c : Cluster) (n o : Nat) : List Nat :=
  (List.range 7).filter (fun st => decide (0 < st) && bitAt (dRoute (c.sdesc n st)) o)

/-- Rates above 1, and flow-node arrangements (R85, R131, R132, R295). A merge is taken whatever its source fields name and whichever stage
is the one routed. DESIGN CHOICE (log entry 45). -/
def ceFieldFault (c : Cluster) (n : Nat) : Bool :=
  let flow := dOp (c.sdesc n 6)
  (List.range 4).any (fun k => decide (1 < bitsAt (c.fieldN n 1) (4 * k) 4)) || (List.range 2).any (fun o => decide (1 < bitsAt (c.fieldN n 2) (4 * o) 4))
    || (flow == 0xE0 && !(dRoute (c.sdesc n 6) == 3 && c.ceOut n 0 && c.ceOut n 1))
    || (c.cePark n && decide (64 < ((c.orderA n 6).map Order.t).getD 1))
    || (flow == 0xE1 && !(c.ceHeads n == [0, 1] && ((routedStages c n 0).isEmpty != (routedStages c n 1).isEmpty)))

/-! ## Tracks (R169, R332) -/

/-- A unit port that an in-use L port of a switchbox names: element and port. -/
def lunit (c : Cluster) (k p : Nat) : Nat × Nat :=
  let v := c.fieldN (0x80 + k) (0x0C + (p - 4))
  (bitsAt v 0 8, bitsAt v 8 4)

/-- The field of output track t of switchbox k. -/
def osel (c : Cluster) (k t : Nat) : Nat := c.fieldN (0x80 + k) t
def oselV (v : Nat) : Bool := bitAt v 4
def oselPort (v : Nat) : Nat := bitsAt v 0 3
def oselTrack (v : Nat) : Nat := bitsAt v 3 1
def oselEl (v : Nat) : Bool := bitAt v 5

/-- The switchbox at a compass port (0 N, 1 E, 2 S, 3 W); none at the boundary. -/
def neighbour (k p : Nat) : Option Nat :=
  match p with
  | 0 => if k < 8 then none else some (k - 8)
  | 1 => if k % 8 = 7 then none else some (k + 1)
  | 2 => if 24 ≤ k then none else some (k + 8)
  | 3 => if k % 8 = 0 then none else some (k - 1)
  | _ => none

/-- Where an in-use output track takes its items from: an output track of a neighbour, or an L port. -/
def trackBack (c : Cluster) (k t : Nat) : Option (Nat × Nat) :=
  let v := osel c k t
  match neighbour k (oselPort v) with
  | some j => if oselPort v < 4 then some (j, 2 * ((oselPort v + 2) % 4) + oselTrack v) else none
  | none => none

/-- The unit port that feeds an output track from inside the cluster. -/
def trackOrigin (c : Cluster) : Nat → Nat → Nat → Option (Nat × Nat)
  | 0, _, _ => none
  | n + 1, k, t =>
    if !oselV (osel c k t) then none
    else match trackBack c k t with
      | some (j, u) => trackOrigin c n j u
      | none => if oselPort (osel c k t) < 4 then none else some (lunit c k (oselPort (osel c k t)))

/-- The unit ports of the cluster to which a unit port's channels lead. -/
def ledTo (c : Cluster) (u : Nat × Nat) : List (Nat × Nat) :=
  (List.range 32).flatMap (fun k => ([4, 5].filter (fun p => trackOrigin c 400 k (2 * p) == some u)).map (fun p => lunit c k p))

/-- A `cmd` that does not route to exactly one output, or whose output is not joined to engine-bound edge ports of its cluster alone
(R137). -/
def cmdRouteFault (c : Cluster) (n : Nat) : Bool :=
  dOp (c.sdesc n 6) == 0xE9 &&
    (match dRoute (c.sdesc n 6) with
     | 1 => !toEngines 4
     | 2 => !toEngines 5
     | _ => true)
where
  toEngines (o : Nat) : Bool :=
    !(ledTo c (n, o)).isEmpty && (ledTo c (n, o)).all (fun u =>
      decide (0x30 ≤ u.1 ∧ u.1 ≤ 0x47) && bitAt (c.fieldN u.1 0) 0 && bitAt (c.fieldN u.1 0) 2)

/-- Two stages routed to one output, a route to an output whose rate is 0, and a misrouted `cmd` (R63, R85, R137). -/
def ceRouteFault (c : Cluster) (n : Nat) : Bool :=
  (List.range 2).any (fun o => decide (1 < (routedStages c n o).length) || (!(routedStages c n o).isEmpty && !c.ceOut n o))
    || cmdRouteFault c n

/-- The first fault of a compute element. -/
def ceFault (c : Cluster) (n : Nat) : Option Cause :=
  match (List.range 6).findSome? (fun k => stageFault c n (k + 1)) with
  | some f => some f
  | none => if ceFieldFault c n then some Cause.cfgField else if ceRouteFault c n then some Cause.cfgRoute else none

/-! ## Memory tiles, generators, the sequencer, the matrix array, edge ports -/

def mtFault (c : Cluster) (t : Nat) : Bool :=
  (List.range 4).any (fun j => let k := tokenOf (c.fieldN (0x10 + t) j); k.nv && !k.ov)

def agFault (c : Cluster) (g : Nat) : Bool :=
  let el := agEl g
  let ns := List.range 4
  ns.any (fun n => decide (5 < c.agTcDim g n)) ||
  if c.agSpace g then
    bitsAt (c.fieldN el 1) 12 4 != 0 || c.fieldN el 2 != 0 || c.agGate g || c.agRel g
  else c.agBase g % 128 != 0 || ns.any (fun n => c.agStride g n % 128 != 0 || c.agTcDim g n != 0)

/-- L port p of a switchbox is in use: its output track, or as a source. -/
def lUsed (c : Cluster) (k p : Nat) : Bool :=
  oselV (osel c k (2 * p)) || (List.range 12).any (fun t => oselV (osel c k t) && oselPort (osel c k t) == p)

/-- The unit ports named by L ports in use, with the switchbox port that names each. -/
def namedUnits (c : Cluster) : List ((Nat × Nat) × (Nat × Nat)) :=
  (List.range 32).flatMap (fun k => ([4, 5].filter (lUsed c k)).map (fun p => ((k, p), lunit c k p)))

/-- The rules that join the sequencer's fields (R90, R314). -/
def sqFault (c : Cluster) : Bool :=
  let valid := (List.range 16).filter (fun m => c.slotValid m)
  valid.any (fun m => c.slotEntry m % 4 != 0)
  || valid.any (fun m => (List.range 16).any (fun h => decide (0 < c.slotRate m h) && !c.handleUsed h))
  || (List.range 16).any (fun h => decide (1 < (valid.filter (fun m => decide (0 < c.slotRate m h))).length))
  || decide (1 < (valid.filter (fun m => c.slotTrap m)).length)
  || valid.any (fun m => c.slotTrap m && (List.range 16).any (fun h => decide (0 < c.slotRate m h)))
  || (List.range 16).any (fun h => c.handleCmpl h && (c.handleOut h || (namedUnits c).any (fun u => u.2 == (0x20, h))))

def epEl (e : Nat) : Nat := 0x30 + e
def Cluster.epEn (c : Cluster) (e : Nat) : Bool := bitAt (c.fieldN (epEl e) 0) 0
/-- DIR = 1: out of the cluster. -/
def Cluster.epOut (c : Cluster) (e : Nat) : Bool := bitAt (c.fieldN (epEl e) 0) 1
def Cluster.epEng (c : Cluster) (e : Nat) : Bool := bitAt (c.fieldN (epEl e) 0) 2
def Cluster.epPeer (c : Cluster) (e : Nat) : Nat × Nat := (bitsAt (c.fieldN (epEl e) 1) 0 8, bitsAt (c.fieldN (epEl e) 1) 8 5)

def epFault (c : Cluster) (e : Nat) : Bool :=
  decide (5 < bitsAt (c.fieldN (epEl e) 0) 3 3) || decide (23 < (c.epPeer e).2) ||
  (c.epEng e && !(c.epOut e && c.fieldN (epEl e) 1 == 0 && c.descAt (epEl e) 8 == 0))

/-! ## Switchboxes (R169, R332) -/

/-- A unit port of Table 9.3's list. -/
def unitPort (u : Nat × Nat) : Bool :=
  (decide (u.1 < 0x10) && decide (u.2 ≤ 5)) || (decide (0x18 ≤ u.1 ∧ u.1 ≤ 0x1F) && u.2 == 0) || (u.1 == 0x21 && decide (u.2 ≤ 2))
    || (decide (0x30 ≤ u.1 ∧ u.1 ≤ 0x47) && u.2 == 0) || u.1 == 0x20

/-- A port and track that an OSEL may name: a joined compass port, or track 0 of an L port. -/
def portTrackOk (k p r : Nat) : Bool := (decide (p < 4) && (neighbour k p).isSome) || (decide (p = 4 ∨ p = 5) && r == 0)

/-- A source port of no switchbox, a second EL bit and a LUNIT of no unit port are refused in use or not (R169). -/
def sbFieldFault (c : Cluster) (k : Nat) : Bool :=
  let inUse := (List.range 12).filter (fun t => oselV (osel c k t))
  let els := (List.range 12).filter (fun t => oselEl (osel c k t))
  let ring := bitsAt (c.fieldN (0x80 + k) 0xE) 0 5
  let units := namedUnits c
  (List.range 12).any (fun t => decide (5 < oselPort (osel c k t))) || [4, 5].any (fun p => !unitPort (lunit c k p))
    || inUse.any (fun t => !portTrackOk k (t / 2) (t % 2) || !portTrackOk k (oselPort (osel c k t)) (oselTrack (osel c k t)))
    || decide (1 < els.length) || (els.isEmpty && ring != 0) || (!els.isEmpty && !(decide (6 ≤ ring ∧ ring ≤ 16)))
    || [4, 5].any (fun p => lUsed c k p && units.any (fun u => u.2 == lunit c k p && u.1 != (k, p)))

/-- A chain of tracks that has not ended after n hops. -/
def endless (c : Cluster) : Nat → Nat → Nat → Bool
  | 0, _, _ => true
  | n + 1, k, t =>
    if !oselV (osel c k t) then false
    else match trackBack c k t with
      | some (j, u) => endless c n j u
      | none => false

/-- A chain of tracks that returns to itself: it outlasts the tracks of the cluster. -/
def sbRouteFault (c : Cluster) (k : Nat) : Bool := (List.range 12).any (fun t => endless c 400 k t)

/-! ## The matrix array's ports (R196) -/

/-- The orders that a port of the matrix array takes: k is dimension 2 and j dimension 0 (R47). -/
def mxOrders (p : Nat) : List Order :=
  let axis := fun n pl d => ({ ext := n, place := pl, dim := d } : Axis)
  if p = 2 then
    [0, 8].map (fun ty => { ty := ty, rag := false, axes := [axis 32 .lane 0, axis 4 .beat 0] })
      ++ [{ ty := 1, rag := false, axes := [axis 2 .sub 0, axis 32 .lane 0, axis 2 .beat 0] }]
  else [1, 2, 3, 4, 6, 7].map (fun ty => { ty := ty, rag := false, axes := [axis (tyPack ty) .sub 2, axis 32 .lane 2, axis 2 .beat 2] })

/-- A joined port of the matrix array declares another order. -/
def mxPortFault (c : Cluster) : Bool :=
  (List.range 3).any (fun p => (namedUnits c).any (fun u => u.2 == (0x21, p))
    && !(mxOrders p).any (fun o => orderOf (c.descAt 0x21 (8 + 8 * p)) == some o))

/-- The first fault of an element, over the fields it will hold. -/
def elementFault (c : Cluster) (el : Nat) : Option Cause :=
  let field := fun (b : Bool) => if b then some Cause.cfgField else none
  if el < 0x10 then ceFault c el
  else if el < 0x18 then field (mtFault c (el - 0x10))
  else if el < 0x20 then field (agFault c (el - 0x18))
  else if el = 0x20 then field (sqFault c)
  else if el = 0x21 then field (decide (4 < c.fieldN 0x21 1) || mxPortFault c)
  else if 0x30 ≤ el ∧ el ≤ 0x47 then field (epFault c (el - 0x30))
  else if 0x80 ≤ el ∧ el ≤ 0x9F then
    if sbFieldFault c (el - 0x80) then some Cause.cfgField else if sbRouteFault c (el - 0x80) then some Cause.cfgRoute else none
  else none

/-- Step 3 of R63: the elements that the writes name, in ascending address, over the fields they will hold. Writes of a switchbox may join
a completion handle (R90) or a port of the matrix array (R196), whose elements are checked too. -/
def elementsFault (c : Cluster) (fs : List FieldWrite) : Option Cause :=
  ((List.range 256).filter (fun el => fs.any (fun w => w.1 == el || (decide (el = 0x20 ∨ el = 0x21) && decide (0x80 ≤ w.1))))).findSome? (elementFault c)

end Sys2Proof.Machine
end

