-- ==== Sys2Proof/Machine/Join.lean ====
section
/-! DEFINITION. Channels from the switchbox fields (R169, R170, R332), the orders at their ends (R55, R66, R119, R305), and the
connection checker (R50 to R52, R57, R172). -/

namespace Sys2Proof.Machine

/-! ## Tracing a channel back to its producer -/

/-- What a walk back from a consumer's track has met. -/
structure Trail where
  /-- the producer, once it is reached: cluster and unit port -/
  prodCl : Nat
  prodPort : Nat
  hops : Nat
  /-- hops between edge ports of adjacent clusters (R170) -/
  edges : Nat
  /-- it crosses between clusters that are not adjacent, so it rides the loops -/
  far : Bool
  /-- the fields that join the channel: cluster, element, field -/
  words : List (Nat × Nat × Nat)
  /-- the edge ports it crosses: cluster and port -/
  ports : List (Nat × Nat)
  deriving DecidableEq, Repr

/-- A channel as the tracks lay it: its consumer, the walk back to its producer, and the last track before the consumer. -/
structure Joint extends Trail where
  cl : Nat
  key : Nat
  /-- switchbox and L port of the last track -/
  box : Nat
  lport : Nat
  deriving DecidableEq, Repr

/-- The L port that delivers to a unit port. -/
def deliversTo (c : Cluster) (u : Nat × Nat) : Option (Nat × Nat) :=
  (List.range 32).findSome? (fun k => ([4, 5].find? (fun p => oselV (osel c k (2 * p)) && lunit c k p == u)).map (fun p => (k, p)))

/-- From an output track back to the producer, with what the walk has met so far. -/
def traceBack (get : Nat → Cluster) : Nat → Nat → Nat → Nat → Trail → Option Trail
  | 0, _, _, _, _ => none
  | n + 1, cl, k, t, r =>
    let c := get cl
    let r1 := { r with hops := r.hops + 1, words := (cl, 0x80 + k, t) :: r.words }
    if !oselV (osel c k t) then none
    else match trackBack c k t with
    | some (j, u) => traceBack get n cl j u r1
    | none =>
      let p := oselPort (osel c k t)
      if p < 4 then none
      else
        let u := lunit c k p
        let r2 := { r1 with words := (cl, 0x80 + k, 0x0C + (p - 4)) :: r1.words }
        if 0x30 ≤ u.1 ∧ u.1 ≤ 0x47 then
          let e := u.1 - 0x30
          let (pc, pe) := c.epPeer e
          let d := get pc
          if c.epEn e && !c.epOut e && d.epEn pe && d.epOut pe && !d.epEng pe && d.epPeer pe == (cl, e) then
            match deliversTo d (epEl pe, 0) with
            | some (j, q) => traceBack get n pc j (2 * q)
                { r2 with edges := if adjacent pc cl then r2.edges + 1 else r2.edges, far := r2.far || !adjacent pc cl, ports := (pc, pe) :: (cl, e) :: r2.ports,
                          words := (pc, 0x80 + j, 0x0C + (q - 4)) :: (pc, epEl pe, 0) :: (pc, epEl pe, 1) :: (cl, epEl e, 0) :: (cl, epEl e, 1) :: r2.words }
            | none => none
          else none
        else some { r2 with prodCl := cl, prodPort := portKey u.1 u.2 }

/-- A unit port that takes items. -/
def consumes (s : State) (cl : Nat) (u : Nat × Nat) : Bool :=
  let c := s.cluster cl
  if u.1 < 0x10 then decide (u.2 < 4)
  else if 0x18 ≤ u.1 ∧ u.1 ≤ 0x1F then !emits s cl (u.1 - 0x18)
  else if u.1 = 0x20 then c.handleUsed u.2 && !c.handleOut u.2 && !c.handleCmpl u.2
  else if u.1 = 0x21 then decide (u.2 < 2)
  else decide (0x30 ≤ u.1 ∧ u.1 ≤ 0x47) && c.epEng (u.1 - 0x30)

/-- A unit port that sends items. -/
def produces (s : State) (cl port : Nat) : Bool :=
  let c := s.cluster cl
  let el := port / 16
  let p := port % 16
  if el < 0x10 then decide (4 ≤ p)
  else if 0x18 ≤ el ∧ el ≤ 0x1F then emits s cl (el - 0x18)
  else if el = 0x20 then c.handleUsed p && c.handleOut p
  else el == 0x21 && p == 2

/-- The channels that end in a cluster. -/
def joints (s : State) (cl : Nat) : List Joint :=
  let c := s.cluster cl
  (List.range 32).flatMap (fun k => [4, 5].filterMap (fun p =>
    let u := lunit c k p
    if oselV (osel c k (2 * p)) && consumes s cl u then
      match traceBack s.cluster 4096 cl k (2 * p)
          { prodCl := 0, prodPort := 0, hops := 0, edges := 0, far := false, words := [(cl, 0x80 + k, 0x0C + (p - 4))], ports := [] } with
      | some r =>
        if produces s r.prodCl r.prodPort then some { r with cl := cl, key := portKey u.1 u.2, box := k, lport := p } else none
      | none => none
    else none))

/-! ## Orders at the ends -/

/-- What a channel end declares: a descriptor, an order that a stage gives, or the partner's. -/
inductive EndOrder where
  | desc (v : Nat)
  | given (o : Order)
  | partner
  | fault (f : Cause)
  deriving DecidableEq, Repr

/-- The order of head k of an element, when a channel ends there; an unconnected head carries none. -/
def joinedHead (s : State) (cl n k : Nat) : Option Order :=
  let c := s.cluster cl
  if (namedUnits c).any (fun u => u.2 == (n, k)) then some (c.headOrder n k) else none

/-- The order of output o of an element whose heads have some orders: that of the value routed to it (R55, R119). In an element with no
used head, I0's descriptor is the order of every orderless value, and no tag or weight of `seqtag` may stand in an element's lane of it (R130).
An output in use to which no stage routes a value counts as one that routes an orderless value: ORD.COVER, or I0's descriptor where the
element uses no head. DESIGN CHOICE: the spec gives such an output no order and no fault (log entry 45). -/
def outputOrder (c : Cluster) (n o : Nat) (hd : Nat → Option Order) : EndOrder :=
  let (ps, f) := composeOrders c n hd
  match f with
  | some f => .fault f
  | none =>
    match (c.routeOf n o).bind (fun st => ps.getD (st - 1) none) with
    | some ord => .given ord
    | none =>
      let v := c.descAt n 0x70
      if !(c.ceHeads n).isEmpty then .fault Cause.ordCover
      else if c.routeOf n o = some 6 ∧ (orderOf v).any (tagClash (c.ceFlow n) (c.spar n 6)) then .fault Cause.ordCover
      else .desc v

/-- A generator's descriptor, with TYPE 0 where it was committed in a reverse mode on a differentiable tensor (R305). -/
def agEnd (s : State) (cl g : Nat) : EndOrder :=
  let v := (s.cluster cl).descAt (agEl g) 8
  if inReverse s cl g then
    match orderOf v with
    | some o => if o.ragOk ∧ 1 < o.s then .fault Cause.ordCover else .desc (v / 16 * 16)
    | none => .desc v
  else .desc v

/-- The order at a unit port. -/
def endOrder (s : State) (cl port : Nat) : EndOrder :=
  let c := s.cluster cl
  let el := port / 16
  let p := port % 16
  if el < 0x10 then (if p < 4 then .desc (c.descAt el (0x70 + 8 * p)) else outputOrder c el (p - 4) (joinedHead s cl el))
  else if 0x18 ≤ el ∧ el ≤ 0x1F then agEnd s cl (el - 0x18)
  else if el = 0x21 then .desc (c.descAt el (8 + 8 * p))
  else .partner

/-- The first two checks of Table 3.4 at one end. -/
def endFault (e : EndOrder) : Option Cause :=
  match e with
  | .desc v => match orderOf v with
    | none => some Cause.ordDesc
    | some o => if o.ragOk then none else some Cause.ordRagged
  | .given o => if o.ragOk then none else some Cause.ordRagged
  | _ => none

/-- The order an end gives, once it has passed; none when it takes its partner's. -/
def EndOrder.order (e : EndOrder) : Except Cause (Option Order) :=
  match e with
  | .desc v => .ok (orderOf v)
  | .given o => .ok (some o)
  | .partner => .ok none
  | .fault f => .error f

/-- The ragged axes agree (R49). -/
def ragMatch (o p : Order) : Bool :=
  (!o.rag && !p.rag) || (o.rag && p.rag && (match o.outer, p.outer with
    | some a, some b => a.dim == b.dim && a.ext == b.ext
    | _, _ => false))

/-- The tests of R50 between the orders at a channel's two ends, and the store the channel needs (R51). -/
def joinOrders (o p : Order) : Except Cause (Option Store) :=
  if o.ty != p.ty then .error Cause.ordType
  else if !o.sameSet p then .error Cause.ordCover
  else if !ragMatch o p then .error Cause.ordRagged
  else if o.samePlaces p then .ok none
  else if o.t ≠ p.t then .error Cause.ordRate
  else
    let ps := beatPairs o p
    let delta := storeDelta ps
    .ok (some { delta := delta, granules := storeGranules (storeK ps o.t delta) o.ty, periods := [], a := 0, c := 0, issued := 0,
                ended := false, discard := false })

/-- The channel of a joint, or its first fault in the sequence of Table 3.4. The descriptor of an edge port it crosses stands the checks of
R45 and R49 alone (log entry 9). A channel of a sequencer handle or an engine-bound port takes the partner's order and is direct. Where both
ends take their partner's order, the channel has that of the first edge port it crosses, else one FP32 element a beat (`Order.blank`).
DESIGN CHOICE: the spec gives such a channel no order (log entry 49). -/
def joinChan (s : State) (j : Joint) : Except Cause Chan :=
  let c := s.cluster j.cl
  let pe := endOrder s j.prodCl j.prodPort
  let ce := endOrder s j.cl j.key
  let ring := if oselEl (osel c j.box (2 * j.lport)) then 2 ^ bitsAt (c.fieldN (0x80 + j.box) 0xE) 0 5 else 0
  let made := fun (o p : Order) (st : Option Store) =>
    ({ prodCl := j.prodCl, prodPort := j.prodPort, depth := Config.hopItems * (j.hops + j.edges), vc := if j.far then channelVc j.prodCl j.cl else none, op := o, oc := p, items := [],
       store := st, out := [], riding := [], ringSize := ring, ring := [], spilling := [], sink := false, live := false, mark := 0, took := 0 } : Chan)
  let crossed := j.ports.map (fun x => EndOrder.desc ((s.cluster x.1).descAt (epEl x.2) 8))
  match ([pe, ce] ++ crossed).filterMap endFault with
  | f :: fs => .error (if (f :: fs).contains Cause.ordDesc then Cause.ordDesc else f)
  | [] =>
    match pe.order, ce.order with
    | .error f, _ => .error f
    | _, .error f => .error f
    | .ok (some o), .ok (some p) => (joinOrders o p).map (made o p)
    | .ok x, .ok y =>
      let o := (x.orElse (fun _ => y)).getD ((crossed.findSome? (fun e => (e.order.toOption).bind id)).getD Order.blank)
      .ok (made o o none)

/-- Two channels join the same ends under the same orders. -/
def sameJoin (a b : Chan) : Bool :=
  a.prodCl == b.prodCl && a.prodPort == b.prodPort && a.depth == b.depth && a.op == b.op && a.oc == b.oc && a.ringSize == b.ringSize

/-! ## A configuration in prospect -/

/-- The clusters whose channels a commit on a cluster may touch: those of its task. -/
def groupOfCluster (s : State) (cl : Nat) : List Nat :=
  match (s.cluster cl).owner with
  | some t => s.clustersOf t
  | none => [cl]

/-- Generators named by field writes. -/
def namedAgs (keys : List Nat) : List Nat := (List.range 8).filter (fun g => keys.any (fun k => k / 256 == agEl g))

/-- A cluster with the fields and generator modes of a pending configuration. -/
def withFields (c : Cluster) (fields : SMap (BitVec 16)) (mode : Nat) : Cluster :=
  { c with cfg := fields.foldl (fun m f => SMap.set m f.1 f.2) c.cfg,
           agMode := (namedAgs (fields.map (·.1))).foldl (fun m g => SMap.set m g mode) c.agMode }

/-- The state in which every pending configuration of a group has taken effect. -/
def prospect (s : State) (cls : List Nat) : State :=
  cls.foldl (fun s k => match (s.cluster k).pending with
    | some p => s.setCluster k (withFields (s.cluster k) p.fields p.mode)
    | none => s) s

/-- The channels of a group under the fields in force: consumer cluster, key, channel. A joint that fails a check is none. -/
def rebuilt (s : State) (cls : List Nat) : List (Nat × Nat × Chan) :=
  cls.flatMap (fun k => (joints s k).filterMap (fun j => match joinChan s j with
    | .ok ch => some (k, j.key, ch)
    | .error _ => none))

/-- The channels in place that a configuration replaces or removes. -/
def replacedBy (s : State) (cls : List Nat) (new : List (Nat × Nat × Chan)) : List (Nat × Nat) :=
  cls.flatMap (fun k => (s.cluster k).chans.filterMap (fun x =>
    if new.any (fun n => n.1 == k && n.2.1 == x.1 && sameJoin n.2.2 x.2) then none else some (k, x.1)))

/-- Granules the task's stores may hold in a cluster: QUOTA, 0 standing for the whole pool (R172). -/
def Cluster.quotaGranules (c : Cluster) : Nat := if c.fieldN 0x23 0 = 0 then Config.poolGranules else Nat.min (c.fieldN 0x23 0) Config.poolGranules

/-- Granules of the stores in a list of channels of a cluster. -/
def granulesOf (chs : List (Nat × Nat × Chan)) (cl : Nat) : Nat :=
  chs.foldl (fun n x => if x.1 = cl then n + ((x.2.2.store.map (·.granules)).getD 0) else n) 0

/-- Where the words of a cluster's body that join a channel first appear (R52): those of every switchbox and edge port it passes. A channel
that none of them joins comes last. DEDUCED (log entry 9). -/
def wordIndex (cl : Nat) (fs : List FieldWrite) (j : Joint) : Nat :=
  (fs.findIdx? (fun w => j.words.contains (cl, w.1, w.2.1))).getD fs.length

/-- Joints in the sequence of their connecting words. -/
def insertJoint (cl : Nat) (fs : List FieldWrite) (j : Joint) : List Joint → List Joint
  | [] => [j]
  | x :: xs => if wordIndex cl fs j < wordIndex cl fs x then j :: x :: xs else x :: insertJoint cl fs j xs

/-- The descriptors of the ports that a cluster's switchboxes connect (R45, R66); that of an orderless output is I0's (R119). -/
def connectedDescs (c : Cluster) : List Nat :=
  (namedUnits c).filterMap (fun u =>
    let (el, p) := u.2
    if el < 0x10 then
      if p < 4 then some (c.descAt el (0x70 + 8 * p))
      else if !(c.ceHeads el).isEmpty then none
      else match outputOrder c el (p - 4) (fun _ => none) with
        | .desc v => some v
        | _ => none
    else if 0x18 ≤ el ∧ el ≤ 0x1F then some (c.descAt el 8)
    else if el = 0x21 then some (c.descAt el (8 + 8 * p))
    else if 0x30 ≤ el ∧ !c.epEng (el - 0x30) then some (c.descAt el 8)
    else none)

/-- The first order fault inside an element that a body names: of a stage, or of an output that no channel need leave (R119). -/
def insideFault (s : State) (cl n : Nat) : Option Cause :=
  let c := s.cluster cl
  let heads := fun k => some (c.headOrder n k)
  match (composeOrders c n (joinedHead s cl n)).2 with
  | some f => some f
  | none =>
    if (composeOrders c n heads).2.isSome then none
    else (c.ceRouted n).findSome? (fun o => match outputOrder c n o heads with
      | .fault f => some f
      | .desc v => endFault (.desc v)
      | _ => none)

/-- The order faults that no channel shows: the descriptor of a connected port whose channel has no other end (R45, R66), and a fault inside
an element that the body names. -/
def loneFault (s : State) (cl : Nat) (fs : List FieldWrite) : Option Cause :=
  match (connectedDescs (s.cluster cl)).findSome? (fun v => endFault (.desc v)) with
  | some f => some f
  | none => (List.range 16).findSome? (fun n => if fs.any (fun w => w.1 == n) then insideFault s cl n else none)

/-- Steps 3 and 4 of R63 for the field writes of a stream on a cluster: the pending configuration, or the first fault. R57 ranks the faults
of channels; a fault that no channel shows stands after every channel's and before ORD.SIZE. DESIGN CHOICE (log entry 44). -/
def checkFields (s : State) (cl : Nat) (fs : List FieldWrite) : Except Cause Pending :=
  let c := s.cluster cl
  let fields := overlay [] fs
  let cls := groupOfCluster s cl
  let p0 : Pending := { fields := fields, due := s.now, replaced := [], mode := c.dmode }
  let s1 := prospect (s.setCluster cl { c with pending := some p0 }) cls
  match elementsFault (s1.cluster cl) fs with
  | some f => .error f
  | none =>
    let js := (cls.flatMap (joints s1)).foldl (fun l j => insertJoint cl fs j l) []
    let made := js.map (fun j => (j, joinChan s1 j))
    -- channels created or changed
    let fresh := made.filter (fun x => match x.2 with
      | .ok ch => !((s.cluster x.1.cl).chan x.1.key).any (sameJoin ch)
      | .error _ => true)
    match fresh.findSome? (fun x => match x.2 with | .error f => some f | .ok _ => none) with
    | some f => .error f
    | none =>
      match loneFault s1 cl fs with
      | some f => .error f
      | none =>
        let new := made.filterMap (fun x => match x.2 with | .ok ch => some (x.1.cl, x.1.key, ch) | .error _ => none)
        if cls.any (fun k => fresh.any (fun x => x.1.cl == k) && decide ((s1.cluster k).quotaGranules < granulesOf new k)) then
          .error Cause.ordSize
        else
          let cycles := fresh.foldl (fun n x => match x.2 with
            | .ok ch => if ch.store.isSome then n + ceilDiv (ch.op.e * ch.op.t) 32 else n
            | .error _ => n) 0
          .ok { p0 with due := s.now + cycles + 1, replaced := replacedBy s cls new }

end Sys2Proof.Machine
end

