-- ==== Sys2Proof/Machine/Commit.lean ====
section
/-! DEFINITION. Configurations committing and taking effect (R8, R29, R43, R52, R62, R88, R134, R164, R167): CONFIG_COMMIT,
CONFIG_FIELDS_APPLY and STORE_RELEASE. -/

namespace Sys2Proof.Machine

/-- CONFIG_COMMIT: the stream is checked and waits to take effect, or nothing changes but the fault report (R8, R57). A cluster takes
one at a time. -/
def execConfigCommit (cl : Nat) (ws : List Lane) (s : State) : Host.Outcome State Fault Refusal :=
  let c := s.cluster cl
  if c.owner.isNone || c.pending.isSome then .next s
  else match parseStream ws with
  | .error f => .next (s.setCluster cl { c with report := f })
  | .ok (_, fs) =>
    match checkFields s cl fs with
    | .error f => .next (s.setCluster cl { c with report := f })
    | .ok p => .next (s.setCluster cl { c with pending := some p, report := 0#16 })

/-- A configuration writes field f of an element. -/
def Pending.writes (p : Pending) (el f : Nat) : Bool := (SMap.find p.fields (256 * el + f)).isSome

/-- A compute element takes its new fields: CTL clears its flags (R43), LCTRIP and CHAIN its counters and the finished mark
(R88, R134), the seed word its generators (R29). A write of LCTRIP or CHAIN also closes an open period of a counter source. DESIGN CHOICE
(log entry 45). -/
def applyCe (p : Pending) (n : Nat) (x : Ce) : Ce :=
  let x1 := if p.writes n 0 then { x with flags := Flag.none } else x
  let x2 := if [4, 5, 6, 7, 8].any (p.writes n) then { x1 with lc := [0, 0, 0, 0], opened := false, finished := false } else x1
  if p.writes n 0x0A || p.writes n 0x0B then { x2 with gens := [] } else x2

/-- Every unit of a cluster takes its new fields: beside the elements, the bank tokens written (R164) and the generators that
start one phase (R167). -/
def applyFields (c : Cluster) (p : Pending) : Cluster :=
  let c1 := { withFields c p.fields p.mode with pending := none }
  let c2 := (List.range 16).foldl (fun c n => if p.fields.any (fun f => f.1 / 256 == n) then c.setCe n (applyCe p n (c.ce n)) else c) c1
  let c3 := (List.range 32).foldl (fun c b =>
    if p.writes (0x10 + b / 4) (b % 4) then
      { c with tokens := SMap.set c.tokens b (tokenOf (c.fieldN (0x10 + b / 4) (b % 4))), handoffs := c.handoffs.filter (fun h => h.bank != b) }
    else c) c2
  (List.range 8).foldl (fun c g =>
    if p.writes (agEl g) 0 then c.setAg g { c.ag g with auto := c.agEn g && c.agAuto g && !c.swTile (agEl g) } else c) c3

/-- The channels of a cluster: those that stay as they were keep what they hold. -/
def keepChans (old : SMap Chan) (new : List (Nat × Chan)) : SMap Chan :=
  new.foldl (fun m n =>
    let ch := match SMap.find old n.1 with
      | some x => if sameJoin n.2 x then x else n.2
      | none => n.2
    SMap.set m n.1 ch) []

/-- The channels of a group are laid anew. -/
def relay (s : State) (cls : List Nat) : State :=
  let new := rebuilt s cls
  cls.foldl (fun s k => s.modCluster k (fun c => { c with chans := keepChans c.chans ((new.filter (fun n => n.1 == k)).map (·.2)) })) s

/-- What a changed unit still does under its old fields: beats in a pipeline or held by block lag, firings in flight, a phase, or the phase that AUTO has started
with its commit (R167). -/
def busyUnit (c : Cluster) (p : Pending) : Bool :=
  (p.fields.any (fun f => f.1 / 256 == 0x20) && !c.ctxs.isEmpty) || (List.range 16).any (fun n => p.fields.any (fun f => f.1 / 256 == n) && !((c.ce n).pipe.isEmpty && (c.ce n).lag.isEmpty))
    || (namedAgs (p.fields.map (·.1))).any (fun g => (c.ag g).phase.isSome || (c.ag g).auto)

/-- The stores of a cluster take blocks of the pool for their granules (R177): a free block is the task's at once, a victim's once
it is claimed. The block a store stands in is the model's own choice. DESIGN CHOICE (log entry 41). -/
def Cluster.takePool (c : Cluster) : Cluster :=
  let n := c.chans.foldl (fun n ch => n + ((ch.2.store.map (·.granules)).getD 0)) 0
  let blocks := ((c.unitSequence ((List.range 128).map (32 + ·))).take (ceilDiv n 64))
  blocks.foldl Cluster.take { c with poolBlocks := blocks.map (· - 32) }

/-- CONFIG_FIELDS_APPLY: the new fields take effect all at once. -/
def execConfigFieldsApply (cl : Nat) (s : State) : Host.Outcome State Fault Refusal :=
  let c := s.cluster cl
  match c.pending with
  | none => .next s
  | some p =>
    if !s.replacedIdle p || busyUnit c p then .next s
    else
      let s0 := s.upTo p.due
      let s1 := s0.setCluster cl ((List.range 8).foldl (tileStart s0.now) (applyFields c p))
      let cls := groupOfCluster s1 cl
      .next (cls.foldl (fun s k => (refresh s k).modCluster k Cluster.takePool) (relay s1 cls))

/-- STORE_RELEASE: the granules of a replaced store return to the pool once its channel has carried EOS. -/
def execStoreRelease (cl port : Nat) (s : State) : Host.Outcome State Fault Refusal :=
  let going := s.clusters.any (fun k => match k.2.pending with
    | some p => p.replaced.contains (cl, port)
    | none => false)
  match (s.cluster cl).chan port with
  | some ch =>
    if going && !ch.live then
      .next (s.modChan cl port (fun ch => { ch with store := ch.store.map (fun st => { st with granules := 0 }) }))
    else .next s
  | none => .next s

end Sys2Proof.Machine
end

