-- ==== Sys2Proof/Machine/Codec.lean ====
section
/-! DEFINITION. The decompression formats of Table 23.3. PRESUMED (log entry 23): the manual names the formats by their RFCs and
does not lay them out; they are written here from general knowledge of RFC 1951, RFC 1950, RFC 8878 and the LZ4 block format. -/

namespace Sys2Proof.Machine

/-! ## Output -/

/-- Output so far, last byte first, its length, and the capacity. -/
structure Out where
  rev : List Byte
  n : Nat
  cap : Nat

/-- A decoder's failure: its status and the output before it. -/
abbrev DecRes (α : Type) := Except (Cause × Out) α

def Out.push (o : Out) (b : Byte) : DecRes Out :=
  if o.cap ≤ o.n then .error (Cause.dxOverrun, o) else .ok { o with rev := b :: o.rev, n := o.n + 1 }

def Out.pushAll (o : Out) : List Byte → DecRes Out
  | [] => .ok o
  | b :: bs => match o.push b with
    | .ok o1 => o1.pushAll bs
    | .error e => .error e

/-- Copies n bytes from a distance back, byte by byte. -/
def Out.copy (o : Out) (dist : Nat) : Nat → DecRes Out
  | 0 => .ok o
  | n + 1 => match o.push (o.rev.getD (dist - 1) 0#8) with
    | .ok o1 => o1.copy dist n
    | .error e => .error e

/-- A match; a distance beyond the output is malformed. -/
def Out.back (o : Out) (dist n : Nat) : DecRes Out :=
  if dist = 0 ∨ o.n < dist then .error (Cause.dxFormat, o) else o.copy dist n

/-! ## LZ4 block -/

/-- A length's further bytes: 255 says that another follows. -/
def lz4More : List Byte → Nat → Option (Nat × List Byte)
  | [], _ => none
  | b :: bs, n => if b.toNat = 255 then lz4More bs (n + 255) else some (n + b.toNat, bs)

def lz4Len (nibble : Nat) (bs : List Byte) : Option (Nat × List Byte) := if nibble = 15 then lz4More bs 15 else some (nibble, bs)

/-- Sequences up to the last one, which has literals only. -/
def lz4Go : Nat → List Byte → Out → DecRes Out
  | 0, _, o => .error (Cause.dxFormat, o)
  | _ + 1, [], o => .error (Cause.dxFormat, o)
  | fuel + 1, t :: bs, o =>
    match lz4Len (t.toNat / 16) bs with
    | none => .error (Cause.dxFormat, o)
    | some (ll, r) =>
      match o.pushAll (r.take ll) with
      | .error e => .error e
      | .ok o1 =>
        if r.length < ll then .error (Cause.dxFormat, o1)
        else match r.drop ll with
        | [] => if t.toNat % 16 = 0 then .ok o1 else .error (Cause.dxFormat, o1)
        | [_] => .error (Cause.dxFormat, o1)
        | l :: h :: r1 =>
          match lz4Len (t.toNat % 16) r1 with
          | none => .error (Cause.dxFormat, o1)
          | some (ml, r2) =>
            match o1.back (l.toNat + 256 * h.toNat) (ml + 4) with
            | .error e => .error e
            | .ok o2 => lz4Go fuel r2 o2

def lz4Block (bs : List Byte) (cap : Nat) : DecRes Out := lz4Go (bs.length + 1) bs { rev := [], n := 0, cap := cap }

/-! ## Bits, least significant first -/

/-- A bit string and the place in it. -/
structure Bits where
  v : Nat
  len : Nat
  pos : Nat

def Bits.of (bs : List Byte) : Bits := { v := natOfBytes bs, len := 8 * bs.length, pos := 0 }
/-- The next n bits; none when fewer are left. -/
def Bits.take (b : Bits) (n : Nat) : Option (Nat × Bits) :=
  if b.len < b.pos + n then none else some (bitsAt b.v b.pos n, { b with pos := b.pos + n })
/-- On to the next byte. -/
def Bits.align (b : Bits) : Bits := { b with pos := ceilDiv b.pos 8 * 8 }

/-! ## DEFLATE -/

/-- A canonical prefix code: codes of each length 1 to 15, and the symbols in code order. -/
structure Huff where
  counts : List Nat
  syms : List Nat

/-- The code of a list of lengths; none when it is over-subscribed. -/
def huffOf (lens : List Nat) : Option Huff :=
  let counts := (List.range 15).map (fun k => (lens.filter (· == k + 1)).length)
  let left := counts.foldl (fun (l : Int) (c : Nat) => 2 * l - (c : Int)) 1
  let bad := ((List.range 15).map (fun k => (counts.take (k + 1)).foldl (fun (l : Int) (c : Nat) => 2 * l - (c : Int)) 1)).any (· < 0)
  if bad ∨ left < 0 then none
  else some { counts := counts,
              syms := (List.range 15).flatMap (fun k => ((List.range lens.length).zip lens).filterMap (fun p => if p.2 = k + 1 then some p.1 else none)) }

/-- Reads one symbol: its code bit by bit. -/
def huffSym (h : Huff) : List Nat → Nat → Nat → Nat → Bits → Option (Nat × Bits)
  | [], _, _, _, _ => none
  | c :: cs, code, first, index, b => match b.take 1 with
    | none => none
    | some (x, b1) =>
      let code := code + x
      if code < first + c then (h.syms[index + (code - first)]?).map (fun s => (s, b1))
      else huffSym h cs (2 * code) (2 * (first + c)) (index + c) b1

def Huff.read (h : Huff) (b : Bits) : Option (Nat × Bits) := huffSym h h.counts 0 0 0 b

def lenBase : List Nat := [3, 4, 5, 6, 7, 8, 9, 10, 11, 13, 15, 17, 19, 23, 27, 31, 35, 43, 51, 59, 67, 83, 99, 115, 131, 163, 195, 227, 258]
def lenExtra : List Nat := [0, 0, 0, 0, 0, 0, 0, 0, 1, 1, 1, 1, 2, 2, 2, 2, 3, 3, 3, 3, 4, 4, 4, 4, 5, 5, 5, 5, 0]
def distBase : List Nat :=
  [1, 2, 3, 4, 5, 7, 9, 13, 17, 25, 33, 49, 65, 97, 129, 193, 257, 385, 513, 769, 1025, 1537, 2049, 3073, 4097, 6145, 8193, 12289, 16385, 24577]
def distExtra : List Nat := [0, 0, 0, 0, 1, 1, 2, 2, 3, 3, 4, 4, 5, 5, 6, 6, 7, 7, 8, 8, 9, 9, 10, 10, 11, 11, 12, 12, 13, 13]

/-- Literals and matches up to the end of a block. -/
def inflateCodes (lit dist : Huff) : Nat → Bits → Out → DecRes (Bits × Out)
  | 0, _, o => .error (Cause.dxFormat, o)
  | fuel + 1, b, o =>
    let bad := Except.error (Cause.dxFormat, o)
    match lit.read b with
    | none => bad
    | some (s, b1) =>
      if s < 256 then match o.push (BitVec.ofNat 8 s) with
        | .ok o1 => inflateCodes lit dist fuel b1 o1
        | .error e => .error e
      else if s = 256 then .ok (b1, o)
      else if 285 < s then bad
      else match b1.take (lenExtra.getD (s - 257) 0) with
        | none => bad
        | some (x, b2) => match dist.read b2 with
          | none => bad
          | some (d, b3) =>
            if 29 < d then bad
            else match b3.take (distExtra.getD d 0) with
              | none => bad
              | some (y, b4) => match o.back (distBase.getD d 0 + y) (lenBase.getD (s - 257) 0 + x) with
                | .ok o1 => inflateCodes lit dist fuel b4 o1
                | .error e => .error e

/-- Code lengths of a dynamic block, run lengths expanded. -/
def codeLens (h : Huff) (want : Nat) : Nat → Bits → List Nat → Option (List Nat × Bits)
  | 0, _, _ => none
  | fuel + 1, b, acc =>
    if want ≤ acc.length then (if acc.length = want then some (acc, b) else none)
    else match h.read b with
      | none => none
      | some (s, b1) =>
        if s < 16 then codeLens h want fuel b1 (acc ++ [s])
        else if s = 16 then match acc.getLast?, b1.take 2 with
          | some p, some (x, b2) => codeLens h want fuel b2 (acc ++ List.replicate (3 + x) p)
          | _, _ => none
        else match b1.take (if s = 17 then 3 else 7) with
          | some (x, b2) => codeLens h want fuel b2 (acc ++ List.replicate ((if s = 17 then 3 else 11) + x) 0)
          | none => none

def fixedLit : List Nat := List.replicate 144 8 ++ List.replicate 112 9 ++ List.replicate 24 7 ++ List.replicate 8 8
def lensOrder : List Nat := [16, 17, 18, 0, 8, 7, 9, 6, 10, 5, 11, 4, 12, 3, 13, 2, 14, 1, 15]

/-- The codes of a dynamic block. -/
def dynamicCodes (b : Bits) : Option (Huff × Huff × Bits) :=
  (b.take 14).bind (fun (x, b1) =>
    let hlit := 257 + bitsAt x 0 5
    let hdist := 1 + bitsAt x 5 5
    let hclen := 4 + bitsAt x 10 4
    if 286 < hlit ∨ 30 < hdist then none else
    (b1.take (3 * hclen)).bind (fun (y, b2) =>
      let cl := (List.range 19).map (fun s => match lensOrder.findIdx? (· == s) with
        | some k => if k < hclen then bitsAt y (3 * k) 3 else 0
        | none => 0)
      (huffOf cl).bind (fun h => (codeLens h (hlit + hdist) (hlit + hdist + 1) b2 []).bind (fun (ls, b3) =>
        (huffOf (ls.take hlit)).bind (fun lit => (huffOf (ls.drop hlit)).map (fun dist => (lit, dist, b3)))))))

/-- Blocks up to the final one. -/
def inflateBlocks : Nat → Bits → Out → DecRes (Bits × Out)
  | 0, _, o => .error (Cause.dxFormat, o)
  | fuel + 1, b, o =>
    let bad := Except.error (Cause.dxFormat, o)
    match b.take 3 with
    | none => bad
    | some (h, b1) =>
      let body : DecRes (Bits × Out) := match h / 2 with
        | 0 => match b1.align.take 32 with
          | none => bad
          | some (x, b2) =>
            let n := bitsAt x 0 16
            if bitsAt x 16 16 ≠ 65535 - n then bad
            else match b2.take (8 * Nat.min n ((b2.len - b2.pos) / 8)) with
              | none => bad
              | some (v, b3) => match o.pushAll (bytesOfNat (Nat.min n ((b2.len - b2.pos) / 8)) v) with
                | .ok o1 => if (b2.len - b2.pos) / 8 < n then .error (Cause.dxFormat, o1) else .ok (b3, o1)
                | .error e => .error e
        | 1 => match huffOf fixedLit, huffOf (List.replicate 30 5) with
          | some lit, some dist => inflateCodes lit dist (b1.len + 1) b1 o
          | _, _ => bad
        | 2 => match dynamicCodes b1 with
          | some (lit, dist, b2) => inflateCodes lit dist (b1.len + 1) b2 o
          | none => bad
        | _ => bad
      match body with
      | .error e => .error e
      | .ok (b2, o1) => if h % 2 = 1 then .ok (b2, o1) else inflateBlocks fuel b2 o1

/-- Adler-32 of a byte string. -/
def adler32 (bs : List Byte) : Nat :=
  let (a, b) := bs.foldl (fun (p : Nat × Nat) x => ((p.1 + x.toNat) % 65521, (p.2 + (p.1 + x.toNat) % 65521) % 65521)) (1, 0)
  65536 * b + a

def inflateRaw (bs : List Byte) (cap : Nat) : DecRes Out :=
  match inflateBlocks (8 * bs.length + 1) (Bits.of bs) { rev := [], n := 0, cap := cap } with
  | .error e => .error e
  | .ok (b, o) => if b.align.pos = b.len then .ok o else .error (Cause.dxFormat, o)

/-- RFC 1950: header, raw DEFLATE, Adler-32. -/
def inflateZlib (bs : List Byte) (cap : Nat) : DecRes Out :=
  let o0 : Out := { rev := [], n := 0, cap := cap }
  match bs with
  | cmf :: flg :: body =>
    if (256 * cmf.toNat + flg.toNat) % 31 ≠ 0 then .error (Cause.dxCheck, o0)
    else if cmf.toNat % 16 ≠ 8 ∨ 7 < cmf.toNat / 16 ∨ bitAt flg.toNat 5 then .error (Cause.dxFormat, o0)
    else match inflateBlocks (8 * body.length + 1) (Bits.of body) o0 with
      | .error e => .error e
      | .ok (b, o) =>
        let at0 := b.align.pos / 8
        let sum := (body.drop at0).take 4
        if body.length ≠ at0 + 4 then .error (Cause.dxFormat, o)
        else if natOfBytes sum.reverse ≠ adler32 o.rev.reverse then .error (Cause.dxCheck, o)
        else .ok o
  | _ => .error (Cause.dxFormat, o0)

/-! ## Zstandard: backward bit strings, FSE and Huffman tables -/

/-- A backward bit string: its value and the bits not yet read. -/
structure Back where
  v : Nat
  left : Int

/-- The backward bit string of bytes: the highest bit set is the end mark. -/
def Back.of (bs : List Byte) : Option Back :=
  match bs.getLast? with
  | some b => if b.toNat = 0 then none else some { v := natOfBytes bs, left := (Nat.log2 (natOfBytes bs) : Int) }
  | none => none

/-- The n bits at the top of what is left; bits below the start are zero. -/
def Back.peek (b : Back) (n : Nat) : Nat :=
  if b.left ≤ 0 then 0
  else
    let l := b.left.toNat
    if n ≤ l then bitsAt b.v (l - n) n else bitsAt b.v 0 l * 2 ^ (n - l)

def Back.take (b : Back) (n : Nat) : Nat × Back := (b.peek n, { b with left := b.left - (n : Int) })

/-- An FSE decoding table: symbol, bits to read and base of each state. -/
abbrev Fse := List (Nat × Nat × Nat)

/-- Places the symbols of positive probability over the states below `high`. -/
def fseSpread (size high : Nat) : Nat → List Nat → Nat → List Nat → List Nat
  | 0, _, _, tab => tab
  | _ + 1, [], _, tab => tab
  | fuel + 1, s :: ss, pos, tab =>
    if high ≤ pos then fseSpread size high fuel (s :: ss) ((pos + size / 2 + size / 8 + 3) % size) tab
    else fseSpread size high fuel ss ((pos + size / 2 + size / 8 + 3) % size) (tab.set pos s)

/-- The table of a distribution: −1 is a probability below one. -/
def fseTable (log : Nat) (probs : List Int) : Fse :=
  let size := 2 ^ log
  let syms := (List.range probs.length).zip probs
  let low := syms.filterMap (fun p => if p.2 = -1 then some p.1 else none)
  let high := size - low.length
  let tab0 := (List.replicate high 0) ++ low.reverse
  let tab := fseSpread size high (2 * size) (syms.flatMap (fun p => List.replicate p.2.toNat p.1)) 0 tab0
  let (out, _) := tab.foldl (fun (acc : Fse × SMap Nat) s =>
    let p := probs.getD s 0
    let d := SMap.get acc.2 (if p = -1 then 1 else p.toNat) s
    let nb := log - Nat.log2 d
    ((s, nb, d * 2 ^ nb - size) :: acc.1, SMap.set acc.2 s (d + 1))) ([], [])
  out.reverse

/-- Zero probabilities that a zero is followed by. -/
def fseZeros : Nat → Bits → List Int → Option (List Int × Bits)
  | 0, _, _ => none
  | fuel + 1, b, acc => match b.take 2 with
    | none => none
    | some (r, b1) =>
      let acc1 := acc ++ List.replicate r 0
      if r = 3 then fseZeros fuel b1 acc1 else some (acc1, b1)

/-- The probabilities of a table description. -/
def fseProbs (maxSym : Nat) : Nat → Nat → Bits → List Int → Option (List Int × Bits)
  | 0, _, _, _ => none
  | fuel + 1, remaining, b, acc =>
    if remaining = 0 then (if acc.length ≤ maxSym + 1 then some (acc, b) else none)
    else if maxSym < acc.length then none
    else
      let bits := Nat.log2 (remaining + 1) + 1
      let avail := if b.len - b.pos < bits then b.len - b.pos else bits
      match b.take avail with
      | none => none
      | some (v, b1) =>
        let low := v % 2 ^ (bits - 1)
        let thr := 2 ^ bits - 1 - (remaining + 1)
        let (val, b2) := if low < thr then (low, { b with pos := b.pos + bits - 1 })
          else (if 2 ^ (bits - 1) ≤ v then v - thr else v, { b1 with pos := b.pos + bits })
        if b2.len < b2.pos then none
        else
          let p : Int := (val : Int) - 1
          if remaining < p.natAbs then none
          else if p = 0 then match fseZeros 256 b2 (acc ++ [0]) with
            | none => none
            | some (acc1, b3) => fseProbs maxSym fuel remaining b3 acc1
          else fseProbs maxSym fuel (remaining - p.natAbs) b2 (acc ++ [p])

/-- A table description at the start of a byte string: log, table, and the bytes behind it. -/
def fseRead (maxLog maxSym : Nat) (bs : List Byte) : Option (Nat × Fse × List Byte) :=
  let b := Bits.of bs
  (b.take 4).bind (fun (x, b1) =>
    let log := x + 5
    if maxLog < log then none
    else (fseProbs maxSym (maxSym + 2 ^ log + 2) (2 ^ log) b1 []).map (fun (ps, b2) => (log, fseTable log ps, bs.drop (b2.align.pos / 8))))

def Fse.sym (t : Fse) (s : Nat) : Nat := (t.getD s (0, 0, 0)).1
def Fse.next (t : Fse) (s : Nat) (b : Back) : Nat × Back :=
  let e := t.getD s (0, 0, 0)
  let (v, b1) := b.take e.2.1
  (e.2.2 + v, b1)

/-- Huffman weights under FSE: two states take turns until the bits run out. -/
def fseWeights (t : Fse) : Nat → Nat → Nat → Back → List Nat → Option (List Nat)
  | 0, _, _, _, _ => none
  | fuel + 1, s1, s2, b, acc =>
    let acc1 := acc ++ [t.sym s1]
    let (n1, b1) := t.next s1 b
    if b1.left < 0 then some (acc1 ++ [t.sym s2])
    else fseWeights t fuel s2 n1 b1 acc1

/-- A Huffman table: the width of its index, and the symbol and bits of each index. -/
structure HTab where
  bits : Nat
  tab : List (Nat × Nat)

/-- The table of the weights of all symbols but the last, whose weight completes a power of two. -/
def huffTab (ws : List Nat) : Option HTab :=
  let total := ws.foldl (fun n w => if w = 0 then n else n + 2 ^ (w - 1)) 0
  if total = 0 ∨ 255 < ws.length ∨ ws.any (fun w => decide (12 < w)) then none
  else
    let bits := Nat.log2 total + 1
    let left := 2 ^ bits - total
    if left ≠ 2 ^ Nat.log2 left ∨ 11 < bits then none
    else
      let all := ws ++ [Nat.log2 left + 1]
      let syms := (List.range all.length).zip all
      some { bits := bits,
             tab := (List.range bits).flatMap (fun k =>
               syms.flatMap (fun p => if p.2 = k + 1 then List.replicate (2 ^ k) (p.1, bits - k) else [])) }

/-- A tree description. -/
def huffRead (bs : List Byte) : Option (HTab × List Byte) :=
  match bs with
  | [] => none
  | h :: r =>
    if h.toNat < 128 then
      if r.length < h.toNat then none
      else (fseRead 6 12 (r.take h.toNat)).bind (fun (log, t, rest) => (Back.of rest).bind (fun b =>
        let (s1, b1) := b.take log
        let (s2, b2) := b1.take log
        if b2.left < 0 then none
        else (fseWeights t 256 s1 s2 b2 []).bind (fun ws => (huffTab ws).map (fun t => (t, r.drop h.toNat)))))
    else
      let n := h.toNat - 127
      let nb := ceilDiv n 2
      if r.length < nb then none
      else
        let ws := ((r.take nb).flatMap (fun b => [b.toNat / 16, b.toNat % 16])).take n
        (huffTab ws).map (fun t => (t, r.drop nb))

/-- Symbols of one backward stream, until its bits are all read. -/
def huffStream (t : HTab) : Nat → Back → List Byte → Option (List Byte)
  | 0, b, acc => if b.left = 0 then some acc.reverse else none
  | fuel + 1, b, acc =>
    if b.left = 0 then some acc.reverse
    else
      let e := t.tab.getD (b.peek t.bits) (0, 0)
      if b.left < (e.2 : Int) then none
      else huffStream t fuel { b with left := b.left - (e.2 : Int) } (BitVec.ofNat 8 e.1 :: acc)

/-- A stream of n symbols. -/
def huffN (t : HTab) (bs : List Byte) (n : Nat) : Option (List Byte) :=
  (Back.of bs).bind (fun b => (huffStream t n b []).bind (fun out => if out.length = n then some out else none))

/-! ## Zstandard: blocks -/

/-- What one block leaves to the next: the Huffman table, the three sequence tables, the repeated offsets. -/
structure Zst where
  huff : Option HTab
  ll : Option (Nat × Fse)
  of : Option (Nat × Fse)
  ml : Option (Nat × Fse)
  reps : Nat × Nat × Nat

def llDefault : List Int :=
  [4, 3, 2, 2, 2, 2, 2, 2, 2, 2, 2, 2, 2, 1, 1, 1, 2, 2, 2, 2, 2, 2, 2, 2, 2, 3, 2, 1, 1, 1, 1, 1, -1, -1, -1, -1]
def mlDefault : List Int :=
  [1, 4, 3, 2, 2, 2, 2, 2, 2] ++ List.replicate 37 1 ++ [-1, -1, -1, -1, -1, -1, -1]
def ofDefault : List Int := [1, 1, 1, 1, 1, 1, 2, 2, 2] ++ List.replicate 15 1 ++ [-1, -1, -1, -1, -1]

def llBase : List Nat :=
  List.range 16 ++ [16, 18, 20, 22, 24, 28, 32, 40, 48, 64, 128, 256, 512, 1024, 2048, 4096, 8192, 16384, 32768, 65536]
def llExtra : List Nat := List.replicate 16 0 ++ [1, 1, 1, 1, 2, 2, 3, 3, 4, 6, 7, 8, 9, 10, 11, 12, 13, 14, 15, 16]
def mlBase : List Nat :=
  (List.range 32).map (· + 3) ++ [35, 37, 39, 41, 43, 47, 51, 59, 67, 83, 99, 131, 259, 515, 1027, 2051, 4099, 8195, 16387, 32771, 65539]
def mlExtra : List Nat := List.replicate 32 0 ++ [1, 1, 1, 1, 2, 2, 3, 3, 4, 4, 5, 7, 8, 9, 10, 11, 12, 13, 14, 15, 16]

/-- Literals of a block: bytes, the Huffman table to keep, and what follows. -/
def zstLiterals (z : Zst) (bs : List Byte) : Option (List Byte × Option HTab × List Byte) :=
  match bs with
  | [] => none
  | h :: _ =>
    let ty := h.toNat % 4
    let sf := h.toNat / 4 % 4
    let v := natOfBytes (bs.take 5)
    if ty ≤ 1 then
      let (n, hl) := if sf % 2 = 0 then (bitsAt v 3 5, 1) else if sf = 1 then (bitsAt v 4 12, 2) else (bitsAt v 4 20, 3)
      let body := bs.drop hl
      if bs.length < hl then none
      else if ty = 0 then (if body.length < n then none else some (body.take n, z.huff, body.drop n))
      else match body with
        | b :: r => some (List.replicate n b, z.huff, r)
        | [] => none
    else
      let (w, hl) := if sf ≤ 1 then (10, 3) else if sf = 2 then (14, 4) else (18, 5)
      let n := bitsAt v 4 w
      let c := bitsAt v (4 + w) w
      let body := bs.drop hl
      if bs.length < hl ∨ body.length < c then none
      else
        let tree := if ty = 2 then huffRead (body.take c) else z.huff.map (fun t => (t, body.take c))
        tree.bind (fun (t, str) =>
          let lits := if sf = 0 then huffN t str n
            else if str.length < 6 then none
            else
              let s1 := natOfBytes (str.take 2)
              let s2 := natOfBytes ((str.drop 2).take 2)
              let s3 := natOfBytes ((str.drop 4).take 2)
              let d := str.drop 6
              let q := (n + 3) / 4
              if d.length < s1 + s2 + s3 ∨ n < 3 * q then none
              else (huffN t (d.take s1) q).bind (fun a => (huffN t ((d.drop s1).take s2) q).bind (fun b =>
                (huffN t ((d.drop (s1 + s2)).take s3) q).bind (fun e => (huffN t (d.drop (s1 + s2 + s3)) (n - 3 * q)).map (fun f => a ++ b ++ e ++ f))))
          lits.map (fun l => (l, some t, body.drop c)))

/-- One of the three sequence tables under its mode. -/
def zstTable (mode maxLog maxSym : Nat) (dflt : Nat × List Int) (prev : Option (Nat × Fse)) (bs : List Byte) :
    Option ((Nat × Fse) × List Byte) :=
  match mode with
  | 0 => some ((dflt.1, fseTable dflt.1 dflt.2), bs)
  | 1 => match bs with
    | b :: r => if maxSym < b.toNat then none else some ((0, [(b.toNat, 0, 0)]), r)
    | [] => none
  | 2 => (fseRead maxLog maxSym bs).map (fun (l, t, r) => ((l, t), r))
  | _ => prev.map (fun p => (p, bs))

/-- The offset of a sequence and the repeated offsets after it; none for an offset of 0. -/
def zstOffset (reps : Nat × Nat × Nat) (v ll : Nat) : Option (Nat × (Nat × Nat × Nat)) :=
  let (a, b, c) := reps
  if 3 < v then some (v - 3, (v - 3, a, b))
  else match (if ll = 0 then v else v - 1) with
    | 0 => some (a, (a, b, c))
    | 1 => some (b, (b, a, c))
    | 2 => some (c, (c, a, b))
    | _ => if a ≤ 1 then none else some (a - 1, (a - 1, a, b))

/-- Sequences of a block: literals, then a match, and at the end the literals that are left. -/
def zstSeqs (ll ml of : Fse) (window : Nat) : Nat → Nat → Nat → Nat → Back → List Byte → (Nat × Nat × Nat) → Out → DecRes ((Nat × Nat × Nat) × Out)
  | 0, _, _, _, b, lits, reps, o =>
    if b.left ≠ 0 then .error (Cause.dxFormat, o)
    else match o.pushAll lits with
      | .ok o1 => .ok (reps, o1)
      | .error e => .error e
  | n + 1, sl, sm, so, b, lits, reps, o =>
    let oc := of.sym so
    let (ov, b1) := b.take oc
    let (mv, b2) := b1.take (mlExtra.getD (ml.sym sm) 0)
    let (lv, b3) := b2.take (llExtra.getD (ll.sym sl) 0)
    let nl := llBase.getD (ll.sym sl) 0 + lv
    if b3.left < 0 then .error (Cause.dxFormat, o)
    else match o.pushAll (lits.take nl) with
      | .error e => .error e
      | .ok o1 =>
        if lits.length < nl then .error (Cause.dxFormat, o1)
        else match zstOffset reps (2 ^ oc + ov) nl with
        | none => .error (Cause.dxFormat, o1)
        | some (dist, reps1) =>
          if window < dist then .error (Cause.dxFormat, o1)
          else match o1.back dist (mlBase.getD (ml.sym sm) 0 + mv) with
          | .error e => .error e
          | .ok o2 =>
            if n = 0 then zstSeqs ll ml of window 0 0 0 0 b3 (lits.drop nl) reps1 o2
            else
              let (sl1, c1) := ll.next sl b3
              let (sm1, c2) := ml.next sm c1
              let (so1, c3) := of.next so c2
              if c3.left < 0 then .error (Cause.dxFormat, o2)
              else zstSeqs ll ml of window n sl1 sm1 so1 c3 (lits.drop nl) reps1 o2

/-- The number of sequences, and what follows it. -/
def zstCount (bs : List Byte) : Option (Nat × List Byte) :=
  match bs with
  | [] => none
  | b0 :: r =>
    if b0.toNat < 128 then some (b0.toNat, r)
    else match r with
      | [] => none
      | b1 :: r1 =>
        if b0.toNat < 255 then some ((b0.toNat - 128) * 256 + b1.toNat, r1)
        else match r1 with
          | [] => none
          | b2 :: r2 => some (b1.toNat + 256 * b2.toNat + 32512, r2)

/-- The tables of a block's sequences and its backward bit string. -/
def zstTables (z : Zst) (bs : List Byte) : Option ((Nat × Fse) × (Nat × Fse) × (Nat × Fse) × Back) :=
  match bs with
  | [] => none
  | m :: r =>
    if m.toNat % 4 ≠ 0 then none
    else (zstTable (m.toNat / 64) 9 35 (6, llDefault) z.ll r).bind (fun (ll, r1) =>
      (zstTable (m.toNat / 16 % 4) 8 31 (5, ofDefault) z.of r1).bind (fun (of, r2) =>
        (zstTable (m.toNat / 4 % 4) 9 52 (6, mlDefault) z.ml r2).bind (fun (ml, r3) => (Back.of r3).map (fun b => (ll, of, ml, b)))))

/-- A compressed block. -/
def zstBlock (z : Zst) (window : Nat) (bs : List Byte) (o : Out) : DecRes (Zst × Out) :=
  let bad := Except.error (Cause.dxFormat, o)
  match zstLiterals z bs with
  | none => bad
  | some (lits, ht, r) => match zstCount r with
    | none => bad
    | some (0, r1) =>
      if !r1.isEmpty then bad
      else match o.pushAll lits with
        | .ok o1 => .ok ({ z with huff := ht }, o1)
        | .error e => .error e
    | some (n, r1) => match zstTables z r1 with
      | none => bad
      | some (ll, of, ml, b) =>
        let (sl, b1) := b.take ll.1
        let (so, b2) := b1.take of.1
        let (sm, b3) := b2.take ml.1
        if b3.left < 0 then bad
        else match zstSeqs ll.2 ml.2 of.2 window n sl sm so b3 lits z.reps o with
          | .ok (reps, o1) => .ok ({ huff := ht, ll := some ll, of := some of, ml := some ml, reps := reps }, o1)
          | .error e => .error e

/-- Blocks up to the last one. -/
def zstBlocks (window : Nat) : Nat → Zst → List Byte → Out → DecRes (List Byte × Out)
  | 0, _, _, o => .error (Cause.dxFormat, o)
  | fuel + 1, z, bs, o =>
    if bs.length < 3 then .error (Cause.dxFormat, o)
    else
      let h := natOfBytes (bs.take 3)
      let n := h / 8
      let r := bs.drop 3
      let most := Nat.min window 131072
      let step : DecRes (Zst × List Byte × Out) :=
        if most < n then .error (Cause.dxFormat, o)
        else match h / 2 % 4 with
        | 0 => match o.pushAll (r.take n) with
          | .ok o1 => if r.length < n then .error (Cause.dxFormat, o1) else .ok (z, r.drop n, o1)
          | .error e => .error e
        | 1 => match r with
          | b :: r1 => match o.pushAll (List.replicate n b) with
            | .ok o1 => .ok (z, r1, o1)
            | .error e => .error e
          | [] => .error (Cause.dxFormat, o)
        | 2 =>
          if r.length < n then .error (Cause.dxFormat, o)
          else match zstBlock z window (r.take n) o with
          | .ok (z1, o1) => if o.n + most < o1.n then .error (Cause.dxFormat, o1) else .ok (z1, r.drop n, o1)
          | .error e => .error e
        | _ => .error (Cause.dxFormat, o)
      match step with
      | .error e => .error e
      | .ok (z1, r1, o1) => if h % 2 = 1 then .ok (r1, o1) else zstBlocks window fuel z1 r1 o1

/-! ## Zstandard: frames -/

def rotl64 (v n : Nat) : Nat := (v * 2 ^ n % 18446744073709551616) ||| (v / 2 ^ (64 - n))
def mul64 (a b : Nat) : Nat := a * b % 18446744073709551616
def xxP1 : Nat := 11400714785074694791
def xxP2 : Nat := 14029467366897019727
def xxP3 : Nat := 1609587929392839161
def xxP4 : Nat := 9650029242287828579
def xxP5 : Nat := 2870177450012600261
def xxRound (acc lane : Nat) : Nat := mul64 (rotl64 ((acc + mul64 lane xxP2) % 18446744073709551616) 31) xxP1
def xxMerge (h a : Nat) : Nat := (mul64 (h ^^^ xxRound 0 a) xxP1 + xxP4) % 18446744073709551616

/-- Whole stripes of 32 bytes. -/
def xxStripes : Nat → List Byte → (Nat × Nat × Nat × Nat) → (Nat × Nat × Nat × Nat) × List Byte
  | 0, bs, a => (a, bs)
  | n + 1, bs, (a, b, c, d) =>
    let l := fun k => natOfBytes ((bs.drop (8 * k)).take 8)
    xxStripes n (bs.drop 32) (xxRound a (l 0), xxRound b (l 1), xxRound c (l 2), xxRound d (l 3))

/-- The bytes behind the stripes. -/
def xxTail : Nat → List Byte → Nat → Nat
  | 0, _, h => h
  | fuel + 1, bs, h =>
    if 8 ≤ bs.length then
      xxTail fuel (bs.drop 8) ((mul64 (rotl64 (h ^^^ xxRound 0 (natOfBytes (bs.take 8))) 27) xxP1 + xxP4) % 18446744073709551616)
    else if 4 ≤ bs.length then
      xxTail fuel (bs.drop 4) ((mul64 (rotl64 (h ^^^ mul64 (natOfBytes (bs.take 4)) xxP1) 23) xxP2 + xxP3) % 18446744073709551616)
    else match bs with
      | [] => h
      | b :: r => xxTail fuel r (mul64 (rotl64 (h ^^^ mul64 b.toNat xxP5) 11) xxP1)

/-- XXH64 with seed 0. -/
def xxh64 (bs : List Byte) : Nat :=
  let n := bs.length
  let ((a, b, c, d), rest) := xxStripes (n / 32) bs
    ((xxP1 + xxP2) % 18446744073709551616, xxP2, 0, 18446744073709551616 - xxP1)
  let h0 := if 32 ≤ n then
      xxMerge (xxMerge (xxMerge (xxMerge ((rotl64 a 1 + rotl64 b 7 + rotl64 c 12 + rotl64 d 18) % 18446744073709551616) a) b) c) d
    else xxP5
  let h1 := xxTail 64 rest ((h0 + n) % 18446744073709551616)
  let h2 := mul64 (h1 ^^^ (h1 / 8589934592)) xxP2
  let h3 := mul64 (h2 ^^^ (h2 / 536870912)) xxP3
  h3 ^^^ (h3 / 4294967296)

/-- One frame after its magic number. -/
def zstFrame (bs : List Byte) (o : Out) : DecRes (List Byte × Out) :=
  let bad := Except.error (Cause.dxFormat, o)
  match bs with
  | [] => bad
  | fhd :: r =>
    let d := fhd.toNat
    let single := bitAt d 5
    let didLen := [0, 1, 2, 4].getD (d % 4) 0
    let fcsLen := if d / 64 = 0 then (if single then 1 else 0) else 2 ^ (d / 64)
    let wdLen := if single then 0 else 1
    if bitAt d 3 ∨ r.length < wdLen + didLen + fcsLen then bad
    else
      let wd := natOfBytes (r.take wdLen)
      let did := natOfBytes ((r.drop wdLen).take didLen)
      let fcs0 := natOfBytes ((r.drop (wdLen + didLen)).take fcsLen)
      let fcs := if fcsLen = 2 then fcs0 + 256 else fcs0
      let base := 2 ^ (10 + wd / 8)
      let window := if single then fcs else base + base / 8 * (wd % 8)
      if did ≠ 0 then bad
      else if 8388608 < window then .error (Cause.dxWindow, o)
      else
        let body := r.drop (wdLen + didLen + fcsLen)
        match zstBlocks window (body.length + 1) { huff := none, ll := none, of := none, ml := none, reps := (1, 4, 8) } body o with
        | .error e => .error e
        | .ok (rest, o1) =>
          if 0 < fcsLen ∧ o1.n ≠ fcs then .error (Cause.dxFormat, o1)
          else if bitAt d 2 then
            if rest.length < 4 then .error (Cause.dxFormat, o1)
            else if natOfBytes (rest.take 4) ≠ xxh64 o1.rev.reverse % 4294967296 then .error (Cause.dxCheck, o1)
            else .ok (rest.drop 4, o1)
          else .ok (rest, o1)

/-- Skippable frames, then one frame that ends where the input ends. -/
def zstGo : Nat → List Byte → Out → DecRes Out
  | 0, _, o => .error (Cause.dxFormat, o)
  | fuel + 1, bs, o =>
    let magic := natOfBytes (bs.take 4)
    if bs.length < 4 then .error (Cause.dxFormat, o)
    else if magic / 16 = 0x184D2A5 then
      let n := natOfBytes ((bs.drop 4).take 4)
      if bs.length < 8 + n then .error (Cause.dxFormat, o) else zstGo fuel (bs.drop (8 + n)) o
    else if magic = 0xFD2FB528 then match zstFrame (bs.drop 4) o with
      | .error e => .error e
      | .ok (rest, o1) => if rest.isEmpty then .ok o1 else .error (Cause.dxFormat, o1)
    else .error (Cause.dxFormat, o)

def zstandard (bs : List Byte) (cap : Nat) : DecRes Out := zstGo (bs.length + 1) bs { rev := [], n := 0, cap := cap }

/-- The output of a decompression and its status. PRESUMED (log entry 23). -/
def decompress (sub : Nat) (zlib : Bool) (bs : List Byte) (cap : Nat) : List Byte × Cause :=
  let r := match sub with
    | 0 => if zlib then inflateZlib bs cap else inflateRaw bs cap
    | 1 => zstandard bs cap
    | _ => lz4Block bs cap
  match r with
  | .ok o => (o.rev.reverse, 0#16)
  | .error (c, o) => (o.rev.reverse, c)

end Sys2Proof.Machine
end

