-- ==== Sys2Proof/Machine/Stream.lean ====
section
/-! DEFINITION. Bulk stream commands, stream barriers and copies at work (R186, R192 to R195). -/

namespace Sys2Proof.Machine

/-- A unit of progress has been moved. -/
def Run.moved (r : Run) (u bytes : Nat) : Run := { r with did := r.did ++ [u], count := r.count + bytes }

/-- Every unit before u has been moved. -/
def Run.upTo (r : Run) (u : Nat) : Bool := (List.range u).all (fun k => r.did.contains k)

/-- A unit of a command has been moved; after the last the command's work is done. -/
def advance (s : State) (cl : Nat) (r : Run) (u bytes : Nat) : State :=
  let r1 := r.moved u bytes
  let s1 := s.modRun cl r.cmd.id (fun _ => r1)
  if r.n ≤ r1.did.length then endRun s1 cl r.cmd.id r1.status r1.count else s1

/-- A fault at unit u ends the command once every unit before it has been moved (R186). -/
def faultAt (s : State) (cl : Nat) (r : Run) (u : Nat) (f : Cause) : State :=
  if r.upTo u then endRun s cl r.cmd.id f r.count else s

/-! ## Bulk commands (R186) -/

/-- Limits of a bulk command. -/
def bulkOk (c : Cluster) (x : Cmd) : Bool :=
  let a := x.a.toNat
  let b := x.b.toNat
  let n := x.c.toNat
  if x.sub = 10 then a % 128 == 0 && n != 0 && n % 128 == 0 && (!bitAt x.cs 0 || decide (a + n ≤ c.spbase))
  else a % 128 == 0 && b % 128 == 0 && n != 0 && n % 128 == 0 && decide (b + n ≤ c.spbase)

/-- The 128 bytes of sixteen copies of a pattern. -/
def patternBytes (v : Word) : List Byte := (List.range 16).flatMap (fun _ => bytesOfNat 8 v.toNat)

/-- The stream engine among the units that ask for scratchpad. -/
def streamUnit : Nat := 12

/-- Beat u of a bulk command. DEDUCED (log entry 20). DEDUCED (log entry 36). -/
def bulkUnit (cl : Nat) (r : Run) (u : Nat) (s : State) : State :=
  let x := r.cmd
  let a := x.a.toNat
  let b := x.b.toNat
  if r.did.contains u || decide (r.n ≤ u) then s
  else if x.sub = 0 then
    workRes s cl (engRead cl (a + 128 * u) 128 s)
      (fun bs s => match s.ask cl streamUnit (b + 128 * u) 128 s.nextId x.id 0#64 with
        | (s, true) => advance (spadWrite s cl (b + 128 * u) bs) cl r u 128
        | (s, false) => s)
      (faultAt s cl r u)
  else if x.sub = 5 then
    match s.ask cl streamUnit (b + 128 * u) 128 s.nextId x.id 0#64 with
    | (s, true) =>
      workRes s cl (engWrite cl 0 x.id (a + 128 * u) (spadRead s cl (b + 128 * u) 128) s) (fun _ s => advance s cl r u 128) (faultAt s cl r u)
    | (s, false) => s
  else if bitAt x.cs 0 then
    match s.ask cl streamUnit (a + 128 * u) 128 s.nextId x.id 0#64 with
    | (s, true) => advance (spadWrite s cl (a + 128 * u) (patternBytes x.b)) cl r u 128
    | (s, false) => s
  else workRes s cl (engWrite cl 0 x.id (a + 128 * u) (patternBytes x.b) s) (fun _ s => advance s cl r u 128) (faultAt s cl r u)

/-! ## Barriers (R192) -/

/-- A barrier completes once the commands it waits for have completed. -/
def barrierUnit (cl : Nat) (r : Run) (s : State) : State :=
  if r.waits.any (fun id => match (s.cluster cl).run id with | some y => !s.completed cl y | none => false) then s
  else endRun s cl r.cmd.id 0#16 0

/-! ## Copies (R193 to R195) -/

/-- The destination pieces of a `cp`, one for each line. -/
def cpPieces (x : Cmd) : List (Nat × Nat) := pieces x.b.toNat x.c.toNat

/-- The unit a `cp` must move next, when its source and destination overlap: the end the destination lies beyond comes first. -/
def cpNext (r : Run) : Option Nat :=
  let x := r.cmd
  if meets x.a.toNat x.c.toNat x.b.toNat x.c.toNat then
    let left := (List.range r.n).filter (fun u => !r.did.contains u)
    if x.a.toNat < x.b.toNat then left.getLast? else left.head?
  else none

/-- Piece u of a `cp`. DEDUCED (log entry 36). -/
def cpUnit (cl : Nat) (r : Run) (u : Nat) (s : State) : State :=
  let x := r.cmd
  if r.did.contains u || (match cpNext r with | some k => k != u | none => false) then s
  else match (cpPieces x)[u]? with
    | none => s
    | some (lo, n) =>
      let fail := fun (f : Cause) => if (cpNext r).isSome then endRun s cl x.id f r.count else faultAt s cl r u f
      workRes s cl ((engRead cl (x.a.toNat + (lo - x.b.toNat)) n s).bind (fun bs s => engWrite cl 2 x.id lo bs s))
        (fun _ s => advance s cl r u n) fail

/-- The copy engine's unit in R163. -/
def copyUnit : Nat := 8

/-- A copy into scratchpad makes its scoreboard entry (R174). -/
def boardEnter (s : State) (cl id lo n : Nat) : State :=
  let (m, s1) := s.fresh
  s1.modCluster cl (fun c => { c with board := c.board ++ [{ cmd := id, lo := lo / 128 * 128, hi := ceilDiv (lo + n) 128 * 128, done := none, made := m }] })

/-- The entry retires in the cycle after the copy's last byte. -/
def boardDone (s : State) (cl id : Nat) : State :=
  s.modCluster cl (fun c => { c with board := c.board.map (fun r => if r.cmd = id then { r with done := some (s.now + 1) } else r) })

/-- Beat u of a copy of `src` into scratchpad at `dst`. -/
def spadCopyUnit (cl : Nat) (r : Run) (src dst u : Nat) (landed : State → State) (s : State) : State :=
  if r.did.contains u || decide (r.n ≤ u) then s
  else
    let at0 := dst + 128 * u
    let made := (s.cluster cl).boardTime r.cmd.id s.nextId
    let fail := fun (f : Cause) => if r.upTo u then boardDone (endRun s cl r.cmd.id f r.count) cl r.cmd.id else s
    workRes s cl (engRead cl (src + 128 * u) 128 s) (fun bs s =>
      match s.ask cl copyUnit at0 128 made r.cmd.id 0#64 with
      | (s, true) =>
        let r1 := r.moved u 128
        let s1 := (spadWrite s cl at0 bs).modRun cl r.cmd.id (fun _ => r1)
        if r.n ≤ r1.did.length then landed (boardDone s1 cl r.cmd.id) else s1
      | (s, false) => s) fail

/-- Limits of `cp.s` (R194, R96). -/
def cpSOk (c : Cluster) (x : Cmd) : Bool :=
  x.a.toNat % 128 == 0 && x.b.toNat % 128 == 0 && x.c.toNat % 128 == 0 && decide (128 ≤ x.c.toNat) && decide (x.b.toNat + x.c.toNat ≤ c.spbase)

/-! ### `cp.mx` (R195) -/

/-- The follow-on's subop, class-specific bits and low register c. -/
def Cmd.followSub (x : Cmd) : Nat := bitsAt x.c.toNat 0 4
def Cmd.followCs (x : Cmd) : Nat := bitsAt x.c.toNat 4 11
def Cmd.followC (x : Cmd) : Word := BitVec.ofNat 64 (bitsAt x.c.toNat 16 32)

/-- The follow-on reads its operand by tile fetch from scratchpad. -/
def followOk (c : Cluster) (x : Cmd) : Bool :=
  let ctl := c.fieldN 0x21 0
  bitsAt x.c.toNat 48 16 == 0 && bitAt x.c.toNat 15 == false && bitsAt x.followCs 0 6 == 0 && bitAt x.followCs 6 &&
    (if x.followSub = 0 then bitAt ctl 2 else decide (x.followSub ≤ 7) && bitAt ctl 1)

/-- The fields of an entry. -/
def entrySrc (e : Nat) : Nat := bitsAt e 0 57
def entryLen (e : Nat) : Nat := bitsAt e 64 32

/-- The entry is sound. -/
def entryOk (e : Nat) : Bool :=
  let chk := (List.range 6).foldl (fun v k => v ^^^ bitsAt e (16 * k) 16) 0x5A5A
  bitsAt e 112 16 == chk && bitsAt e 96 16 == 0 && bitsAt e 57 7 == 0 && entryLen e % 128 == 0 && decide (128 ≤ entryLen e)
    && decide (entryLen e ≤ 65536) && entrySrc e % 128 == 0

/-- The entry is read and checked; then the scoreboard entry is made, once one is free, and the copy starts. `aux` is 0 before
the entry is read, 1 while the copy runs, 2 once it has landed, 3 once the follow-on is queued; `waits` holds a name given at the landing. -/
def cpMxEntry (cl : Nat) (r : Run) (s : State) : State :=
  let x := r.cmd
  let c := s.cluster cl
  workRes s cl (engRead cl x.a.toNat 16 s) (fun bs s1 =>
    let e := natOfBytes bs
    if !entryOk e then endRun s1 cl x.id Cause.cpEntry 0
    else if x.a.toNat % 16 ≠ 0 ∨ x.b.toNat % 128 ≠ 0 ∨ c.spbase < x.b.toNat + entryLen e then endRun s1 cl x.id Cause.cpArg 0
    else if 16 ≤ c.board.length then s
    else (boardEnter s1 cl x.id x.b.toNat (entryLen e)).modRun cl x.id (fun r => { r with aux := 1, n := entryLen e / 128, buf := bs }))
    (fun f => endRun s cl x.id f 0)

/-- One step of a `cp.mx`. -/
def cpMxUnit (cl : Nat) (r : Run) (u : Nat) (s : State) : State :=
  match r.aux with
  | 0 => cpMxEntry cl r s
  | 1 => spadCopyUnit cl r (entrySrc (natOfBytes r.buf)) r.cmd.b.toNat u
      (fun s => let (m, s1) := s.fresh; s1.modRun cl r.cmd.id (fun r => { r with aux := 2, waits := [m] })) s
  | _ => s

/-- Of the copies that have landed, the one that did so first. -/
def Cluster.firstLanded (c : Cluster) : Option Run :=
  (c.running.filter Run.landed).foldl (fun b r => match b with
    | some x => if r.waits.headD 0 < x.waits.headD 0 then some r else b
    | none => some r) none

/-- FOLLOW_ON_ENQUEUE: the copy has landed and its entry retired; the follow-on takes the next free place of the MX queue, behind those that
landed before it. -/
def execFollowOnEnqueue (cl id : Nat) (s : State) : Host.Outcome State Fault Refusal :=
  let c := s.cluster cl
  match c.firstLanded with
  | none => .next s
  | some r =>
    if r.cmd.id ≠ id ∨ c.board.any (fun b => b.cmd == id) ∨ Config.queueDepth ≤ (c.queue 3).length then .next s
    else
      let (n, s1) := s.fresh
      .next ((s1.modRun cl id (fun r => { r with aux := 3 })).modCluster cl (fun c => c.setQueue 3 (c.queue 3 ++
        [{ id := n, cls := 3, sub := r.cmd.followSub, cs := r.cmd.followCs, a := 0#64, b := r.cmd.b, c := r.cmd.followC,
           tag := r.cmd.tag, target := .none, parent := some id, after := [] }])))

/-- One step of a copy. -/
def copyStep (cl : Nat) (r : Run) (u : Nat) (s : State) : State :=
  match r.cmd.sub with
  | 0 => cpUnit cl r u s
  | 1 => cpMxUnit cl r u s
  | _ => spadCopyUnit cl r r.cmd.a.toNat r.cmd.b.toNat u (fun s => endRun s cl r.cmd.id 0#16 r.cmd.c.toNat) s

end Sys2Proof.Machine
end

