-- ==== Sys2Proof/Machine/Matrix.lean ====
section
/-! DEFINITION. The matrix array (R36 to R38, R176, R196 to R199): its operands, its accumulation, and its commands at work. -/

namespace Sys2Proof.Machine

/-! ## Configuration and types -/

def Cluster.mxEn (c : Cluster) : Bool := bitAt (c.fieldN 0x21 0) 0
/-- ASRC and BSRC: the operand comes by tile fetch. -/
def Cluster.mxASrc (c : Cluster) : Bool := bitAt (c.fieldN 0x21 0) 1
def Cluster.mxBSrc (c : Cluster) : Bool := bitAt (c.fieldN 0x21 0) 2

/-- Operand types: BF16, FP16, E4M3, E5M2, E2M1, INT8, INT16. -/
def mxType (ty : Nat) : Bool := decide (1 ≤ ty) && decide (ty ≤ 7)
/-- Kmax: elements of one 256-byte row (R196). -/
def kmax (ty : Nat) : Nat := 2048 / tyBits ty
/-- The format of a floating operand type. -/
def mxFmt (ty : Nat) : Fmt :=
  match ty with
  | 1 => Fmt.bf16
  | 2 => Fmt.f16
  | 3 => Fmt.e4m3
  | 4 => Fmt.e5m2
  | _ => Fmt.e2m1
/-- Products of one exact group (R36, R37). -/
def mxGroup (ty : Nat) : Nat := if ty = 3 ∨ ty = 4 then 16 else 8

/-- Element k of a row, k innermost (R196). -/
def rowElem (ty row k : Nat) : Nat := bitsAt row (tyBits ty * k) (tyBits ty)

/-- E3M5 (R23): no sign, exponent bias 4, $FF marks a block invalid. -/
def e3m5 (v : Nat) : FVal :=
  if v = 255 then .nan false
  else if v / 32 = 0 then .fin false (v % 32) (-8) else .fin false (32 + v % 32) ((v / 32 : Nat) - 9)

/-! ## Accumulation (R36 to R38) -/

/-- The k of the group from g on, below a limit. -/
def groupKs (g size limit : Nat) : List Nat := (List.range size).map (g + ·) |>.filter (· < limit)

/-- The rounded sum of one group of BF16, FP16 or FP8 products; a group the limit cuts has +0 products beyond it. -/
def groupSum (ty row col kdim g : Nat) : Rounded :=
  let f := mxFmt ty
  let ks := groupKs g (mxGroup ty) kdim
  let pad := List.replicate (mxGroup ty - ks.length) (FVal.fin false 0 0, FVal.fin false 0 0)
  fsum Fmt.f32 Mode.rne 0 (ks.map (fun k => (f.read (rowElem ty row k), f.read (rowElem ty col k))) ++ pad) []

/-- The rounded sum of one E2M1 block, times both block scales (R37). -/
def blockSum (row col kdim g : Nat) (sa sb : Nat) : Rounded :=
  if sa = 255 ∨ sb = 255 then plain Fmt.f32.qnan
  else
    let f := Fmt.e2m1
    let x := ((groupKs g 8 kdim).map (fun k => Dyad.mul (f.read (rowElem 5 row k)).value (f.read (rowElem 5 col k)).value)).foldl
      Dyad.add { n := 0, e := 0 }
    let neg := (groupKs g 8 kdim).length == 8 && (groupKs g 8 kdim).all (fun k =>
      let p := f.read (rowElem 5 row k)
      let q := f.read (rowElem 5 col k)
      (p.isZero || q.isZero) && p.isNeg != q.isNeg)
    roundDyad Fmt.f32 Mode.rne 0 (if x.n = 0 then neg else decide (x.n < 0)) (Dyad.mul x (Dyad.mul (e3m5 sa).value (e3m5 sb).value))

/-- acc + the groups' results in increasing k, one RNE rounding each. -/
def accFloat (ty row col kdim sa sb : Nat) (acc : Lane) : Lane × Flags :=
  let size := mxGroup ty
  let (v, fl) := (List.range (ceilDiv kdim size)).foldl (fun (a : Nat × Flags) n =>
    let p := if ty = 5 then blockSum row col kdim (8 * n) (bitsAt sa (8 * n) 8) (bitsAt sb (8 * n) 8) else groupSum ty row col kdim (size * n)
    let r := fadd Fmt.f32 Mode.rne 0 (Fmt.f32.read a.1) (Fmt.f32.read p.bits)
    (r.bits, a.2 ||| p.flags ||| r.flags)) (acc.toNat, Flag.none)
  (BitVec.ofNat 32 v, fl)

/-- INT8 and INT16 products added one by one; OF when a partial sum leaves INT32 (R38). -/
def accInt (ty row col kdim : Nat) (acc : Lane) : Lane × Flags :=
  let w := tyBits ty
  let (v, out) := (List.range kdim).foldl (fun (a : Int × Bool) k =>
    let t := a.1 + asSigned (rowElem ty row k) w * asSigned (rowElem ty col k) w
    (t, a.2 || decide (t < -2147483648) || decide (2147483647 < t))) (acc.toInt, false)
  (BitVec.ofInt 32 v, flagIf out Flag.of)

/-- One accumulator element and one row. -/
def accElem (ty row col kdim sa sb : Nat) (acc : Lane) : Lane × Flags :=
  if ty = 6 ∨ ty = 7 then accInt ty row col kdim acc else accFloat ty row col kdim sa sb acc

/-! ## The array's state -/

def Mx.buf (m : Mx) (which : Bool) : WBuf := if which then m.w1 else m.w0
def Mx.setBuf (m : Mx) (which : Bool) (b : WBuf) : Mx := if which then { m with w1 := b } else { m with w0 := b }
def Mx.at (m : Mx) (tile i j : Nat) : Lane := SMap.get m.acc 0#32 (16384 * tile + 128 * i + j)

/-- A tile is set to +0 and holds no band state. -/
def Mx.zero (m : Mx) (tile : Nat) : Mx :=
  { m with acc := m.acc.filter (fun e => e.1 / 16384 != tile), band := m.band.set tile none }

/-- Row i of a tile accumulates a row of A against a stationary buffer. -/
def Mx.accRow (m : Mx) (tile i ty kdim row sa : Nat) (b : WBuf) : Mx :=
  (List.range 128).foldl (fun m j =>
    let (v, fl) := accElem ty row (SMap.get b.rows 0#2048 j).toNat kdim sa (SMap.get b.scales 0#512 j).toNat (m.at tile i j)
    { m with acc := SMap.set m.acc (16384 * tile + 128 * i + j) v, flags := m.flags ||| fl }) m

/-- The array of a cluster changes. -/
def State.modMx (s : State) (cl : Nat) (f : Mx → Mx) : State := s.modCluster cl (fun c => { c with mx := f c.mx })

/-! ## Tile fetch (R196 to R198) -/

/-- Reads n elements of row r from k0 on; coordinates outside the tensor read as zero. -/
def tensorRow (cl cmd id k0 r n : Nat) (s : State) : Res Nat :=
  match s.taskOf cl with
  | none => .stall
  | some t =>
    let ten := t.tensor id
    (Res.each (List.range n) 0 s (fun acc e s =>
      let xs := [k0 + e, r, 0, 0, 0, 0]
      if ten.layout.inside xs then
        (readElem cl 8 (some cmd) t id ten xs s).bind (fun v s => .ok (acc + v * 2 ^ (tyBits ten.ty * e)) s)
      else .ok acc s)).bind (fun v s =>
      .ok v (if ten.expert && decide (0 < n) && ten.layout.inside [k0, r, 0, 0, 0, 0] then noteUse s (dieOf cl) ten.key else s))

/-- n free bytes. DESIGN CHOICE (log entry 12). DESIGN CHOICE (log entry 21). -/
def freeBytes : Nat → State → Nat × State
  | 0, s => (0, s)
  | n + 1, s =>
    let (v, s1) := s.free
    let (r, s2) := freeBytes n s1
    (v.toNat % 256 + 256 * r, s2)

/-- Bytes of a row of block scales (R24). -/
def scaleRow (ten : Tensor) : Nat := ceilDiv (ceilDiv (ten.ext 0) 8) 128 * 128

/-- Reads n bytes of the scales of an expert's slice for a row, at an offset behind its tiles (R290), which is a use of the expert (R289);
the slice is waited for (R291). -/
def sliceScales (cl : Nat) (ten : Tensor) (r off n : Nat) (s : State) : Res Nat :=
  let tiles := 65536 * (ten.layout.grid.take 1 ++ ten.layout.grid.drop 2).foldl (· * ·) 1
  match s.ert ten.key with
  | none => .stall
  | some e =>
    if r / 128 < e.pre then
      (readBits cl (e.pool * 65536 + r / 128 * e.sliceBytes + tiles + off) 0 (8 * n) ten.ms s).bind (fun v s => .ok v (noteUse s (dieOf cl) ten.key))
    else .stallIn (needSlice s cl ten.key (r / 128))

/-- The 64 block scales of row r from k0 on (R24). At a k origin that is no multiple of 8 the manual gives the blocks no
scale: free values (DESIGN CHOICE, log entry 21). -/
def rowScales (cl id k0 r : Nat) (s : State) : Res Nat :=
  match s.taskOf cl with
  | none => .stall
  | some t =>
    let ten := t.tensor id
    if k0 % 8 ≠ 0 then let (v, s1) := freeBytes 64 s; .ok v s1
    else
      let blocks := ceilDiv (ten.ext 0) 8
      let n := Nat.min 64 (blocks - k0 / 8)
      if ten.ext 1 ≤ r ∨ n = 0 then .ok 0 s
      else if ten.expert then sliceScales cl ten r (r % 128 * scaleRow ten + k0 / 8) n s
      else (engRead cl (ten.dw 6 + r * scaleRow ten + k0 / 8) n s).bind (fun bs s => .ok (natOfBytes bs) s)

/-- A band that no row of the tensor lies in. -/
def noBand : Nat := 65536

/-- The band scale of row r (R23). At an n origin that is no multiple of 64 the 64 rows of a tile share no band: a free
value. DESIGN CHOICE (log entry 21). -/
def bandScale (cl id r : Nat) (s : State) : Res Nat :=
  match s.taskOf cl with
  | none => .stall
  | some t =>
    let ten := t.tensor id
    if r % 64 ≠ 0 then let (v, s1) := s.free; .ok (v.toNat % 65536) s1
    else if ten.ext 1 ≤ r then .ok noBand s
    else if ten.expert then sliceScales cl ten r (128 * scaleRow ten + 2 * (r % 128 / 64)) 2 s
    else (engRead cl (ten.dw 7 + 2 * (r / 64)) 2 s).bind (fun bs s => .ok (natOfBytes bs) s)

/-- Band scales of rows r0, r0 + 64, … -/
def bandScales (cl id r0 n : Nat) (s : State) : Res (List Nat) :=
  Res.each (List.range n) [] s (fun acc k s => (bandScale cl id (r0 + 64 * k) s).bind (fun v s => .ok (acc ++ [v]) s))

/-! ## Fields and checks of the commands (R197 to R199) -/

def Cmd.mxT (x : Cmd) : Nat := bitsAt x.cs 9 2
def Cmd.swap (x : Cmd) : Bool := bitAt x.cs 8
def Cmd.za (x : Cmd) : Bool := bitAt x.cs 7
/-- TS of `mx.ld`, AS of `mx.mma.*`: tile fetch from scratchpad. -/
def Cmd.fromSpad (x : Cmd) : Bool := bitAt x.cs 6
/-- The operand type: TYPE of `mx.ld`, the subop of `mx.mma.*`. -/
def Cmd.mxTy (x : Cmd) : Nat := if x.sub = 0 then bitsAt x.cs 7 4 else x.sub
def Cmd.rowsM (x : Cmd) : Nat := if x.sub = 0 then 128 else bitsAt x.c.toNat 16 10
def Cmd.kdim (x : Cmd) : Nat :=
  if x.sub = 0 ∨ bitsAt x.c.toNat 0 16 = 0 then kmax x.mxTy else bitsAt x.c.toNat 0 16
def Cmd.tensorId (x : Cmd) : Nat := bitsAt x.a.toNat 0 12
def Cmd.k0 (x : Cmd) : Nat := bitsAt x.b.toNat 0 32
def Cmd.n0 (x : Cmd) : Nat := bitsAt x.b.toNat 32 32
/-- The operand comes by tile fetch. -/
def Cmd.fetched (c : Cluster) (x : Cmd) : Bool := if x.sub = 0 then c.mxBSrc else c.mxASrc

/-- The operand source breaks a limit. -/
def sourceFault (s : State) (cl : Nat) (x : Cmd) : Bool :=
  let c := s.cluster cl
  if !x.fetched c then x.mxTy == 5
  else if x.fromSpad then
    x.mxTy == 5 || x.b.toNat % 128 != 0 || decide (c.spbase < x.b.toNat + 256 * x.rowsM)
  else match s.taskOf cl with
    | none => true
    | some t =>
      let ten := t.tensor x.tensorId
      !ten.valid || ten.ty != x.mxTy || bitsAt x.a.toNat 12 52 != 0
        || (x.sub == 0 && x.mxTy == 5 && (x.k0 % 8 != 0 || x.n0 % 64 != 0))

/-- Bytes of a row of `mx.st`, and whether DST is one of its formats. -/
def Cmd.dst (x : Cmd) : Nat := bitsAt x.cs 4 4
def Cmd.toSpad (x : Cmd) : Bool := bitAt x.cs 3
def rowBytes (dst : Nat) : Nat := if dst = 1 then 256 else 512

/-- The type of port C, when its descriptor is one of R196. -/
def portC (c : Cluster) : Option Nat := (orderOf (c.descAt 0x21 0x18)).map (·.ty)

def storeFault (c : Cluster) (x : Cmd) : Bool :=
  !(x.dst == 0 || x.dst == 1 || x.dst == 8) ||
  (if x.toSpad then x.b.toNat % 128 != 0 || decide (c.spbase < x.b.toNat + 128 * rowBytes x.dst) else portC c != some x.dst)

/-! ## The start of a command -/

/-- The checks and the swap of `mx.mma.*` (R198). -/
def mmaStart (cl : Nat) (x : Cmd) (s : State) : State :=
  let m := (s.cluster cl).mx
  let nb := if x.swap then !m.active else m.active
  if bitsAt x.c.toNat 26 38 ≠ 0 ∨ x.rowsM = 0 ∨ 512 < x.rowsM ∨ kmax x.mxTy < x.kdim ∨ (m.buf nb).ty ≠ some x.mxTy ∨
      4 < x.mxT + ceilDiv x.rowsM 128 ∨ sourceFault s cl x then endRun s cl x.id Cause.mxArg 0
  else (s.modMx cl (fun m => { m with active := nb })).modRun cl x.id (fun r => { r with n := x.rowsM, aux := if x.mxTy = 5 then 1 else 0 })

/-- An MX command starts (R197 to R199): its checks, and what takes effect at once. `aux` of `mx.ld` is the buffer it fills;
of `mx.mma.e2m1`, 1 until its bands have been checked. -/
def mxStart (cl : Nat) (x : Cmd) (s0 : State) : State :=
  let s := s0.modCluster cl (fun c => c.take 160)
  let c := s.cluster cl
  match x.sub with
  | 0 =>
    if !mxType x.mxTy || sourceFault s cl x then endRun s cl x.id Cause.mxArg 0
    else s.modRun cl x.id (fun r => { r with n := 256, aux := if c.mx.active then 0 else 1 })
  | 8 =>
    if storeFault c x then endRun s cl x.id Cause.mxArg 0
    else s.modRun cl x.id (fun r => { r with n := 128 * rowBytes x.dst / 128 })
  | 9 => endRun (s.modMx cl (fun m => (List.range 4).foldl (fun m t => if bitAt x.cs t then m.zero t else m) m)) cl x.id 0#16 0
  | _ => mmaStart cl x s

/-! ## Rows of an operand -/

/-- What the next part of an operand is: half a row, nothing yet, or the end of the port's phase. -/
inductive Half where
  | beat (dropped : Bool) (b : Beat) (s : State)
  | none (s : State)
  | ends (st : Cause) (s : State)

/-- The next beat of an operand from port p (A 0, B 1): tokens other than the phase's end are consumed without effect. -/
def portHalf (cl p : Nat) (s : State) : Half :=
  match ((s.cluster cl).chan (portKey 0x21 p)).bind (fun ch => ch.seen.head?) with
  | some (.data b) => .beat false b (takeItems s cl (portKey 0x21 p) 1)
  | some (.drop b) => .beat true b (takeItems s cl (portKey 0x21 p) 1)
  | some .eos => .ends Cause.mxShort (takeItems s cl (portKey 0x21 p) 1)
  | some (.abort st) => .ends st (takeItems s cl (portKey 0x21 p) 1)
  | some _ => .none (takeItems s cl (portKey 0x21 p) 1)
  | none => .none s

/-- Tile fetch in R163. -/
def fetchUnit : Nat := 9

/-- The next beat of an operand in scratchpad, for a command. -/
def spadHalf (cl cmd a : Nat) (s : State) : Half :=
  match s.ask cl fetchUnit a 128 s.nextId cmd 0#64 with
  | (s, true) => .beat false (Beat.ofBytes (spadRead s cl a 128)) s
  | (s, false) => .none s

/-! ## `mx.ld` (R197) -/

/-- Beat k of the buffer arrives. -/
def ldBeat (cl : Nat) (r : Run) (b : Beat) (s : State) : State :=
  let which := decide (r.aux = 1)
  let s1 := s.modMx cl (fun m =>
    let w := m.buf which
    let old := (SMap.get w.rows 0#2048 (r.k / 2)).toNat
    let row := if r.k % 2 = 0 then old / 2 ^ 1024 * 2 ^ 1024 + b.toNat else old % 2 ^ 1024 + b.toNat * 2 ^ 1024
    m.setBuf which { w with rows := SMap.set w.rows (r.k / 2) (BitVec.ofNat 2048 row) })
  let s2 := s1.modRun cl r.cmd.id (fun r => { r with k := r.k + 1 })
  if r.k + 1 = r.n then
    endRun (s2.modMx cl (fun m => m.setBuf which { m.buf which with ty := some r.cmd.mxTy })) cl r.cmd.id 0#16 32768
  else s2

/-- An `mx.ld` ends early: its buffer holds no type. -/
def ldShort (cl : Nat) (r : Run) (st : Cause) (s : State) : State :=
  endRun (s.modMx cl (fun m => m.setBuf (decide (r.aux = 1)) { m.buf (decide (r.aux = 1)) with ty := none })) cl r.cmd.id st (128 * r.k)

/-- Row k/2 of a tensor with its scales; the bands of an E2M1 buffer come with row 0. -/
def ldTensorRow (cl : Nat) (r : Run) (s : State) : State :=
  let x := r.cmd
  let j := r.k / 2
  let which := decide (r.aux = 1)
  workRes s cl ((tensorRow cl x.id x.tensorId x.k0 (x.n0 + j) (kmax x.mxTy) s).bind (fun row s =>
      if x.mxTy = 5 then
        (rowScales cl x.tensorId x.k0 (x.n0 + j) s).bind (fun sc s =>
          if j = 0 then (bandScales cl x.tensorId x.n0 2 s).bind (fun bs s => .ok (row, sc, bs) s) else .ok (row, sc, []) s)
      else .ok (row, 0, []) s))
    (fun (row, sc, bs) s =>
      let s1 := s.modMx cl (fun m =>
        let w := m.buf which
        m.setBuf which { w with rows := SMap.set w.rows j (BitVec.ofNat 2048 row), scales := SMap.set w.scales j (BitVec.ofNat 512 sc),
                                bands := if bs.isEmpty then w.bands else bs,
                                ty := if r.k + 2 = r.n then some x.mxTy else w.ty })
      if r.k + 2 = r.n then endRun s1 cl x.id 0#16 32768 else s1.modRun cl x.id (fun r => { r with k := r.k + 2 }))
    (fun f => ldShort cl r f s)

/-- One beat or row of an `mx.ld`. -/
def ldUnit (cl : Nat) (r : Run) (s : State) : State :=
  let x := r.cmd
  let take := fun (h : Half) => match h with
    | .beat d b s => ldBeat cl r (if d then 0#1024 else b) s
    | .none s => s
    | .ends st s => ldShort cl r st s
  if !x.fetched (s.cluster cl) then take (portHalf cl 1 s)
  else if x.fromSpad then take (spadHalf cl x.id (x.b.toNat + 128 * r.k) s)
  else ldTensorRow cl r s

/-! ## `mx.mma.*` (R198) -/

/-- Bands a tile records: of A rows 0–63 and 64–127 where the command reaches them, and of the buffer. -/
def tileBands (x : Cmd) (as : List Nat) (b : WBuf) (n : Nat) : List Nat :=
  (List.range 2).map (fun h => if 128 * n + 64 * h < x.rowsM then as.getD (2 * n + h) noBand else noBand) ++ b.bands

/-- The bands of the tiles an E2M1 command touches are checked before its first row: MX.BAND. A tile that ZA sets to +0 holds
no band state. -/
def mmaBands (cl : Nat) (r : Run) (s : State) : State :=
  let x := r.cmd
  let m := (s.cluster cl).mx
  let b := m.buf m.active
  let tiles := List.range (ceilDiv x.rowsM 128)
  workRes s cl (bandScales cl x.tensorId x.n0 (ceilDiv x.rowsM 64) s) (fun as s1 =>
    if !x.za && tiles.any (fun n => match m.band.getD (x.mxT + n) none with
        | some old => old != tileBands x as b n
        | none => false) then endRun s1 cl x.id Cause.mxBand 0
    else s1.modRun cl x.id (fun r => { r with aux := 0, waits := as })) (fun f => endRun s cl x.id f 0)

/-- Row u of A is accumulated; a DROP row only counts. -/
def mmaRow (cl : Nat) (r : Run) (row sa : Nat) (dropped : Bool) (s : State) : State :=
  let x := r.cmd
  let u := r.k
  let tt := x.mxT + u / 128
  let s1 := s.modMx cl (fun m =>
    let m1 := if x.za && u % 128 == 0 then m.zero tt else m
    let b := m1.buf m1.active
    if dropped then m1
    else
      let m2 := m1.accRow tt (u % 128) x.mxTy x.kdim row sa b
      if x.mxTy = 5 then { m2 with band := m2.band.set tt (some (tileBands x r.waits b (u / 128))) } else m2)
  if u + 1 = r.n then endRun s1 cl x.id 0#16 r.n
  else s1.modRun cl x.id (fun r => { r with k := u + 1, buf := [], did := [] })

/-- Half a row of A has arrived: `buf` keeps the first half, `did` says whether it was a DROP beat. -/
def mmaHalf (cl : Nat) (r : Run) (d : Bool) (b : Beat) (s : State) : State :=
  let b0 := if d then 0#1024 else b
  match r.buf with
  | [] => s.modRun cl r.cmd.id (fun r => { r with buf := Beat.toBytes b0, did := if d then [1] else [0] })
  | bs => mmaRow cl r (natOfBytes bs + b0.toNat * 2 ^ 1024) 0 (d && r.did.contains 1) s

/-- One beat or row of an `mx.mma.*`. -/
def mmaUnit (cl : Nat) (r : Run) (s : State) : State :=
  let x := r.cmd
  let take := fun (h : Half) => match h with
    | .beat d b s => mmaHalf cl r d b s
    | .none s => s
    | .ends st s => endRun s cl x.id st r.k
  if r.aux = 1 then mmaBands cl r s
  else if !x.fetched (s.cluster cl) then take (portHalf cl 0 s)
  else if x.fromSpad then take (spadHalf cl x.id (x.b.toNat + 256 * r.k + (if r.buf.isEmpty then 0 else 128)) s)
  else
    workRes s cl ((tensorRow cl x.id x.tensorId x.k0 (x.n0 + r.k) x.kdim s).bind (fun row s =>
        if x.mxTy = 5 then (rowScales cl x.tensorId x.k0 (x.n0 + r.k) s).bind (fun sc s => .ok (row, sc) s) else .ok (row, 0) s))
      (fun (row, sc) s => mmaRow cl r row sc false s) (fun f => endRun s cl x.id f r.k)

/-! ## `mx.st` (R199) -/

/-- A BF16 band scale; none when it marks its band invalid (R35). -/
def bandValue (b : Nat) : Option Dyad :=
  match Fmt.bf16.read b with
  | .fin n m e => some (dyad n m e)
  | _ => none

/-- An element times its band scales, rounded once to the destination (R37); a zero takes the exclusive-or of the three signs (R21). Where no band scale was recorded for its row or column, the
factor is 1. DEDUCED (log entry 36). -/
def storeElem (f : Fmt) (bands : List Nat) (v : Nat) : Rounded :=
  let present := bands.filter (· != noBand)
  if present.isEmpty then convert f Mode.rne 0 (Fmt.f32.read v)
  else match present.mapM bandValue with
    | none => plain f.qnan
    | some bs =>
      let b := bs.foldl Dyad.mul { n := 1, e := 0 }
      let neg := present.foldl (fun n x => n != bitAt x 15) false
      match Fmt.f32.read v with
      | .fin n m e => roundDyad f Mode.rne 0 (n != neg) (Dyad.mul (dyad n m e) b)
      | .inf n => if b.n = 0 then nanOf f true else plain (f.infinity (n != neg))
      | .nan sg => nanOf f sg

/-- Beat q of row i of a tile in a format. -/
def storeBeat (m : Mx) (tile dst i q : Nat) : Beat × Flags :=
  let st := m.band.getD tile none
  let bandsOf := fun j => match st with
    | some bs => [bs.getD (i / 64) noBand, bs.getD (2 + j / 64) noBand]
    | none => []
  if dst = 8 then (Beat.ofLanes ((List.range 32).map (fun j => m.at tile i (32 * q + j))), Flag.none)
  else if dst = 0 then
    let rs := (List.range 32).map (fun j => storeElem Fmt.f32 (bandsOf (32 * q + j)) (m.at tile i (32 * q + j)).toNat)
    (Beat.ofLanes (rs.map (fun r => BitVec.ofNat 32 r.bits)), rs.foldl (fun f r => f ||| r.flags) Flag.none)
  else
    let rs := (List.range 64).map (fun j => storeElem Fmt.bf16 (bandsOf (64 * q + j)) (m.at tile i (64 * q + j)).toNat)
    (BitVec.ofNat 1024 (rs.foldr (fun r n => n * 65536 + r.bits) 0), rs.foldl (fun f r => f ||| r.flags) Flag.none)

/-- One beat of an `mx.st`, or the EOS that ends its phase of port C. -/
def stUnit (cl : Nat) (r : Run) (s : State) : State :=
  let x := r.cmd
  let per := rowBytes x.dst / 128
  let finish := fun (s : State) =>
    endRun (if x.swap then s.modMx cl (fun m => m.zero x.mxT) else s) cl x.id 0#16 (128 * r.n)
  let (b, fl) := storeBeat (s.cluster cl).mx x.mxT x.dst (r.k / per) (r.k % per)
  let next := fun (s : State) => (s.modMx cl (fun m => { m with flags := m.flags ||| fl })).modRun cl x.id (fun r => { r with k := r.k + 1 })
  if x.toSpad then
    let a := x.b.toNat + 128 * r.k
    match s.ask cl fetchUnit a 128 s.nextId x.id 0#64 with
    | (s, true) =>
      let s1 := next (spadWrite s cl a (Beat.toBytes b))
      if r.k + 1 = r.n then finish s1 else s1
    | (s, false) => s
  else if !s.hasFree cl (portKey 0x21 2) 1 then s
  else if r.k < r.n then next (sendItem s cl (portKey 0x21 2) (.data b))
  else finish (sendItem s cl (portKey 0x21 2) .eos)

/-- One step of an MX command. DEDUCED (log entry 36). -/
def mxStep (cl : Nat) (r : Run) (s : State) : State :=
  match r.cmd.sub with
  | 0 => ldUnit cl r s
  | 8 => stUnit cl r s
  | 9 => s
  | _ => mmaUnit cl r s

/-- An MX command may start (R196): none runs, or an `mx.ld` is next and only an `mx.mma.*` runs. -/
def mxMayStart (c : Cluster) (x : Cmd) : Bool :=
  let busy := c.running.filter (fun r => r.cmd.cls == 3 && !r.done)
  c.mxEn && (busy.isEmpty || (x.sub == 0 && busy.all (fun r => decide (1 ≤ r.cmd.sub) && decide (r.cmd.sub ≤ 7))))

end Sys2Proof.Machine
end

