-- ==== Sys2Proof/Machine/Collective.lean ====
section
/-! DEFINITION. Collectives and one-sided transfers (R321 to R324) at work. A command to another package has its effect
there, outside this package's state; what comes back from there is an input (DESIGN CHOICE, log entry 22). -/

namespace Sys2Proof.Machine

/-! ## Targets (R323) -/

/-- Where an F5 of the task leads. -/
inductive CoTarget where
  | arg
  | own
  | wait
  | ended
  | remote
  deriving DecidableEq, Repr

/-- An F5 that no target may have: W5 cannot hold it, or the task has no domain. -/
def badRank (t : Task) (f5 : Nat) : Bool :=
  decide (2 ^ (t.widths.getD 5 0) ≤ f5) || (f5 != t.rank && t.key == 0#64)

/-- The gang with a target F5. -/
def coTarget (s : State) (t : Task) (f5 : Nat) : CoTarget :=
  if badRank t f5 then .arg
  else if f5 = t.rank then .own
  else match s.fw.gangs.find? (fun g => g.key == t.key && g.objid == t.objid && g.rank == f5) with
    | none => .wait
    | some g => if g.ended then .ended else .remote

/-! ## Collectives (R321, R322) -/

/-- A collective descriptor (Table 23.2). -/
structure Coll where
  id : Nat
  ty : Nat
  op : Nat
  rank : Nat
  n : Nat
  base : Nat
  s : Nat
  deriving DecidableEq, Repr

/-- The descriptor of 32 bytes; none when it breaks the table. DEDUCED (log entry 37). -/
def collOf (t : Task) (v : Nat) : Option Coll :=
  let d0 := bitsAt v 0 64
  let d1 := bitsAt v 64 64
  let d2 := bitsAt v 128 64
  let d3 := bitsAt v 192 64
  let c : Coll := { id := bitsAt d0 32 32, ty := bitsAt d0 28 4, op := bitsAt d0 26 2, rank := bitsAt d0 9 9,
                    n := bitsAt d0 0 9 + 1, base := bitsAt d1 0 9, s := d2 }
  if (c.ty = 0 ∨ c.ty = 1 ∨ c.ty = 8) ∧ c.op ≠ 3 ∧ bitsAt d0 18 8 = 0 ∧ bitsAt d1 9 55 = 0 ∧ d3 = 0 ∧ c.rank < c.n ∧
      c.base + c.rank = t.rank ∧ d2 % 128 = 0 ∧ 128 ≤ d2 ∧ d2 ≤ 1073741824 ∧
      (List.range c.n).all (fun i => !badRank t (c.base + i)) then some c else none

/-- Source and destination bytes of a collective (R322). -/
def Coll.srcBytes (c : Coll) (sub : Nat) : Nat := if sub = 0 ∨ sub = 2 then c.n * c.s else c.s
def Coll.dstBytes (c : Coll) (sub : Nat) : Nat := if sub ≤ 1 then c.n * c.s else c.s

/-- The matching command of a member. DEDUCED (log entry 37). -/
def peerOf (s : State) (t : Task) (c : Coll) (k i : Nat) : Option PeerCmd :=
  s.peers.find? (fun p => p.key == t.key && p.objid == t.objid && p.id.toNat == c.id && p.k == k && p.rank == c.base + i)

/-- The other members. -/
def Coll.others (c : Coll) : List Nat := (List.range c.n).filter (fun i => i != c.rank)

/-- The gang of a member has ended. -/
def peerGone (s : State) (t : Task) (c : Coll) (i : Nat) : Bool := coTarget s t (c.base + i) == .ended

/-- Reduces one element over the members in ascending index (R322). DEDUCED (log entry 37). -/
def reduceElem (ty op : Nat) (xs : List Nat) : Nat :=
  let step := fun (a x : Nat) =>
    if ty = 8 then
      let (i, j) := (asSigned a 32, asSigned x 32)
      if op = 0 then (a + x) % 4294967296 else if (op == 1) == decide (i < j) then x else a
    else if op = 0 then addF32 a x
    else (fminmax Fmt.f32 (op == 1) a x).bits
  let wide := if ty = 1 then xs.map (· * 65536) else xs
  match wide with
  | [] => 0
  | x :: r =>
    let acc := r.foldl step x
    if ty = 1 then (convert Fmt.bf16 Mode.rne 0 (Fmt.f32.read acc)).bits else acc

/-- Reduces blocks of equal length element by element. -/
def reduceBlocks (ty op : Nat) (bs : List (List Byte)) (len : Nat) : List Byte :=
  let w := if ty = 1 then 2 else 4
  (List.range (len / w)).flatMap (fun e => bytesOfNat w (reduceElem ty op (bs.map (fun b => natOfBytes ((b.drop (w * e)).take w)))))

/-- n bytes of a member's source at an offset: this member's own from memory, a peer's as it gave them; bytes it gave none for
are free values. DESIGN CHOICE (log entry 22). -/
def memberBytes (cl : Nat) (t : Task) (c : Coll) (k b i off n : Nat) (s : State) : Res (List Byte) :=
  if i = c.rank then engRead cl (b + off) n s
  else match peerOf s t c k i with
    | none => .stall
    | some p =>
      let bs := (p.src.drop off).take n
      let (v, s1) := freeBytes (n - bs.length) s
      .ok (bs ++ bytesOfNat (n - bs.length) v) s1

/-- The bytes of block u (128 bytes) of the destination. -/
def collBlock (cl : Nat) (t : Task) (c : Coll) (x : Cmd) (k u : Nat) (s : State) : Res (List Byte) :=
  let off := 128 * u
  let b := x.b.toNat
  match x.sub with
  | 0 => memberBytes cl t c k b (off / c.s) (c.rank * c.s + off % c.s) 128 s
  | 1 => memberBytes cl t c k b (off / c.s) (off % c.s) 128 s
  | _ =>
    (Res.each (List.range c.n) [] s (fun acc i s =>
      (memberBytes cl t c k b i ((if x.sub = 2 then c.rank * c.s else 0) + off) 128 s).bind (fun bs s => .ok (acc ++ [bs]) s))).bind
      (fun bs s => .ok (reduceBlocks c.ty c.op bs 128) s)

/-- The descriptor of a running collective, kept in `buf`. -/
def Run.coll (r : Run) (t : Task) : Option Coll := collOf t (natOfBytes r.buf)

/-- A collective command of the task that issued before a name, queued or started, has yet to take its number (R321). -/
def unnumbered (s : State) (tid id : Nat) : Bool :=
  let before := fun (x : Cmd) => x.cls == 4 && decide (x.sub ≤ 3) && decide (x.id < id)
  (s.clustersOf tid).any (fun k => (s.cluster k).running.any (fun r => before r.cmd && !r.done && r.aux == 0)
    || ((s.cluster k).queues ++ (s.cluster k).portq).any (fun q => q.2.any before))

/-- One step of a collective: the descriptor is read, and the command numbered after those of its communicator that issued before it (`aux` 0), the peers are awaited (1), blocks move (2). DEDUCED (log entry 37). -/
def collUnit (cl : Nat) (r : Run) (u : Nat) (s : State) : State :=
  let x := r.cmd
  match s.taskOf cl, (s.cluster cl).owner with
  | some t, some tid =>
    if r.aux = 0 then
      if x.a.toNat % 32 ≠ 0 then endRun s cl x.id Cause.coArg 0
      else if unnumbered s tid x.id then s
      else workRes s cl (engRead cl x.a.toNat 32 s) (fun bs s1 => match collOf t (natOfBytes bs) with
        | none => endRun s1 cl x.id Cause.coArg 0
        | some c =>
          let k := SMap.get t.collectives 0 c.id
          (s1.modTask tid (fun t => { t with collectives := SMap.set t.collectives c.id (k + 1) })).modRun cl x.id
            (fun r => { r with aux := 1, buf := bs, waits := [k], n := c.dstBytes x.sub / 128 })) (fun f => endRun s cl x.id f 0)
    else match r.coll t with
      | none => s
      | some c =>
        let k := r.waits.headD 0
        if !c.others.isEmpty && decide (16 ≤ s.hub.linkDown.length) then endRun s cl x.id Cause.linkDown r.count
        else if r.aux = 1 then
          let ps := c.others.map (fun i => (peerOf s t c k i, i))
          if ps.any (fun p => match p.1 with
              | some q => q.typ != c.ty || q.op != c.op || q.n != c.n || q.s != c.s
              | none => false) then endRun s cl x.id Cause.coMatch 0
          else if ps.any (fun p => p.1.isNone && peerGone s t c p.2) then endRun s cl x.id Cause.coPeer 0
          else if ps.all (fun p => p.1.isSome) then s.modRun cl x.id (fun r => { r with aux := 2 })
          else s
        else if r.did.contains u || decide (r.n ≤ u) then s
        else workRes s cl ((collBlock cl t c x k u s).bind (fun bs s => engWrite cl 4 x.id (x.c.toNat + 128 * u) bs s))
          (fun _ s => advance s cl r u 128) (faultAt s cl r u)
  | _, _ => s

/-! ## One-sided transfers (R323, R324) -/

/-- L, the target F5 and REPL. -/
def Cmd.coLen (x : Cmd) : Nat := bitsAt x.c.toNat 0 32
def Cmd.coF5 (x : Cmd) : Nat := if x.sub = 6 then bitsAt x.c.toNat 0 9 else bitsAt x.c.toNat 32 9
def Cmd.repl (x : Cmd) : Bool := x.sub == 4 && bitAt x.cs 0

/-- Operands of a one-sided transfer outside their limits. -/
def sidedFault (x : Cmd) : Bool :=
  if x.sub = 6 then bitsAt x.c.toNat 9 55 != 0 || x.a.toNat % 8 != 0
  else bitsAt x.c.toNat 41 23 != 0 || x.coLen == 0 || decide (1073741824 < x.coLen) || (x.repl && x.coLen % 128 != 0)

/-- Pieces of a transfer on this package: records of 128 bytes, or lines of the destination. -/
def sidedPieces (x : Cmd) : List (Nat × Nat) :=
  if x.repl then (List.range (x.coLen / 128)).map (fun r => (128 * r, 128))
  else (pieces x.b.toNat x.coLen).map (fun p => (p.1 - x.b.toNat, p.2))

/-- A piece is written on this package. -/
def sidedWrite (cl : Nat) (x : Cmd) (off : Nat) (bs : List Byte) (s : State) : Res Unit :=
  if x.repl then Res.each (replPlaces (x.b.toNat + off) bs) () s (fun _ va s => engWrite cl 4 x.id va bs s)
  else engWrite cl 4 x.id (x.b.toNat + off) bs s

/-- What another package's tables or its link give a command: a translation fault, SYNC.ADDR of a signal, LINK.DOWN, CXL.POISON or LEASE.OUT. -/
def remoteStatus (x : Cmd) (v : Nat) : Option Cause :=
  let c : Cause := BitVec.ofNat 16 v
  if Cause.classOf c = 4 ∨ c = Cause.linkDown ∨ c = Cause.cxlPoison ∨ c = Cause.leaseOut ∨ (x.sub = 6 ∧ c = Cause.syncAddr) then some c else none

/-- It ends the command with its status; LEASE.OUT ends the task (R250). -/
def remoteEnd (s : State) (cl : Nat) (x : Cmd) (f : Cause) (count : Nat) : State :=
  if f = Cause.leaseOut then killAt s cl 4 f else endRun s cl x.id f count

/-- One step of `co.put` or `co.get`. `aux` is 1 once the target is known to be this package, 2 another one. For another
package a unit beyond the last one brings the status found there; bytes from there are free values. DESIGN CHOICE (log entry 22). -/
def sidedUnit (cl : Nat) (r : Run) (u : Nat) (s : State) : State :=
  let x := r.cmd
  match s.taskOf cl with
  | none => s
  | some t =>
    let ps := sidedPieces x
    if r.aux = 0 then match coTarget s t x.coF5 with
      | .arg => endRun s cl x.id Cause.coArg 0
      | .ended => endRun s cl x.id Cause.coPeer 0
      | .wait => s
      | .own => s.modRun cl x.id (fun r => { r with aux := 1, n := ps.length })
      | .remote => s.modRun cl x.id (fun r => { r with aux := 2, n := ps.length })
    else if r.did.contains u then s
    else match ps[u]? with
      | none => if r.aux = 2 then (match remoteStatus x (u - r.n) with
          | some f => remoteEnd s cl x f r.count
          | none => s) else s
      | some (off, n) =>
        if r.aux = 2 ∧ 16 ≤ s.hub.linkDown.length then endRun s cl x.id Cause.linkDown r.count
        else if r.aux = 2 ∧ x.sub = 5 then
          let (v, s1) := freeBytes n s
          workRes s cl (sidedWrite cl x off (bytesOfNat n v) s1) (fun _ s => advance s cl r u n) (faultAt s cl r u)
        else workRes s cl ((engRead cl (x.a.toNat + off) n s).bind (fun bs s =>
            if r.aux = 2 then .ok () s else sidedWrite cl x off bs s)) (fun _ s => advance s cl r u n) (faultAt s cl r u)

/-- One step of `co.sig`, a release (R213). DESIGN CHOICE (log entry 22). -/
def sigUnit (cl : Nat) (r : Run) (u : Nat) (s : State) : State :=
  let x := r.cmd
  match s.taskOf cl with
  | none => s
  | some t => match coTarget s t x.coF5 with
    | .arg => endRun s cl x.id Cause.coArg 0
    | .ended => endRun s cl x.id Cause.coPeer 0
    | .wait => s
    | .own => workRes s cl (nmAddress cl x.a.toNat 8 true s)
        (fun pa s => workRes s cl (nmLine cl 4 none x.a.toNat pa 8 s)
          (fun _ s => endRun (postNm cl (some x.id) none pa (.sig x.b) (closeBatch s (dieOf cl))) cl x.id 0#16 0) (fun f => endRun s cl x.id f 0))
        (fun f => endRun s cl x.id f 0)
    | .remote =>
      if 16 ≤ s.hub.linkDown.length then endRun s cl x.id Cause.linkDown 0
      else if u = 0 then endRun (closeBatch s (dieOf cl)) cl x.id 0#16 0
      else match remoteStatus x u with
        | some f => remoteEnd s cl x f 0
        | none => s

/-- A CO command starts. At the start of a `co.sig` the die's batch closes: every write that has been applied is then performed (R220, R324). -/
def coStart (cl : Nat) (x : Cmd) (s : State) : State :=
  if 4 ≤ x.sub && sidedFault x then endRun s cl x.id Cause.coArg 0 else if x.sub = 6 then closeBatch s (dieOf cl) else s

/-- `co.sig` waits for the earlier commands of its queue, and until the sequencer's earlier writes have been applied (R324). -/
def coMayStart (s : State) (cl q : Nat) (x : Cmd) : Bool :=
  x.sub != 6 || (!(s.cluster cl).running.any (fun r => r.q == q && !s.completed cl r) && !sqPending s cl x.id true)

/-- One step of a CO command. -/
def coStep (cl : Nat) (r : Run) (u : Nat) (s : State) : State :=
  if r.cmd.sub ≤ 3 then collUnit cl r u s
  else if r.cmd.sub = 6 then sigUnit cl r u s
  else sidedUnit cl r u s

end Sys2Proof.Machine
end

