-- ==== Sys2Proof/Machine/Decomp.lean ====
section
/-! DEFINITION. Storage reads and decompression (R320, R325 to R327) at work. -/

namespace Sys2Proof.Machine

/-! ## Operands -/

/-- SPAD: the destination lies in scratchpad. -/
def Cmd.dxSpad (x : Cmd) : Bool := bitAt x.cs 0
/-- CHAIN of `sto.rd`, ZLIB of `dx.inflate`. -/
def Cmd.chain (x : Cmd) : Bool := x.cls == 5 && x.sub == 3 && bitAt x.cs 2
def Cmd.zlib (x : Cmd) : Bool := bitAt x.cs 1
/-- Destination and capacity in bytes. -/
def Cmd.dxDst (x : Cmd) : Nat := if x.sub = 3 then x.a.toNat else x.b.toNat
def Cmd.dxCap (x : Cmd) : Nat := if x.sub = 3 then x.c.toNat else bitsAt x.c.toNat 32 32
def Cmd.dxLen (x : Cmd) : Nat := bitsAt x.c.toNat 0 32
/-- Handle and first block of `sto.rd`. -/
def Cmd.nsHandle (x : Cmd) : Nat := bitsAt x.b.toNat 48 15
def Cmd.lba (x : Cmd) : Nat := bitsAt x.b.toNat 0 48

/-- Operands of a `sto.rd` outside their limits. -/
def stoFault (s : State) (cl : Nat) (x : Cmd) : Bool :=
  let n := x.c.toNat
  n % 4096 != 0 || decide (n < 4096) || decide (16777216 < n) || bitAt x.b.toNat 63 ||
  (match SMap.find s.hub.namespaces x.nsHandle with
   | some ns => decide (ns.blocks < x.lba + n / 4096)
   | none => true) ||
  (!x.chain && (x.a.toNat % 128 != 0 || (x.dxSpad && decide ((s.cluster cl).spbase < x.a.toNat + n))))

/-- Operands of a `dx.*` outside their limits; one that continues a chain names no input. -/
def dxFault (s : State) (cl : Nat) (x : Cmd) (chained : Bool) : Bool :=
  (if chained then false else x.dxLen == 0 || decide (1073741824 < x.dxLen)) || x.dxCap == 0 ||
  (x.dxSpad && decide ((s.cluster cl).spbase < x.dxDst + x.dxCap))

/-- The `sto.rd` with CHAIN before it that a command of a queue continues. -/
def chainHead (c : Cluster) (q id : Nat) : Option Run :=
  c.running.find? (fun r => r.q == q && r.cmd.id != id && r.cmd.chain && r.waits.isEmpty && !r.done)

/-- The command that a chain hands its data to is fit for it. -/
def chainFits (h x : Cmd) : Bool := h.a == 0#64 && x.cls == 5 && decide (x.sub < 3) && x.a == 0#64 && x.dxLen == 0

/-! ## Start -/

/-- Decompression engines at work in the package. -/
def decompressors (s : State) : Nat :=
  s.clusters.foldl (fun n c => n + (c.2.running.filter (fun r => r.cmd.cls == 5 && decide (r.cmd.sub < 3) && !r.done)).length) 0

/-- A Read command of a `sto.rd`, of 1,024 units of 128 bytes, is outstanding: its command runs, and a unit of it has yet to move. -/
def readOpen (s : State) (e : Nat × Nat) : Bool :=
  s.clusters.any (fun c => c.2.running.any (fun r => r.cmd.id == e.1 && !r.done &&
    (List.range 1024).any (fun u => decide (1024 * e.2 + u < r.n) && !r.did.contains (1024 * e.2 + u))))

/-- The queue pairs without the Read commands of `sto.rd` that have ended (R325). -/
def tidyPairs (s : State) : State :=
  { s with hub := { s.hub with qpairs := (s.hub.qpairs.map (fun p => (p.1, if p.1 < 4 then p.2 else p.2.filter (readOpen s)))).filter (fun p => !p.2.isEmpty) } }

/-- The next pair for `sto.rd`: 4 to 63 in turn. Every pair reaches every device. DESIGN CHOICE (log entry 39). -/
def Hub.afterPair (k : Nat) : Nat := if k + 1 < Config.queuePairs then k + 1 else 4

/-- Read commands of at most 128 KiB enter the queue pairs in turn (R325, R326). -/
def submitReads (id : Nat) : List Nat → State → State
  | [], s => s
  | p :: ps, s =>
    let k := s.hub.nextPair
    submitReads id ps { s with hub := { s.hub with qpairs := SMap.set s.hub.qpairs k (SMap.get s.hub.qpairs [] k ++ [(id, p)]),
                                                    nextPair := Hub.afterPair k } }

/-- The Read commands of a `sto.rd` enter the queue pairs. -/
def askReads (x : Cmd) (s : State) : State := submitReads x.id (List.range (ceilDiv x.c.toNat 131072)) (tidyPairs s)

/-- The Read commands of a `sto.rd` find room in the pairs that are next in turn. -/
def pairsFree (s : State) (x : Cmd) : Bool :=
  (askReads x s).hub.qpairs.all (fun p => decide (p.2.length ≤ Config.pairDepth))

/-- A DX command may start: a decompression engine is free, or the queue pairs have room, and the scoreboard holds an entry for a
scratchpad destination. -/
def dxMayStart (s : State) (cl : Nat) (x : Cmd) : Bool :=
  (if x.sub = 3 then stoFault s cl x || pairsFree s x else decide (decompressors s < 4)) && (!x.dxSpad || x.chain || decide ((s.cluster cl).board.length < 16))

/-- A started command of class DX. `aux`: 0 reads its input; 1 writes its output; 2 a chain's data is ready; 3 a chain's
operands were at fault; 4 waits for a chain. PRESUMED (log entry 23). -/
def dxStart (cl q : Nat) (x : Cmd) (s : State) : State :=
  let c := s.cluster cl
  let enter := fun (s : State) => if x.dxSpad then boardEnter s cl x.id x.dxDst x.dxCap else s
  match chainHead c q x.id with
  | some h =>
    if !chainFits h.cmd x then endRun (endRun s cl h.cmd.id Cause.dxArg 0) cl x.id Cause.dxArg 0
    else
      let s1 := s.modRun cl h.cmd.id (fun r => { r with waits := [x.id] })
      if h.aux = 3 then endRun (endRun s1 cl h.cmd.id Cause.stoArg 0) cl x.id Cause.dxArg 0
      else if dxFault s cl x true then endRun (endRun s1 cl h.cmd.id Cause.dxArg 0) cl x.id Cause.dxArg 0
      else (enter s1).modRun cl x.id (fun r => { r with aux := 4, waits := [h.cmd.id] })
  | none =>
    if x.sub = 3 then
      if stoFault s cl x then if x.chain then s.modRun cl x.id (fun r => { r with aux := 3 }) else endRun s cl x.id Cause.stoArg 0
      else (askReads x (if x.chain then s else enter s)).modRun cl x.id (fun r => { r with n := x.c.toNat / 128 })
    else if dxFault s cl x false then endRun s cl x.id Cause.dxArg 0
    else (enter s).modRun cl x.id (fun r => { r with n := (pieces x.a.toNat x.dxLen).length })

/-! ## Work -/

/-- Writes a piece of output, to scratchpad or to memory. -/
def dxWrite (cl : Nat) (r : Run) (va : Nat) (bs : List Byte) (s : State) : Res Unit :=
  if r.cmd.dxSpad then
    let made := (s.cluster cl).boardTime r.cmd.id s.nextId
    match s.ask cl copyUnit va bs.length made r.cmd.id 0#64 with
    | (s, true) => .ok () (spadWrite s cl va bs)
    | (s, false) => .stallIn s
  else engWrite cl 5 r.cmd.id va bs s

/-- The command ends; its scoreboard entry retires. -/
def dxEnd (cl : Nat) (r : Run) (st : Cause) (count : Nat) (s : State) : State := boardDone (endRun s cl r.cmd.id st count) cl r.cmd.id

/-- The bytes of 128-byte unit u of a storage read. -/
def blockBytes (s : State) (x : Cmd) (u : Nat) : List Byte :=
  match SMap.find s.hub.namespaces x.nsHandle with
  | some ns => ns.data.readBytes 128 (4096 * x.lba + 128 * u)
  | none => []

/-- One step of a `sto.rd`: 128 bytes of the device's data, in any sequence; a unit beyond the last is a nonzero NVMe status. -/
def stoUnit (cl : Nat) (r : Run) (u : Nat) (s : State) : State :=
  let x := r.cmd
  if x.chain then
    if r.aux ≠ 0 then s
    else if r.n ≤ u then endRun s cl x.id Cause.stoIo r.count
    else if u ≠ r.did.length then s
    else
      let r1 := { r.moved u 128 with buf := r.buf ++ blockBytes s x u }
      s.modRun cl x.id (fun _ => { r1 with aux := if r.n ≤ r1.did.length then 2 else 0 })
  else if r.did.contains u then s
  else if r.n ≤ u then dxEnd cl r Cause.stoIo r.count s
  else workRes s cl (dxWrite cl r (x.a.toNat + 128 * u) (blockBytes s x u) s)
    (fun _ s =>
      let r1 := r.moved u 128
      let s1 := s.modRun cl x.id (fun _ => r1)
      if r.n ≤ r1.did.length then dxEnd cl r1 0#16 r1.count s1 else s1)
    (fun f => if r.upTo u then dxEnd cl r f r.count s else s)

/-- The whole input is there: it is decompressed, and the output waits to be written. `k` bytes are written already; `waits`
holds the status the output ends with. -/
def dxDecode (cl : Nat) (r : Run) (input : List Byte) (s : State) : State :=
  let (out, st) := decompress r.cmd.sub r.cmd.zlib input r.cmd.dxCap
  s.modRun cl r.cmd.id (fun r => { r with aux := 1, k := 0, n := out.length, buf := out, waits := [st.toNat], did := [] })

/-- One step of a `dx.*`. -/
def dxUnit (cl : Nat) (r : Run) (s : State) : State :=
  let x := r.cmd
  match r.aux with
  | 0 =>
    match (pieces x.a.toNat x.dxLen)[r.k]? with
    | none => dxDecode cl r r.buf s
    | some (a, n) => workRes s cl (engRead cl a n s)
        (fun bs s => s.modRun cl x.id (fun r => { r with k := r.k + 1, buf := r.buf ++ bs })) (fun f => dxEnd cl r f 0 s)
  | 4 => match (s.cluster cl).run (r.waits.headD 0) with
    | none => dxDecode cl r [] s
    | some h =>
      if h.done then dxDecode cl r h.buf s
      else if h.aux = 2 then dxDecode cl r h.buf (endRun s cl h.cmd.id 0#16 h.count)
      else s
  | _ =>
    let dst := x.dxDst + r.k
    let n := Nat.min (r.n - r.k) (128 - dst % 128)
    if r.n ≤ r.k then dxEnd cl r (BitVec.ofNat 16 (r.waits.headD 0)) r.k s
    else workRes s cl (dxWrite cl r dst ((r.buf.drop r.k).take n) s) (fun _ s => s.modRun cl x.id (fun r => { r with k := r.k + n }))
      (fun f => dxEnd cl r f r.k s)

/-- One step of a DX command. PRESUMED (log entry 23). -/
def dxStep (cl : Nat) (r : Run) (u : Nat) (s : State) : State := if r.cmd.sub = 3 then tidyPairs (stoUnit cl r u s) else dxUnit cl r s

end Sys2Proof.Machine
end

