-- ==== Sys2Proof/Machine/Loops.lean ====
section
/-! DEFINITION. The loops and bridges of the dies (R204 to R209, R215): which way a message takes, its flits, and their moves from link
to link. A message of any kind may be put on its way flit by flit; what it brings then takes effect once its flits have arrived. DESIGN
CHOICE (log entry 33). -/

namespace Sys2Proof.Machine

/-! ## The loops (R204) -/

/-- The 28 unordered pairs of cluster rows, in lexicographic order. -/
def rowPairs : List (Nat × Nat) :=
  (List.range 8).flatMap (fun a => ((List.range 8).filter (fun b => decide (a < b))).map (fun b => (a, b)))

/-- The rows of a loop; loops 2k and 2k + 1 are the clockwise and the counter-clockwise one of pair k. -/
def loopRows (l : Nat) : Nat × Nat := rowPairs.getD (l / 2) (0, 1)

/-- A loop of a pair of rows. -/
def loopOf (a b : Nat) (clockwise : Bool) : Nat := 2 * rowPairs.idxOf (Nat.min a b, Nat.max a b) + (if clockwise then 0 else 1)

/-- The position of a stop, numbered 8y + x, on a loop, and the stop at a position. -/
def loopPos (l stop : Nat) : Nat := if stop / 8 = (loopRows l).1 then stop % 8 else 15 - stop % 8
def loopStop (l pos : Nat) : Nat := if pos < 8 then 8 * (loopRows l).1 + pos else 8 * (loopRows l).2 + (15 - pos)

/-- The position that follows one in a loop's direction. -/
def loopStep (l pos : Nat) : Nat := if l % 2 = 0 then (pos + 1) % 16 else (pos + 15) % 16

/-- The stops in the sequence in which a loop visits them. -/
def loopSeq (l : Nat) : List Nat := (List.range 16).map (fun k => loopStop l (if l % 2 = 0 then k else 15 - k))

/-- Hops from one stop of a loop to another. -/
def loopHops (l src dst : Nat) : Nat :=
  if l % 2 = 0 then (loopPos l dst + 16 - loopPos l src) % 16 else (loopPos l src + 16 - loopPos l dst) % 16

/-! ## The way of a message (R205, R215) -/

/-- The row that pairs with that of a message between stops of one row. -/
def sameRowPair (y xs xd : Nat) : Nat := (y + 1 + (xs + xd) % 7) % 8

/-- The loop a message between two stops takes: that of their rows, in the direction with fewer hops. -/
def loopFor (src dst : Nat) : Nat :=
  let (ys, yd) := (src / 8, dst / 8)
  let cw := loopOf ys (if ys = yd then sameRowPair ys (src % 8) (dst % 8) else yd) true
  if loopHops cw src dst ≤ loopHops (cw + 1) src dst then cw else cw + 1

/-- Bridges of a die: 0 horizontal, 1 vertical, 2 diagonal, 3 hub. The one to a peer, and the peer across it. -/
def bridgeTo (die peer : Nat) : Nat := (die ^^^ peer) - 1
def bridgePeer (die b : Nat) : Nat := die ^^^ (b + 1)

/-- The gateway stop at an index along a bridge's edge (Table 13.5), and the index of a stop's own gateway: its row for a column edge, its
column for a row edge. -/
def gatewayStop (die b idx : Nat) : Nat :=
  let (cx, cy) := (die % 2, die / 2)
  match b with
  | 0 => 8 * idx + (if cx = 0 then 7 else 0)
  | 1 => 8 * (if cy = 0 then 7 else 0) + idx
  | 2 => 8 * (if cy = 0 then 0 else 7) + idx
  | _ => 8 * idx + (if cx = 0 then 0 else 7)
def gatewayIndex (b stop : Nat) : Nat := if b = 0 ∨ b = 3 then stop / 8 else stop % 8

/-- The way within one die; none to the stop itself. -/
def legOn (die src dst : Nat) : List Leg :=
  if src = dst then [] else let l := loopFor src dst; [.loop die l (loopPos l dst)]

/-- The way from a stop to a stop, over the bridge between their dies. -/
def route (die src peer dst : Nat) : List Leg :=
  if die = peer then legOn die src dst
  else
    let b := bridgeTo die peer
    let i := gatewayIndex b src
    legOn die src (gatewayStop die b i) ++ [.bridge die b i] ++ legOn peer (gatewayStop peer b i) dst

/-- The way from a stop to the hub, and from the hub to a stop, by the gateway in the stop's own row or column. -/
def hubRoute (die src : Nat) : List Leg :=
  let i := gatewayIndex 3 src
  legOn die src (gatewayStop die 3 i) ++ [.bridge die 3 i]
def fromHubRoute (die dst : Nat) : List Leg :=
  let i := gatewayIndex 3 dst
  [.fromHub die i] ++ legOn die (gatewayStop die 3 i) dst

/-! ## Flits (R207, R208) -/

/-- The kinds of Table 13.2. -/
inductive FlitKind where
  | request
  | response
  | writeData
  | notice
  | channelItem
  | commandPacket
  deriving DecidableEq, Repr

def FlitKind.code : FlitKind → Nat
  | .request => 0
  | .response => 1
  | .writeData => 2
  | .notice => 3
  | .channelItem => 4
  | .commandPacket => 5

/-- A flit's header (Table 13.2). -/
def flitHeader (frame vc ddie dstop sdie sstop : Nat) (kind : FlitKind) (more tag : Nat) : Word :=
  BitVec.ofNat 64 (frame % 8 * 2 ^ 61 + vc * 2 ^ 59 + ddie * 2 ^ 57 + dstop * 2 ^ 51 + sdie * 2 ^ 49 + sstop * 2 ^ 43 + kind.code * 2 ^ 40
    + more * 2 ^ 36 + tag % 2 ^ 32)

def NetFlit.frame (f : NetFlit) : Nat := bitsAt f.header.toNat 61 3
def NetFlit.vc (f : NetFlit) : Nat := bitsAt f.header.toNat 59 2

/-- One byte of the CRC-16 with polynomial $1021. -/
def crc16Byte (c b : Nat) : Nat :=
  (List.range 8).foldl (fun c _ => if bitAt c 15 then (2 * c % 65536) ^^^ 0x1021 else 2 * c % 65536) (c ^^^ (256 * b))
def crc16 (bs : List Nat) : Nat := bs.foldl crc16Byte 0xFFFF

/-- The CRC of a flit: over the header and then the payload, each from its lowest byte. DESIGN CHOICE (log entry 33). -/
def flitCrc (header : Word) (payload : BitVec 512) : BitVec 16 :=
  BitVec.ofNat 16 (crc16 ((bytesOfNat 8 header.toNat ++ bytesOfNat 64 payload.toNat).map (·.toNat)))

/-- What the flits of a posted message carry: a request with the address, then a write's bytes. DESIGN CHOICE (log entry 33). -/
def Msg.parts : Msg → List (FlitKind × Nat)
  | .write r => (.request, r.pa) :: (List.range (ceilDiv r.bytes.length 64)).map (fun k => (.writeData, natOfBytes ((r.bytes.drop (64 * k)).take 64)))
  | .near o => [(.request, o.pa)]

/-- A message as it enters the network: its flits' kinds and payloads, its virtual channel, its way, the die and stop at each end, its
source, that source's class of quota, and the task whose access it is. -/
structure Parcel where
  parts : List (FlitKind × Nat)
  vc : Nat
  legs : List Leg
  sdie : Nat
  sstop : Nat
  ddie : Nat
  dstop : Nat
  source : Nat
  cls : Nat
  task : Option Nat

/-- A message from a cluster's stop to the home of an address: over the hub's bridge where that lies outside the package's HBM. -/
def toHome (s : State) (cl pa : Nat) (task : Option Nat) (parts : List (FlitKind × Nat)) : Parcel :=
  let (die, stop) := (dieOf cl, cl % 64)
  let (legs, ddie, dstop) := match homeStop pa with
    | some (peer, dst) => (route die stop peer dst, peer, dst)
    | none => (hubRoute die stop, die, gatewayStop die 3 (gatewayIndex 3 stop))
  { parts := parts, vc := 0, legs := legs, sdie := die, sstop := stop, ddie := ddie, dstop := dstop, source := stop, cls := s.classAt cl, task := task }

/-- The source number of a gateway among a die's sources (R209). -/
def gatewaySource (b idx : Nat) : Nat := 64 + 8 * b + idx

/-- A message from the hub to a stop: it enters at a gateway, which no task owns. -/
def fromHubTo (die stop vc : Nat) (task : Option Nat) (parts : List (FlitKind × Nat)) : Parcel :=
  let i := gatewayIndex 3 stop
  { parts := parts, vc := vc, legs := fromHubRoute die stop, sdie := die, sstop := gatewayStop die 3 i, ddie := die, dstop := stop,
    source := gatewaySource 3 i, cls := 3, task := task }

/-- The response to an access at pa: from the slice's stop, from the queue of the near-memory unit, or from the hub. -/
def responseTo (s : State) (cl pa : Nat) (near : Bool) : Parcel :=
  let (die, stop) := (dieOf cl, cl % 64)
  let parts := [(FlitKind.response, s.mem.read (if near then 8 else 64) (if near then pa else pa / 64 * 64))]
  let task := (s.cluster cl).owner
  match homeStop pa with
  | some (peer, src) =>
    { parts := parts, vc := 1, legs := route peer src die stop, sdie := peer, sstop := src, ddie := die, dstop := stop,
      source := if near then 96 + pa / Config.stackBytes % 2 else src, cls := if near then 3 else s.classAt (64 * peer + src), task := task }
  | none => fromHubTo die stop 1 task parts

/-- The payload of a notice: its clock and its lines. -/
def Notice.payload (n : Notice) : Nat :=
  natOfBytes ((n.clock.flatMap (fun v => bytesOfNat 4 v.toNat)) ++ n.lines.flatMap (fun l => bytesOfNat 6 l)) % 2 ^ 512

/-- What the flits of an item carry: a beat's two halves, or a token. -/
def Item.parts : Item → List (FlitKind × Nat)
  | .data b => [(.channelItem, b.toNat % 2 ^ 512), (.channelItem, b.toNat / 2 ^ 512)]
  | .drop b => [(.channelItem, b.toNat % 2 ^ 512), (.channelItem, b.toNat / 2 ^ 512)]
  | .bound n => [(.channelItem, n)]
  | .abort st => [(.channelItem, st.toNat)]
  | _ => [(.channelItem, 0)]

/-- The packet of a command. -/
def Cmd.payload (x : Cmd) : Nat :=
  x.cls + 16 * x.sub + 256 * x.tag + 2 ^ 64 * x.a.toNat + 2 ^ 128 * x.b.toNat + 2 ^ 192 * x.c.toNat

/-- The task whose gang a failing flit about a key meets: that of the key's fetch, else of a row parked for it at the die. -/
def State.fetchTask (s : State) (key die : Nat) : Option Nat :=
  match s.hub.fetches.find? (fun f => f.key == key) with
  | some f => f.task
  | none => ((s.die die).bramble.find? (fun b => b.key.toNat == key)).map (·.task)

/-- What may enter the network now, and how (R207, R209); none where nothing such is due. DESIGN CHOICE (log entry 33). -/
def parcelOf (s : State) (x : Freight) : Option Parcel :=
  match x with
  | .posted id =>
    (s.posted.find? (fun m => m.id == id && m.frame.isNone)).map (fun m => toHome s m.cl m.pa m.task m.parts)
  | .request cl _ => match s.asked with
    | some (k, pa, near) => if k = cl ∧ ¬ (pa = hubPlace ∧ near) then some (toHome s cl pa (s.cluster cl).owner [(.request, pa)]) else none
    | none => none
  | .response cl _ => match s.asked with
    | some (k, pa, near) => if k = cl ∧ ¬ (pa = hubPlace ∧ near) then some (responseTo s cl pa near) else none
    | none => none
  | .notice src num dst =>
    if src = dst then none
    else ((s.die dst).notices.find? (fun n => n.src == src && (clockAt n.clock src).toNat == num)).map (fun n =>
      let b := bridgeTo src dst
      { parts := [(.notice, n.payload)], vc := 1, legs := [.bridge src b 0], sdie := src, sstop := gatewayStop src b 0, ddie := dst,
        dstop := gatewayStop dst b 0, source := gatewaySource b 0, cls := 3, task := n.task })
  | .item cl key => match (s.cluster cl).chan key with
    | some ch => match ch.vc, ch.riding.find? (fun r => !r.flits) with
      | some vc, some r =>
        some { parts := r.item.parts, vc := vc, legs := route (dieOf ch.prodCl) (ch.prodCl % 64) (dieOf cl) (cl % 64), sdie := dieOf ch.prodCl,
               sstop := ch.prodCl % 64, ddie := dieOf cl, dstop := cl % 64, source := ch.prodCl % 64, cls := s.classAt ch.prodCl,
               task := (s.cluster ch.prodCl).owner }
      | _, _ => none
    | none => none
  | .command cl id => ((s.cluster cl).running.find? (fun r => r.cmd.id == id && decide (4 ≤ r.cmd.cls) && !r.done && r.k == 0 && r.did.isEmpty)).map
      (fun r => { toHome s cl hubPlace (s.cluster cl).owner [(.commandPacket, r.cmd.payload)] with vc := 0 })
  | .completion cl id => ((s.cluster cl).running.find? (fun r => r.cmd.id == id && decide (4 ≤ r.cmd.cls) && r.done)).map
      (fun r => fromHubTo (dieOf cl) (cl % 64) 1 (s.cluster cl).owner [(.response, r.count)])
  | .sliceReady key die => (SMap.find s.hub.ert key).map (fun e => fromHubTo die (gatewayStop die 3 0) 1 (s.fetchTask key die) [(.notice, key + 4294967296 * e.pre)])
  | .ertUpdate key die => (SMap.find s.hub.ert key).map (fun e => fromHubTo die (gatewayStop die 3 0) 1 (s.fetchTask key die) [(.response, key + 4294967296 * e.pre)])
  | .expert cl => if s.asked = some (cl, hubPlace, true) then some (toHome s cl hubPlace (s.cluster cl).owner [(.request, hubPlace)]) else none

/-! ## Frames (R209) -/

/-- The transaction tag of what flits carry (Table 13.2). DESIGN CHOICE (log entry 33). -/
def Freight.tag : Freight → Nat
  | .posted id => id
  | .request _ u | .response _ u => u
  | .notice _ n _ => n
  | .item _ key => key
  | .command _ id | .completion _ id => id
  | .sliceReady key _ | .ertUpdate key _ => key
  | .expert _ => hubPlace

/-- The flits of a parcel, with the frames that its source has stamped. -/
def Parcel.flits (p : Parcel) (x : Freight) (fs : List Nat) : List NetFlit :=
  ((List.range p.parts.length).zip (p.parts.zip fs)).map (fun k =>
    let h := flitHeader k.2.2 p.vc p.ddie p.dstop p.sdie p.sstop k.2.1.1 (p.parts.length - 1 - k.1) x.tag
    let v := BitVec.ofNat 512 k.2.1.2
    { header := h, payload := v, crc := flitCrc h v, load := x, task := p.task, legs := p.legs,
      pos := (match p.legs.head? with
        | some (.loop _ l _) => loopPos l p.sstop
        | _ => 0), waiting := true, tries := 0 })

/-- What becomes of a message that has entered the network: a posted one keeps its frame, an item rides. -/
def State.entered (s : State) (x : Freight) (frame : Nat) : State :=
  match x with
  | .posted id => { s with inflight := s.inflight.map (fun r => if r.id = id then { r with frame := some (frame % 8) } else r),
                           nmops := s.nmops.map (fun o => if o.id = id then { o with frame := some (frame % 8) } else o) }
  | .item cl key => s.modChan cl key (fun ch =>
      { ch with riding := (ch.riding.takeWhile (·.flits)) ++ ((ch.riding.dropWhile (·.flits)).take 1).map (fun r => { r with flits := true })
                            ++ (ch.riding.dropWhile (·.flits)).drop 1 })
  | _ => s

/-- A message enters the network: its flits wait at its stop, stamped, unless its way is empty, it is on its way already, or its source
stalls. -/
def inject (s : State) (x : Freight) : State :=
  match parcelOf s x with
  | none => s
  | some p =>
    let alone := match x with
      | .item .. => false
      | _ => s.onWay x
    if p.legs.isEmpty || alone then s
    else match s.stampsOf p.sdie p.source p.cls p.parts.length with
    | none => s
    | some (fs, src) =>
      { (s.entered x (fs.getLastD 0)) with net := s.net ++ p.flits x fs }.modDie p.sdie (fun d => { d with sources := SMap.set d.sources p.source src })

/-! ## Links (R206) -/

/-- The flit stands at a position of a loop; in a buffer of the link there, or waiting to be injected. -/
def NetFlit.onLoop (f : NetFlit) (die l pos : Nat) : Bool :=
  match f.legs.head? with
  | some (.loop d k _) => d == die && k == l && f.pos == pos
  | _ => false
def NetFlit.onBridge (f : NetFlit) (die b idx : Nat) : Bool := f.legs.head? == some (.bridge die b idx)
def NetFlit.fromHub (f : NetFlit) (die idx : Nat) : Bool := f.legs.head? == some (.fromHub die idx)

/-- The input of an arbiter that a flit stands at: its virtual channel, through traffic or injection. -/
def NetFlit.input (f : NetFlit) : Nat := 2 * f.vc + (if f.waiting then 1 else 0)

/-- The first flit of each input, with its place in the list. -/
def linkFronts (fs : List (Nat × NetFlit)) : List (Nat × NetFlit) :=
  (List.range 8).filterMap (fun i => fs.find? (fun x => x.2.input == i))

/-- The arbiter's choice (R209): a flit that no other beats, and among equals the next input after the one taken last. -/
def arbitrate (last : Nat) (fs : List (Nat × NetFlit)) : Option (Nat × NetFlit) :=
  let best := fs.filter (fun x => !fs.any (fun y => beatsFrame y.2.frame x.2.frame))
  ((List.range 8).map (fun k => (last + 1 + k) % 8)).findSome? (fun i => best.find? (fun x => x.2.input == i))

/-- A flit has come to the end of a part of its way: it waits to enter the next, or has arrived and leaves. -/
def nextLeg (f : NetFlit) (at_ : Nat) : Option NetFlit :=
  match f.legs.drop 1 with
  | [] => none
  | .loop d l x :: r => some { f with legs := .loop d l x :: r, pos := loopPos l at_, waiting := true, tries := 0 }
  | l :: r => some { f with legs := l :: r, pos := 0, waiting := true, tries := 0 }

/-- The flits of a message that follow this one (Table 13.2). -/
def NetFlit.more (f : NetFlit) : Nat := bitsAt f.header.toNat 36 4

/-- An item whose last flit has left the network rides no longer. -/
def Chan.arrived (ch : Chan) : Chan :=
  match ch.riding with
  | r :: rest => { ch with riding := { r with flits := false } :: rest }
  | [] => ch

/-- The k-th flit becomes another, or leaves; an item has arrived with its last flit. -/
def State.setFlit (s : State) (k : Nat) (f : Option NetFlit) : State :=
  match f with
  | some x => { s with net := s.net.set k x }
  | none =>
    let s1 := { s with net := s.net.eraseIdx k }
    match (s.net[k]?).map (fun (g : NetFlit) => (g.load, g.more)) with
    | some (Freight.item cl key, 0) => landItem (s1.modChan cl key Chan.arrived) cl key
    | _ => s1

/-- The flits of the network with their places. -/
def State.flitsAt (s : State) (p : NetFlit → Bool) : List (Nat × NetFlit) :=
  ((List.range s.net.length).zip s.net).filter (fun x => p x.2)

/-- A link, or a bridge at an index, takes a flit in a cycle of its own. -/
def useLink (s : State) (die key input : Nat) : State :=
  let s1 := s.upTo (SMap.get (s.die die).linkAt 0 key)
  s1.modDie die (fun d => { d with linkLast := SMap.set d.linkLast key input, linkAt := SMap.set d.linkAt key (s1.now + 1) })

/-- A stop ejects a flit: at most four in one cycle. -/
def ejectAt (s : State) (die stop : Nat) : State :=
  let (c, n) := SMap.get (s.die die).ejects (0, 0) stop
  let s1 := s.upTo (if n < 4 then c else c + 1)
  s1.modDie die (fun d => { d with ejects := SMap.set d.ejects stop (s1.now, if s1.now = c then n + 1 else 1) })

/-- One flit moves over the link that leaves a position of a loop, into a free buffer of its virtual channel at the next. -/
def moveLink (s : State) (die l pos : Nat) : State :=
  let next := loopStep l pos
  let room := fun (vc : Nat) => decide ((s.flitsAt (fun f => f.onLoop die l next && !f.waiting && f.vc == vc)).length < Config.linkFlits)
  let key := 16 * l + pos
  match arbitrate (SMap.get (s.die die).linkLast 7 key) (linkFronts ((s.flitsAt (fun f => f.onLoop die l pos)).filter (fun x => room x.2.vc))) with
  | none => s
  | some (k, f) =>
    let s1 := useLink s die key f.input
    match f.legs.head? with
    | some (.loop _ _ dst) =>
      if dst = next then (ejectAt s1 die (loopStop l next)).setFlit k (nextLeg f (loopStop l next))
      else s1.setFlit k (some { f with pos := next, waiting := false, tries := 0 })
    | _ => s

/-- A flit that crosses a bridge finds a free buffer at the gateway beyond, or a notice a place in the die's notice buffer: a full one
holds back virtual channel 1 there (R214). -/
def bridgeRoom (s : State) (die stop : Nat) (f : NetFlit) : Bool :=
  match nextLeg f stop, f.load with
  | some x, _ => decide ((s.flitsAt (fun y => y.legs.head? == x.legs.head? && y.pos == x.pos && y.waiting && y.vc == x.vc)).length < Config.linkFlits)
  | none, .notice .. => decide ((s.atDie die).length < Config.noticeEntries)
  | none, _ => true

/-- The first flit of each virtual channel that waits for a bridge, where it has room beyond. -/
def bridgeFronts (s : State) (peer stop : Nat) (p : NetFlit → Bool) : List (Nat × NetFlit) :=
  (linkFronts (s.flitsAt p)).filter (fun x => bridgeRoom s peer stop x.2)

/-- One flit crosses a bridge at an index. -/
def crossBridge (s : State) (die b idx : Nat) : State :=
  let peer := bridgePeer die b
  let stop := gatewayStop peer b idx
  let key := 1024 + 8 * b + idx
  match arbitrate (SMap.get (s.die die).linkLast 7 key) (bridgeFronts s peer stop (fun f => f.onBridge die b idx)) with
  | none => s
  | some (k, f) => (useLink s die key f.input).setFlit k (nextLeg f stop)

/-- One flit crosses from the hub to a die's gateway. -/
def crossFromHub (s : State) (die idx : Nat) : State :=
  let stop := gatewayStop die 3 idx
  let key := 1056 + idx
  match arbitrate (SMap.get (s.die die).linkLast 7 key) (bridgeFronts s die stop (fun f => f.fromHub die idx)) with
  | none => s
  | some (k, f) => (useLink s die key f.input).setFlit k (nextLeg f stop)

/-! ## Retries (R208, R215) -/

/-- A flit as the next stop receives it, some of its 592 bits turned: header, payload, CRC. -/
def NetFlit.received (f : NetFlit) (err : BitVec 592) : NetFlit :=
  { f with header := f.header ^^^ err.extractLsb' 0 64, payload := f.payload ^^^ err.extractLsb' 64 512,
           crc := f.crc ^^^ err.extractLsb' 576 16 }

/-- The check at the next stop passes. -/
def NetFlit.good (f : NetFlit) : Bool := flitCrc f.header f.payload == f.crc

/-- The fault of a flit that has failed eight times in succession. -/
def NetFlit.fault (f : NetFlit) : Cause :=
  match f.legs.head? with
  | some (.bridge ..) | some (.fromHub ..) => Cause.errBridge
  | _ => Cause.errLoop

end Sys2Proof.Machine
end

