-- ==== Sys2Proof/Machine/Die.lean ====
section
/-! DEFINITION. Steps of the die level and of memory at its home: flit retries (R208, R215, R319), frames (R209, R267), write
batches and causal notices (R213, R214), posted writes (R220), near-memory operations and waiters (R226, R230), the scrub
(R242), and accesses from the host and from other packages (R316, R317, R319). -/

namespace Sys2Proof.Machine

/-! ## Uncorrectable errors (R217, R274) -/

/-- GANG_ABORT: an uncorrectable error in a unit of a gang. -/
def execGangAbort (task : Nat) (cause : Cause) (s : State) : Host.Outcome State Fault Refusal :=
  if Cause.classOf cause = 10 then .next (gangError s (some task) cause) else .next s

/-! ## Flits (R208, R215, R319) -/

/-- LOOP_FLIT_RETRANSMIT: the k-th flit is sent again over its link, four cycles later, and arrives with the bits of `eh` turned in
its header, of `lo` and `hi` in the halves of its payload, and of `ec` in its CRC. Where its check passes it goes on as it came; its eighth
failure in succession aborts the gang whose access it is; no flit is ever dropped, so what it carries still has to arrive (R206). -/
def execLoopFlitRetransmit (k : Nat) (eh : BitVec 64) (lo hi : BitVec 256) (ec : BitVec 16) (s : State) : Host.Outcome State Fault Refusal :=
  match s.net[k]? with
  | none => .next s
  | some f =>
    let r := f.received (ec ++ hi ++ lo ++ eh)
    if r.good then .next ((s.upTo (s.now + 4)).setFlit k (some { r with tries := 0 }))
    else if f.tries + 1 < 8 then .next ((s.upTo (s.now + 4)).setFlit k (some { f with tries := f.tries + 1 }))
    else .next (gangError (s.setFlit k (some { f with tries := 0 })) f.task f.fault)

/-- LINK_RETRY: a Trelest Link flit is sent again; after eight failures the port is down. -/
def execLinkRetry (port : Nat) (good : Bool) (s : State) : Host.Outcome State Fault Refusal :=
  let h := s.hub
  let n := SMap.get h.linkRetry 0 port + 1
  if 16 ≤ port ∨ h.linkDown.contains port then .next s
  else if good then .next { s with hub := { h with linkRetry := SMap.del h.linkRetry port } }
  else if n < 8 then .next { s with hub := { h with linkRetry := SMap.set h.linkRetry port n } }
  else .next { s with hub := { h with linkRetry := SMap.del h.linkRetry port, linkDown := port :: h.linkDown } }

/-! ## Frames (R209, R267) -/

/-- QOS_FRAME_BOUNDARY: the next frame begins; every source has the quota of its class. -/
def execQosFrameBoundary (s : State) : Host.Outcome State Fault Refusal :=
  let s1 := s.upTo ((s.now / Config.frameCycles + 1) * Config.frameCycles)
  .next ((List.range 4).foldl (fun s d => s.modDie d (fun x => { x with quota := s.fw.quotas })) s1)

/-- The classes in the sequence in which quotas fall: BULK, NORMAL, HIGH. -/
def throttleOrder : List Nat := [3, 2, 1]

/-- The module is out of its limits (R267): an inlet above 40 °C, a flow below 4.0 L/min, or a draw above the limit that QUERY sets. -/
def outOfLimits (s : State) (m : Measure) : Bool := decide (400 < m.inlet) || decide (m.flow < 4000) || decide (s.fw.drawLimit < m.draw)

/-- THROTTLE: out of its limits the module lowers one more class's quota, to a value the manual leaves open; within them
every quota is whole again. -/
def execThrottle (m : Measure) (s : State) : Host.Outcome State Fault Refusal :=
  if outOfLimits s m then
    match throttleOrder[s.fw.throttled]? with
    | none => .next s
    | some c =>
      let (v, s1) := s.free
      .next { s1 with fw := { s1.fw with throttled := s1.fw.throttled + 1, quotas := s1.fw.quotas.set c (v.toNat % fullQuota.getD c 0) } }
  else .next { s with fw := { s.fw with throttled := 0, quotas := fullQuota } }

/-! ## Batches and notices (R213, R214) -/

/-- BATCH_CLOSE: 32 cycles have passed since the first write of the die's open batch. -/
def execBatchClose (die : Nat) (s : State) : Host.Outcome State Fault Refusal :=
  match (s.die die).batch with
  | some b => .next (closeBatch (s.upTo (b.since + 32)) die)
  | none => .next s

/-- Every write of a batch has been applied at its home. -/
def batchApplied (s : State) (die : Nat) (n : Lane) : Bool :=
  !s.inflight.any (fun r => r.batch == some (die, n)) && !s.nmops.any (fun o => o.batch == (die, n))

/-- NOTICE_SEND: the notices of a closed batch whose writes have all been applied go to the three peer dies. -/
def execNoticeSend (die n : Nat) (s : State) : Host.Outcome State Fault Refusal :=
  match (s.die die).closed.find? (fun b => b.num.toNat == n) with
  | none => .next s
  | some b =>
    if batchApplied s die b.num && decide (die < 4) then
      let s1 := s.modDie die (fun d => { d with closed := d.closed.filter (fun b => b.num.toNat != n) })
      let notice : Notice := { src := die, clock := b.clock, lines := b.lines, task := b.task }
      .next ((List.range 4).foldl (fun s r => if r = die then s else s.modDie r (fun d => { d with notices := d.notices ++ [notice] })) s1)
    else .next s

/-- A notice is next in sequence at a die: A_r[w] = v[w] − 1, and A_r[k] ≥ v[k] elsewhere. -/
def Die.mayApply (d : Die) (n : Notice) : Bool :=
  (List.range 4).all (fun k =>
    let a := clockAt d.aVec k
    let v := clockAt n.clock k
    if k = n.src then a == v - 1#32 else decide (v.toNat ≤ a.toNat))

/-- NOTICE_APPLY: a notice in the die's buffer, which holds the oldest 64 that have come, drops the lines it lists from the RDC. -/
def execNoticeApply (die k : Nat) (s : State) : Host.Outcome State Fault Refusal :=
  let d := s.die die
  match d.notices[k]? with
  | none => .next s
  | some n =>
    if d.mayApply n && ((s.atDie die).take Config.noticeEntries).contains n then
      let v := clockAt n.clock n.src
      .next (s.setDie die { d with notices := d.notices.eraseIdx k, rdc := d.rdc.filter (fun l => !n.lines.contains l.1),
                                   aVec := d.aVec.set n.src v, dVec := clockMax d.dVec (zeroClock.set n.src v) })
    else .next s

/-! ## Posted writes at their home (R147, R220) -/

/-- A posted message has its turn: everything before it has acted, it does not stay for its flits, a stamp or another packet (R206, R209),
and the host holds no line that it writes (R317). -/
def State.mayAct (s : State) (m : Msg) : Bool := !s.msgBlocked m && !s.stays m

/-- APPLIED_AT_HOME: a posted write takes its place in co. A write to a line of HBM that is poisoned meets
ERR.HBM, and one whose L2 copy is bad ERR.ECC (R217). -/
def execAppliedAtHome (k : Nat) (s : State) : Host.Outcome State Fault Refusal :=
  match s.inflight[k]? with
  | none => .next s
  | some r =>
    if !s.mayAct (.write r) then .next s
    else
      let s1 := { s with inflight := s.inflight.eraseIdx k }
      match (Msg.write r).error s with
      | some c => .next (gangError s1 r.task c)
      | none => .next ((Msg.write r).act s1)

/-! ## Near-memory operations and waiters (R226, R230) -/

/-- NM_UPDATE: an operation takes effect at its NMU; those of one cluster on one location, or on one way, in issue order. An uncorrectable
error on any line it writes ends it (R217, R242). -/
def execNmUpdate (k : Nat) (s : State) : Host.Outcome State Fault Refusal :=
  match s.nmops[k]? with
  | none => .next s
  | some o =>
    if s.mayAct (.near o) then
      let s1 := { s with nmops := s.nmops.eraseIdx k }
      match (Msg.near o).error s with
      | some c => .next (gangError s1 o.task c)
      | none => .next ((Msg.near o).act s1)
    else .next s

/-- The waiters that a test picks are evaluated against their locations. -/
def rereadWaiters (s : State) (p : Waiter → Bool) : State :=
  { s with waiters := s.waiters.map (fun w => if p w then { w with ok := w.ok || semMeets s.mem w.pa w.target } else w) }

/-- SEM_FRAME_REREAD: the NMU of a stack reads every waited location again. -/
def execSemFrameReread (stack : Nat) (s : State) : Host.Outcome State Fault Refusal :=
  .next (rereadWaiters s (fun w => !w.polling && stackOf w.pa == stack))

/-- SEM_POLL_RETRY: a firing that found no waiter free reads its location again. -/
def execSemPollRetry (cl ctx : Nat) (s : State) : Host.Outcome State Fault Refusal :=
  .next (rereadWaiters s (fun w => w.polling && w.of cl ctx))

/-! ## Monitors (R264) -/

/-- A monitor unit that has counted nothing. -/
def Monitor.cleared (event : Nat) : Monitor := { event := event, lo := 0, hi := 0, bins := List.replicate 16 0 }
def Monitor.empty (m : Monitor) : Bool := m.bins.all (fun n => n == 0)

/-- What an event measures on a die, where the state holds it: NMU waiters, Bramble occupancy, granules in use; latencies and queue levels
are timing, which it does not (DESIGN CHOICE, log entry 28). -/
def monitored (s : State) (die event : Nat) : Option Nat :=
  match event with
  | 5 => some (s.waiters.filter (fun w => !w.polling && stackOf w.pa / 2 == die)).length
  | 6 => some (s.die die).bramble.length
  | 7 => some ((s.clusters.filter (fun c => dieOf c.1 == die)).foldl (fun n c =>
      c.2.chans.foldl (fun n ch => n + ((ch.2.store.map (·.granules)).getD 0)) n) 0)
  | _ => none

/-- The bin of a sample. -/
def sampleBin (v : Nat) : Nat := ((List.range 15).filter (fun k => decide (2 ^ (k + 1) ≤ v))).length

/-- A unit takes one sample. -/
def Monitor.sample (m : Monitor) (v : Nat) : Monitor :=
  { m with lo := if m.empty then v else Nat.min m.lo v, hi := Nat.max m.hi v,
           bins := m.bins.set (sampleBin v) (Nat.min (m.bins.getD (sampleBin v) 0 + 1) 4294967295) }

/-- A bound unit of a die samples its event. -/
def sampleUnit (s : State) (die u : Nat) : State :=
  match SMap.find (s.die die).monitors u with
  | none => s
  | some m =>
    let (v, s1) := match monitored s die m.event with
      | some v => (v, s)
      | none => let (w, s1) := s.free; (w.toNat % 4294967296, s1)
    s1.modDie die (fun d => { d with monitors := SMap.set d.monitors u (m.sample v) })

/-! ## Soft errors on unprotected paths (R265) -/

/-- The k-th item of a list has bits turned, where it carries a beat. -/
def flipItem (its : List Item) (k : Nat) (mask : Beat) : List Item :=
  match its[k]? with
  | some (.data b) => its.set k (.data (b ^^^ mask))
  | some (.drop b) => its.set k (.drop (b ^^^ mask))
  | _ => its

/-- A soft error turns bits of an item that is to leave stage 6 of an element next, of those on its way from a stage to its channel, of a byte from a decompressor to scratchpad, or of a byte on a
CXL hop: of the CXL tier, of host memory, or of storage data that a `sto.rd` has yet to deliver. Nothing reports it. -/
def softError (s : State) (e : SoftError) : State :=
  match e with
  | .item cl ce out k mask => s.modCluster cl (fun c => match (c.ce ce).pipe with
    | f :: rest => c.setCe ce { c.ce ce with pipe := (if out = 0 then { f with o0 := flipItem f.o0 k mask } else { f with o1 := flipItem f.o1 k mask }) :: rest }
    | [] => c)
  | .decompressed cl id k mask => s.modRun cl id (fun r =>
      if r.cmd.cls = 5 ∧ r.cmd.sub ≤ 2 ∧ r.aux = 1 ∧ bitAt r.cmd.cs 0 then { r with buf := r.buf.set k (r.buf.getD k 0#8 ^^^ mask) } else r)
  | .stored cl id k mask => match ((s.cluster cl).running.find? (fun r => r.cmd.id == id)) with
    | some r =>
      if r.cmd.cls ≠ 5 ∨ r.cmd.sub ≠ 3 then s
      else if r.cmd.chain then s.modRun cl id (fun r => { r with buf := r.buf.set k (r.buf.getD k 0#8 ^^^ mask) })
      else if r.cmd.dxSpad then
        if r.did.contains (k / 128) then spadWrite s cl (r.cmd.a.toNat + k) [(s.cluster cl).spad.readByte (r.cmd.a.toNat + k) ^^^ mask] else s
      else { s with inflight := s.inflight.map (fun q => if q.cl = cl ∧ q.cmd = some id then { q with bytes := q.bytes.set k (q.bytes.getD k 0#8 ^^^ mask) } else q) }
    | none => s
  | .cxl pa mask => if regionOf pa = 2 ∨ regionOf pa = 3 then { s with mem := s.mem.writeByte pa (s.mem.readByte pa ^^^ mask) } else s

/-! ## The scrub (R242) -/

/-- TSC ticks of a scrub period. -/
def scrubTicks : Nat := 70368744177664

/-- HBM_SCRUB: once in each period an NMU reads every line of its stack; the lines with an uncorrectable error are poisoned. -/
def execHbmScrub (stack : Nat) (bad : List Nat) (s : State) : Host.Outcome State Fault Refusal :=
  let die := stack / 2
  let due := match SMap.find (s.die die).scrubbed stack with
    | some t => decide (t / scrubTicks < s.tsc / scrubTicks)
    | none => true
  let lines := bad.filter (fun l => decide (128 * l / Config.stackBytes = stack) && !s.poison.contains l)
  if due && decide (stack < 8) then
    .next ({ s with poison := s.poison ++ lines }.modDie die (fun d => { d with scrubbed := SMap.set d.scrubbed stack s.tsc }))
  else .next s

/-! ## The host and other packages (R316, R317, R319, R320, R324) -/

/-- HOST_SNOOP: no RDC keeps the host line. -/
def execHostSnoop (pa : Nat) (s : State) : Host.Outcome State Fault Refusal :=
  if regionOf pa = 3 then .next (dropEverywhere s (pa / 128)) else .next s

/-- Bytes from outside the package are applied at their home, with no stamp. They are outside the causal notices, so no RDC may
keep an older copy (the DOM axiom; DEDUCED, log entry 25). -/
def outsideWrite (s : State) (pa : Nat) (bytes : List Byte) : State :=
  let s1 := flushHeld s pa bytes.length
  let s2 := { s1 with mem := s1.mem.writeBytes pa bytes,
                      writers := s1.writers.filter (fun x => !(decide (pa ≤ x.1) && decide (x.1 < pa + bytes.length))) }
  reeval ((linesOf pa bytes.length).foldl dropEverywhere s2) pa bytes.length

/-- An access to n bytes of this package's HBM that meets no line in error, and needs no contribution that the host's lines hold back. -/
def hbmOpen (s : State) (pa n : Nat) : Bool :=
  decide (0 < n) && decide (pa + n ≤ Config.hbmLimit) && (s.homeError pa n).isNone && s.heldOpen pa n

/-- A write from another package to n bytes of this package's HBM: the host may hold none of them (R317). -/
def hbmWritable (s : State) (pa n : Nat) : Bool := hbmOpen s pa n && !s.hostHolds pa n

/-- n bytes of host memory. -/
def hostMemory (pa n : Nat) : Bool := decide (0 < n) && regionOf pa == 3 && regionOf (pa + n - 1) == 3

/-- HOST_HDM_ACCESS: a read returns the line at its home, which the host may then hold; a write is applied there. The host's write to its own
memory is globally observed once no RDC holds the old line (R316, R317). DEDUCED (log entry 25). -/
def execHostHdmAccess (pa : Nat) (data : Option (List Byte)) (s : State) : Host.Outcome State Fault Refusal :=
  match data with
  | none =>
    if hbmOpen s (pa / 128 * 128) 128 then
      let s1 := flushHeld s (pa / 128 * 128) 128
      .next { s1 with hostLines := if s1.hostLines.contains (pa / 128) then s1.hostLines else s1.hostLines ++ [pa / 128] }
    else .next s
  | some bytes => if hbmOpen s pa bytes.length || hostMemory pa bytes.length then .next (outsideWrite s pa bytes) else .next s

/-- The hub sends a back-invalidate snoop for a line that the host may hold (R317). -/
def hubSnoop (s : State) (line : Nat) : State :=
  if s.hostLines.contains line && !s.snoops.contains line then { s with snoops := s.snoops ++ [line] } else s

/-- The host answers a snoop: what it has written to the line is applied at its home, and it holds the line no longer. -/
def hostAnswer (s : State) (line : Nat) (data : Option (List Byte)) : State :=
  if s.snoops.contains line then
    let s1 := s.hostDrops [line]
    match data with
    | some bytes => if bytes.length ≤ 128 ∧ hbmOpen s1 (128 * line) bytes.length then outsideWrite s1 (128 * line) bytes else s1
    | none => s1
  else s

/-- The running task with a domain key and an object; with a rank where one is named. -/
def State.gangOf (s : State) (key : Word) (objid : Lane) (rank : Option Nat) : Option (Nat × Task) :=
  s.fw.tasks.find? (fun t => t.2.live && t.2.key == key && t.2.objid == objid && (match rank with
    | some r => t.2.rank == r
    | none => true))

/-- A write from another package to n bytes at a place may go: in HBM the host may hold none of them and no line is in error; a page of the
CXL tier or of host memory takes it as it is (R323). -/
def remoteOpen (s : State) (pa n : Nat) : Bool := if regionOf pa = 0 then hbmWritable s pa n else true

/-- A piece of a write that comes from another package at a virtual address of a gang: translated and lease-checked under this package's
tables (R323), and to a windowed tensor's tile or its records (R252). A piece that fails is not written: its command fails in the other
package. None where the writer has to wait: for room in the bounce buffer (R253), or for the host (R317). DEDUCED (log entry 25). -/
def remotePiece (tid : Nat) (t : Task) (bytes : List Byte) (va : Nat) (p : Nat × Nat) (s : State) : Option State :=
  let bs := (bytes.drop (p.1 - va)).take p.2
  match walkVa s t.root p.1 with
  | .error _ => some s
  | .ok (lf, pa) =>
    if !lf.w then some s
    else if t.inWindow p.1 p.2 then
      match t.windowAt p.1 with
      | some w => (match tileWrite tid t w bs (fun pa _ s => outsideWrite s pa bs) s with
        | .ok _ s1 => some s1
        | _ => none)
      | none => some s
    else if !t.leased p.1 p.2 || s.inPool pa p.2 then some s
    else if remoteOpen s pa p.2 then some (outsideWrite s pa bs)
    else if (s.homeError pa p.2).isSome then some s else none

/-- The same for all bytes from a virtual address on: the whole write waits where a piece of it has to. -/
def remotePut (s : State) (tid : Nat) (t : Task) (va : Nat) (bytes : List Byte) : Option State :=
  (pieces va bytes.length).foldl (fun r p => r.bind (remotePiece tid t bytes va p)) (some s)

/-- A read of a `co.get`, or the add of a `co.sig`, at a virtual address of a gang: the place of n bytes there, translated and
lease-checked, in this package's HBM. -/
def remotePlace (s : State) (t : Task) (va n : Nat) (write : Bool) : Option Nat :=
  match walkVa s t.root va with
  | .error _ => none
  | .ok (lf, pa) => if (lf.w || !write) && t.leased va n && !s.inPool pa n && (if write then hbmWritable s pa n else hbmOpen s pa n) then some pa else none

/-- An add from outside the package to a semaphore: a copy in the home slice goes (the ATOM axiom), and what its counter depends on stays. -/
def outsideAdd (s : State) (pa : Nat) (v : Word) : State :=
  let s1 := l2Drop (flushHeld s pa 8) pa
  nmWrite ((linesOf pa 8).foldl dropEverywhere s1) pa (bytesOfNat 8 ((s1.mem.read 8 pa + v.toNat) % 18446744073709551616))

/-- REMOTE_PACKAGE_ACCESS: an access of another package is applied to this package's HBM, or a member's collective command is
matched here. DESIGN CHOICE (log entry 22). DEDUCED (log entry 25). -/
def execRemotePackageAccess (pkg pa : Nat) (op : RemoteOp) (s : State) : Host.Outcome State Fault Refusal :=
  if pkg = Config.packageNumber then .next s
  else match op with
  | .read n => if hbmOpen s pa n then .next (flushHeld s pa n) else .next s
  | .write bytes => if hbmWritable s pa bytes.length then .next (outsideWrite s pa bytes) else .next s
  | .sig v =>
    if hbmWritable s pa 8 && pa % 8 == 0 then .next (outsideAdd s pa v) else .next s
  | .holds bytes =>
    if regionOf pa = 1 ∧ bitsAt pa 39 9 = pkg ∧ pa % 549755813888 + bytes.length ≤ Config.hbmLimit then
      .next (reeval { s with mem := s.mem.writeBytes pa bytes } pa bytes.length)
    else .next s
  | .put key objid rank va repl bytes => match s.gangOf key objid (some rank) with
    | some (tid, t) =>
      .next ((if repl then (replPlaces va bytes).foldl (fun (r : Option State) a => r.bind (fun s => remotePut s tid t a bytes)) (some s)
              else remotePut s tid t va bytes).getD s)
    | none => .next s
  | .get key objid rank va n => match s.gangOf key objid (some rank) with
    | some (_, t) =>
      .next ((pieces va n).foldl (fun s p => match remotePlace s t p.1 p.2 false with
        | some pa => flushHeld s pa p.2
        | none => s) s)
    | none => .next s
  | .coSig key objid rank va v => match s.gangOf key objid (some rank) with
    | some (_, t) => .next (match remotePlace s t va 8 true with
      | some pa => if va % 8 = 0 then outsideAdd s pa v else s
      | none => s)
    | none => .next s
  | .arrive key objid idx level n => match s.gangOf key objid none with
    | some (tid, _) =>
      let b := s.barrier (tid, idx, 0)
      .next (if (arrivalFault b level (BitVec.ofNat 64 n)).isNone then s.setBarrier (tid, idx, 0) (b.arrive level n zeroClock) else s)
    | none => .next s
  | .drop key objid idx last => match s.gangOf key objid none with
    | some (tid, _) => .next (s.setBarrier (tid, idx, 0) ((s.barrier (tid, idx, 0)).drop last))
    | none => .next s
  | .poison key objid idx => match s.gangOf key objid none with
    | some (tid, _) => .next (s.setBarrier (tid, idx, 0) { s.barrier (tid, idx, 0) with pz := true })
    | none => .next s
  | .collective key objid id k rank typ op n sz src =>
    if s.peers.any (fun p => p.key == key && p.objid == objid && p.id == id && p.k == k && p.rank == rank) then .next s
    else
      let p : PeerCmd := { key := key, objid := objid, id := id, k := k, rank := rank, typ := typ, op := op, n := n, s := sz, src := src }
      .next { s with peers := s.peers ++ [p] }

end Sys2Proof.Machine
end

