-- ==== Sys2Proof/WellFormed.lean ====
section
/-! DEFINITION. Which instructions have an encoding: register codes of Table 4.9, and the class-specific bits and operand
fields each engine command uses (R78, R180, R184, R199, R320). -/

namespace Sys2Proof

/-- A register code of Table 4.9 that is not reserved: 53 to 63 raise SEQ.ILL (R74). -/
def regOk (r : Reg) : Bool := decide (r.toNat ≤ 52)

/-- The operand rules of an engine command: the registers it reads among a, b and c, and the class-specific bits it uses.
A register or a bit it does not use is zero; with CMPL = 0 the d field is zero, with CMPL = 1 the handle field (R180). Register b of a port
stream counts as read whatever OVB. DESIGN CHOICE (log entry 49). -/
def EOps.ok (e : EOps) (ua ub uc : Bool) (free : BitVec 11) : Bool :=
  regOk e.a && regOk e.b && regOk e.c && regOk e.d && (ua || e.a == 0#6) && (ub || e.b == 0#6) && (uc || e.c == 0#6) &&
  (e.cs &&& ~~~free == 0#11) && (if e.cmpl then e.handle == 0#4 else e.d == 0#6)

/-- The instruction has an encoding (R73, R78). A step of another agent has none and no rule here. -/
def Instr.wf : Instr → Bool
  | .add d a b => regOk d && regOk a && regOk b
  | .sub d a b => regOk d && regOk a && regOk b
  | .mul d a b => regOk d && regOk a && regOk b
  | .mulh d a b => regOk d && regOk a && regOk b
  | .mulhu d a b => regOk d && regOk a && regOk b
  | .div d a b => regOk d && regOk a && regOk b
  | .divu d a b => regOk d && regOk a && regOk b
  | .rem d a b => regOk d && regOk a && regOk b
  | .remu d a b => regOk d && regOk a && regOk b
  | .and d a b => regOk d && regOk a && regOk b
  | .or d a b => regOk d && regOk a && regOk b
  | .xor d a b => regOk d && regOk a && regOk b
  | .andn d a b => regOk d && regOk a && regOk b
  | .shl d a b => regOk d && regOk a && regOk b
  | .shr d a b => regOk d && regOk a && regOk b
  | .sar d a b => regOk d && regOk a && regOk b
  | .rol d a b => regOk d && regOk a && regOk b
  | .min d a b => regOk d && regOk a && regOk b
  | .minu d a b => regOk d && regOk a && regOk b
  | .max d a b => regOk d && regOk a && regOk b
  | .maxu d a b => regOk d && regOk a && regOk b
  | .slt d a b => regOk d && regOk a && regOk b
  | .sltu d a b => regOk d && regOk a && regOk b
  | .seq d a b => regOk d && regOk a && regOk b
  | .sne d a b => regOk d && regOk a && regOk b
  | .sel d a b => regOk d && regOk a && regOk b
  | .clz d a => regOk d && regOk a
  | .ctz d a => regOk d && regOk a
  | .popc d a => regOk d && regOk a
  | .mov d a => regOk d && regOk a
  | .neg d a => regOk d && regOk a
  | .addi d a _ => regOk d && regOk a
  | .andi d a _ => regOk d && regOk a
  | .ori d a _ => regOk d && regOk a
  | .xori d a _ => regOk d && regOk a
  | .slti d a _ => regOk d && regOk a
  | .sltiu d a _ => regOk d && regOk a
  | .shli d a _ => regOk d && regOk a
  | .shri d a _ => regOk d && regOk a
  | .sari d a _ => regOk d && regOk a
  | .ldb d a _ => regOk d && regOk a
  | .ldh d a _ => regOk d && regOk a
  | .ldw d a _ => regOk d && regOk a
  | .ldd d a _ => regOk d && regOk a
  | .stb d a _ => regOk d && regOk a
  | .sth d a _ => regOk d && regOk a
  | .stw d a _ => regOk d && regOk a
  | .std d a _ => regOk d && regOk a
  | .lds d a _ => regOk d && regOk a
  | .sts d a _ => regOk d && regOk a
  | .lui d _ => regOk d
  | .bfx d a _ _ _ => regOk d && regOk a
  | .bfi d a _ _ => regOk d && regOk a
  | .beq a b _ => regOk a && regOk b
  | .bne a b _ => regOk a && regOk b
  | .blt a b _ => regOk a && regOk b
  | .bge a b _ => regOk a && regOk b
  | .bltu a b _ => regOk a && regOk b
  | .bgeu a b _ => regOk a && regOk b
  | .loop a _ => regOk a
  | .jmp _ => true
  | .jal _ => true
  | .ldt d a b => regOk d && regOk a && regOk b
  | .gbarArr d a b => regOk d && regOk a && regOk b
  | .pst d a b => regOk d && regOk a && regOk b
  | .semSig a b => regOk a && regOk b
  | .semWge a b => regOk a && regOk b
  | .gbarWait a b => regOk a && regOk b
  | .tapeBase a b => regOk a && regOk b
  | .ertFetch a b => regOk a && regOk b
  | .icinv a b => regOk a && regOk b
  | .tlbinv a b => regOk a && regOk b
  | .jr d a => regOk d && regOk a
  | .semRd d a => regOk d && regOk a
  | .tapeMark d a => regOk d && regOk a
  | .tapeRd d a => regOk d && regOk a
  | .ertQ d a => regOk d && regOk a
  | .gbarDrop a => regOk a
  | .dmode a => regOk a
  | .tapeLim a => regOk a
  | .ertPin a => regOk a
  | .ertUnpin a => regOk a
  | .ertEvict a => regOk a
  | .trap a => regOk a
  | .tkill a => regOk a
  | .fend => true
  | .aexit => true
  | .eret => true
  | .nop => true
  | .halt => true
  | .pushm d a => regOk d && regOk a
  | .popm d a => regOk d && regOk a
  | .pf a _ => regOk a
  | .cbw d _ _ => regOk d
  | .cbf d _ _ => regOk d
  | .cbadv _ _ => true
  | .cbpub _ _ => true
  | .cbld d _ _ _ => regOk d
  | .cbst d _ _ _ => regOk d
  | .tokEos _ _ => true
  | .tokBnd d _ => regOk d
  | .tokCtl _ _ => true
  | .qbind q _ => regOk q
  | .fenceScope _ => true
  | .xfence _ _ => true
  | .amo d a b _ _ => regOk d && regOk a && regOk b
  | .red a b _ _ => regOk a && regOk b
  | .cas d a b _ => regOk d && regOk a && regOk b
  | .csrr d _ => regOk d
  | .csrw a _ => regOk a
  | .ldtsc d => regOk d
  | .li d _ => regOk d
  | .lih d _ => regOk d
  | .addli d _ => regOk d
  | .strM2s e => e.ok true true true 0x0#11
  | .strS2p e => e.ok false true true 0x7c0#11
  | .strM2p e => e.ok false true true 0x7c0#11
  | .strP2m e => e.ok false true true 0x7c0#11
  | .strP2s e => e.ok false true true 0x7c0#11
  | .strS2m e => e.ok true true true 0x0#11
  | .strM2pBm e => e.ok true false true 0x740#11
  | .strP2mBm e => e.ok true false true 0x740#11
  | .strInd e => e.ok true true true 0x740#11
  | .strSct e => e.ok true true true 0x740#11
  | .strCst e => e.ok true true true 0x1#11
  | .strRec e => e.ok false true true 0x7ff#11
  | .sbarSr e => e.ok false false false 0x0#11
  | .sbarSw e => e.ok false false false 0x0#11
  | .sbarM e => e.ok false false false 0x0#11
  | .sbarAll e => e.ok false false false 0x0#11
  | .cp e => e.ok true true true 0x0#11
  | .cpMx e => e.ok true true true 0x0#11
  | .cpS e => e.ok true true true 0x0#11
  | .mxLd e => e.ok true true false 0x7c0#11
  | .mxMmaBf16 e => e.ok true true true 0x7c0#11
  | .mxMmaF16 e => e.ok true true true 0x7c0#11
  | .mxMmaE4m3 e => e.ok true true true 0x7c0#11
  | .mxMmaE5m2 e => e.ok true true true 0x7c0#11
  | .mxMmaE2m1 e => e.ok true true true 0x7c0#11
  | .mxMmaI8 e => e.ok true true true 0x7c0#11
  | .mxMmaI16 e => e.ok true true true 0x7c0#11
  | .mxSt e => e.ok false true false 0x7f8#11
  | .mxZero e => e.ok false false false 0xf#11
  | .coA2a e => e.ok true true true 0x0#11
  | .coAg e => e.ok true true true 0x0#11
  | .coRs e => e.ok true true true 0x0#11
  | .coAr e => e.ok true true true 0x0#11
  | .coPut e => e.ok true true true 0x1#11
  | .coGet e => e.ok true true true 0x0#11
  | .coSig e => e.ok true true true 0x0#11
  | .dxInflate e => e.ok true true true 0x3#11
  | .dxZstd e => e.ok true true true 0x1#11
  | .dxLz4 e => e.ok true true true 0x1#11
  | .stoRd e => e.ok true true true 0x5#11
  | .configCommit _ _ => true
  | .configFieldsApply _ => true
  | .storeRelease _ _ => true
  | .ceFire _ _ => true
  | .ceToken _ _ => true
  | .ceEosEmit _ _ => true
  | .pipelineExit _ _ => true
  | .skidDrain _ _ _ => true
  | .storeAccept _ _ => true
  | .storeIssue _ _ => true
  | .storeAbort _ _ => true
  | .ringSpill _ _ => true
  | .ringRefill _ _ => true
  | .firingStart _ => true
  | .icacheFill _ _ => true
  | .seqBudget _ _ => true
  | .trapActorFire _ => true
  | .queueFlitArrive _ => true
  | .agPhaseStart _ _ => true
  | .agBeat _ _ => true
  | .bankGrant _ _ => true
  | .bankHandoff _ _ => true
  | .controlTokenDeliver _ _ => true
  | .scoreboardRetire _ _ => true
  | .engineStart _ _ => true
  | .completionPost _ _ => true
  | .followOnEnqueue _ _ => true
  | .loopFlitRetransmit _ _ _ _ _ => true
  | .qosFrameBoundary => true
  | .batchClose _ => true
  | .noticeSend _ _ => true
  | .noticeApply _ _ => true
  | .nmUpdate _ => true
  | .semFrameReread _ => true
  | .semPollRetry _ _ => true
  | .hbmScrub _ _ => true
  | .windowMove _ _ => true
  | .launchReady _ => true
  | .dispatch => true
  | .gangAnnounce _ _ _ _ _ => true
  | .preemption _ _ => true
  | .claimUnit _ _ => true
  | .resume _ => true
  | .taskEnd _ => true
  | .gangAbort _ _ => true
  | .expertFetch _ => true
  | .poolAllocRetry _ => true
  | .sliceLanded _ => true
  | .fetchFail _ => true
  | .brambleRelease _ _ => true
  | .useReport _ => true
  | .linkRetry _ _ => true
  | .hostSnoop _ => true
  | .hostHdmAccess _ _ => true
  | .powerOn _ => true
  | .throttle _ => true
  | .hostRegWrite _ _ => true
  | .reset => true
  | .query => true
  | .load => true
  | .unload => true
  | .lease => true
  | .unlease => true
  | .map => true
  | .launch => true
  | .preempt => true
  | .kill => true
  | .trapRpt => true
  | .ertcfg => true
  | .monitor => true
  | .fuseadv => true
  | .seqIllWord _ => true
  | .seqPcFallThrough => true
  | .appliedAtHome _ => true
  | .remotePackageAccess _ _ _ => true

/-- The instruction is a word, or two, that a sequencer fetches; the others are steps of other agents. -/
def Instr.isWord : Instr → Bool
  | .add _ _ _ => true
  | .sub _ _ _ => true
  | .mul _ _ _ => true
  | .mulh _ _ _ => true
  | .mulhu _ _ _ => true
  | .div _ _ _ => true
  | .divu _ _ _ => true
  | .rem _ _ _ => true
  | .remu _ _ _ => true
  | .and _ _ _ => true
  | .or _ _ _ => true
  | .xor _ _ _ => true
  | .andn _ _ _ => true
  | .shl _ _ _ => true
  | .shr _ _ _ => true
  | .sar _ _ _ => true
  | .rol _ _ _ => true
  | .min _ _ _ => true
  | .minu _ _ _ => true
  | .max _ _ _ => true
  | .maxu _ _ _ => true
  | .slt _ _ _ => true
  | .sltu _ _ _ => true
  | .seq _ _ _ => true
  | .sne _ _ _ => true
  | .clz _ _ => true
  | .ctz _ _ => true
  | .popc _ _ => true
  | .sel _ _ _ => true
  | .mov _ _ => true
  | .neg _ _ => true
  | .addi _ _ _ => true
  | .andi _ _ _ => true
  | .ori _ _ _ => true
  | .xori _ _ _ => true
  | .shli _ _ _ => true
  | .shri _ _ _ => true
  | .sari _ _ _ => true
  | .slti _ _ _ => true
  | .sltiu _ _ _ => true
  | .lui _ _ => true
  | .bfx _ _ _ _ _ => true
  | .bfi _ _ _ _ => true
  | .beq _ _ _ => true
  | .bne _ _ _ => true
  | .blt _ _ _ => true
  | .bge _ _ _ => true
  | .bltu _ _ _ => true
  | .bgeu _ _ _ => true
  | .loop _ _ => true
  | .jmp _ => true
  | .jal _ => true
  | .jr _ _ => true
  | .fend => true
  | .aexit => true
  | .ldb _ _ _ => true
  | .ldh _ _ _ => true
  | .ldw _ _ _ => true
  | .ldd _ _ _ => true
  | .stb _ _ _ => true
  | .sth _ _ _ => true
  | .stw _ _ _ => true
  | .std _ _ _ => true
  | .lds _ _ _ => true
  | .sts _ _ _ => true
  | .ldt _ _ _ => true
  | .pushm _ _ => true
  | .popm _ _ => true
  | .pf _ _ => true
  | .cbw _ _ _ => true
  | .cbf _ _ _ => true
  | .cbadv _ _ => true
  | .cbpub _ _ => true
  | .cbld _ _ _ _ => true
  | .cbst _ _ _ _ => true
  | .tokEos _ _ => true
  | .tokBnd _ _ => true
  | .tokCtl _ _ => true
  | .qbind _ _ => true
  | .fenceScope _ => true
  | .xfence _ _ => true
  | .semSig _ _ => true
  | .semWge _ _ => true
  | .semRd _ _ => true
  | .gbarArr _ _ _ => true
  | .gbarWait _ _ => true
  | .gbarDrop _ => true
  | .amo _ _ _ _ _ => true
  | .red _ _ _ _ => true
  | .cas _ _ _ _ => true
  | .pst _ _ _ => true
  | .dmode _ => true
  | .tapeBase _ _ => true
  | .tapeLim _ => true
  | .tapeMark _ _ => true
  | .tapeRd _ _ => true
  | .ertQ _ _ => true
  | .ertPin _ => true
  | .ertUnpin _ => true
  | .ertFetch _ _ => true
  | .ertEvict _ => true
  | .trap _ => true
  | .eret => true
  | .csrr _ _ => true
  | .csrw _ _ => true
  | .icinv _ _ => true
  | .tlbinv _ _ => true
  | .ldtsc _ => true
  | .tkill _ => true
  | .nop => true
  | .halt => true
  | .li _ _ => true
  | .lih _ _ => true
  | .addli _ _ => true
  | .strM2s _ => true
  | .strS2p _ => true
  | .strM2p _ => true
  | .strP2m _ => true
  | .strP2s _ => true
  | .strS2m _ => true
  | .strM2pBm _ => true
  | .strP2mBm _ => true
  | .strInd _ => true
  | .strSct _ => true
  | .strCst _ => true
  | .strRec _ => true
  | .sbarSr _ => true
  | .sbarSw _ => true
  | .sbarM _ => true
  | .sbarAll _ => true
  | .cp _ => true
  | .cpMx _ => true
  | .cpS _ => true
  | .mxLd _ => true
  | .mxMmaBf16 _ => true
  | .mxMmaF16 _ => true
  | .mxMmaE4m3 _ => true
  | .mxMmaE5m2 _ => true
  | .mxMmaE2m1 _ => true
  | .mxMmaI8 _ => true
  | .mxMmaI16 _ => true
  | .mxSt _ => true
  | .mxZero _ => true
  | .coA2a _ => true
  | .coAg _ => true
  | .coRs _ => true
  | .coAr _ => true
  | .coPut _ => true
  | .coGet _ => true
  | .coSig _ => true
  | .dxInflate _ => true
  | .dxZstd _ => true
  | .dxLz4 _ => true
  | .stoRd _ => true
  | .configCommit _ _ => false
  | .configFieldsApply _ => false
  | .storeRelease _ _ => false
  | .ceFire _ _ => false
  | .ceToken _ _ => false
  | .ceEosEmit _ _ => false
  | .pipelineExit _ _ => false
  | .skidDrain _ _ _ => false
  | .storeAccept _ _ => false
  | .storeIssue _ _ => false
  | .storeAbort _ _ => false
  | .ringSpill _ _ => false
  | .ringRefill _ _ => false
  | .firingStart _ => false
  | .icacheFill _ _ => false
  | .seqBudget _ _ => false
  | .trapActorFire _ => false
  | .queueFlitArrive _ => false
  | .agPhaseStart _ _ => false
  | .agBeat _ _ => false
  | .bankGrant _ _ => false
  | .bankHandoff _ _ => false
  | .controlTokenDeliver _ _ => false
  | .scoreboardRetire _ _ => false
  | .engineStart _ _ => false
  | .completionPost _ _ => false
  | .followOnEnqueue _ _ => false
  | .loopFlitRetransmit _ _ _ _ _ => false
  | .qosFrameBoundary => false
  | .batchClose _ => false
  | .noticeSend _ _ => false
  | .noticeApply _ _ => false
  | .nmUpdate _ => false
  | .semFrameReread _ => false
  | .semPollRetry _ _ => false
  | .hbmScrub _ _ => false
  | .windowMove _ _ => false
  | .launchReady _ => false
  | .dispatch => false
  | .gangAnnounce _ _ _ _ _ => false
  | .preemption _ _ => false
  | .claimUnit _ _ => false
  | .resume _ => false
  | .taskEnd _ => false
  | .gangAbort _ _ => false
  | .expertFetch _ => false
  | .poolAllocRetry _ => false
  | .sliceLanded _ => false
  | .fetchFail _ => false
  | .brambleRelease _ _ => false
  | .useReport _ => false
  | .linkRetry _ _ => false
  | .hostSnoop _ => false
  | .hostHdmAccess _ _ => false
  | .powerOn _ => false
  | .throttle _ => false
  | .hostRegWrite _ _ => false
  | .reset => false
  | .query => false
  | .load => false
  | .unload => false
  | .lease => false
  | .unlease => false
  | .map => false
  | .launch => false
  | .preempt => false
  | .kill => false
  | .trapRpt => false
  | .ertcfg => false
  | .monitor => false
  | .fuseadv => false
  | .seqIllWord _ => false
  | .seqPcFallThrough => false
  | .appliedAtHome _ => false
  | .remotePackageAccess _ _ _ => false

end Sys2Proof
end

