-- ==== Sys2Proof/Decode.lean ====
section
/-! DEFINITION. From bytes to instructions and back (R73 to R78, R180, R320): the decoder, total on any bytes and refusing by
name, and the encoder, written from the same maps. -/

namespace Sys2Proof

/-- Why a word is not an instruction (R78), and the one case that is not SEQ.ILL: the bytes end inside it (R138). -/
inductive DecodeError where
  /-- fewer bytes than the instruction has -/
  | short
  /-- a major opcode of Table 4.10 that is not an instruction -/
  | illegalMajor
  /-- a reserved fn, subop or engine class (R76, R77) -/
  | reservedFn
  /-- a reserved register code, a nonzero field the instruction does not use, or another nonzero reserved bit -/
  | reservedBits
  deriving DecidableEq, Repr

/-- The engine command of a class and a subop (R77). -/
def commandOf (cls sub : Nat) (e : EOps) : Option Instr :=
  match cls, sub with
  | 0, 0 => some (.strM2s e)
  | 0, 1 => some (.strS2p e)
  | 0, 2 => some (.strM2p e)
  | 0, 3 => some (.strP2m e)
  | 0, 4 => some (.strP2s e)
  | 0, 5 => some (.strS2m e)
  | 0, 6 => some (.strM2pBm e)
  | 0, 7 => some (.strP2mBm e)
  | 0, 8 => some (.strInd e)
  | 0, 9 => some (.strSct e)
  | 0, 10 => some (.strCst e)
  | 0, 11 => some (.strRec e)
  | 1, 0 => some (.sbarSr e)
  | 1, 1 => some (.sbarSw e)
  | 1, 2 => some (.sbarM e)
  | 1, 3 => some (.sbarAll e)
  | 2, 0 => some (.cp e)
  | 2, 1 => some (.cpMx e)
  | 2, 2 => some (.cpS e)
  | 3, 0 => some (.mxLd e)
  | 3, 1 => some (.mxMmaBf16 e)
  | 3, 2 => some (.mxMmaF16 e)
  | 3, 3 => some (.mxMmaE4m3 e)
  | 3, 4 => some (.mxMmaE5m2 e)
  | 3, 5 => some (.mxMmaE2m1 e)
  | 3, 6 => some (.mxMmaI8 e)
  | 3, 7 => some (.mxMmaI16 e)
  | 3, 8 => some (.mxSt e)
  | 3, 9 => some (.mxZero e)
  | 4, 0 => some (.coA2a e)
  | 4, 1 => some (.coAg e)
  | 4, 2 => some (.coRs e)
  | 4, 3 => some (.coAr e)
  | 4, 4 => some (.coPut e)
  | 4, 5 => some (.coGet e)
  | 4, 6 => some (.coSig e)
  | 5, 0 => some (.dxInflate e)
  | 5, 1 => some (.dxZstd e)
  | 5, 2 => some (.dxLz4 e)
  | 5, 3 => some (.stoRd e)
  | _, _ => none

/-- The class, the subop and the operands of an engine command (R77). -/
def commandCode : Instr → Option (Nat × Nat × EOps)
  | .strM2s e => some (0, 0, e)
  | .strS2p e => some (0, 1, e)
  | .strM2p e => some (0, 2, e)
  | .strP2m e => some (0, 3, e)
  | .strP2s e => some (0, 4, e)
  | .strS2m e => some (0, 5, e)
  | .strM2pBm e => some (0, 6, e)
  | .strP2mBm e => some (0, 7, e)
  | .strInd e => some (0, 8, e)
  | .strSct e => some (0, 9, e)
  | .strCst e => some (0, 10, e)
  | .strRec e => some (0, 11, e)
  | .sbarSr e => some (1, 0, e)
  | .sbarSw e => some (1, 1, e)
  | .sbarM e => some (1, 2, e)
  | .sbarAll e => some (1, 3, e)
  | .cp e => some (2, 0, e)
  | .cpMx e => some (2, 1, e)
  | .cpS e => some (2, 2, e)
  | .mxLd e => some (3, 0, e)
  | .mxMmaBf16 e => some (3, 1, e)
  | .mxMmaF16 e => some (3, 2, e)
  | .mxMmaE4m3 e => some (3, 3, e)
  | .mxMmaE5m2 e => some (3, 4, e)
  | .mxMmaE2m1 e => some (3, 5, e)
  | .mxMmaI8 e => some (3, 6, e)
  | .mxMmaI16 e => some (3, 7, e)
  | .mxSt e => some (3, 8, e)
  | .mxZero e => some (3, 9, e)
  | .coA2a e => some (4, 0, e)
  | .coAg e => some (4, 1, e)
  | .coRs e => some (4, 2, e)
  | .coAr e => some (4, 3, e)
  | .coPut e => some (4, 4, e)
  | .coGet e => some (4, 5, e)
  | .coSig e => some (4, 6, e)
  | .dxInflate e => some (5, 0, e)
  | .dxZstd e => some (5, 1, e)
  | .dxLz4 e => some (5, 2, e)
  | .stoRd e => some (5, 3, e)
  | _ => none

/-- The A-form instruction of major $00 with function code fn (Table 4.11). -/
def aluOf (fn : Nat) (d a b : Reg) : Option Instr :=
  match fn with
  | 0 => some (.add d a b)
  | 1 => some (.sub d a b)
  | 2 => some (.mul d a b)
  | 3 => some (.mulh d a b)
  | 4 => some (.mulhu d a b)
  | 5 => some (.div d a b)
  | 6 => some (.divu d a b)
  | 7 => some (.rem d a b)
  | 8 => some (.remu d a b)
  | 9 => some (.and d a b)
  | 10 => some (.or d a b)
  | 11 => some (.xor d a b)
  | 12 => some (.andn d a b)
  | 13 => some (.shl d a b)
  | 14 => some (.shr d a b)
  | 15 => some (.sar d a b)
  | 16 => some (.rol d a b)
  | 17 => some (.min d a b)
  | 18 => some (.minu d a b)
  | 19 => some (.max d a b)
  | 20 => some (.maxu d a b)
  | 21 => some (.slt d a b)
  | 22 => some (.sltu d a b)
  | 23 => some (.seq d a b)
  | 24 => some (.sne d a b)
  | 25 => if b = 0#6 then some (.clz d a) else none
  | 26 => if b = 0#6 then some (.ctz d a) else none
  | 27 => if b = 0#6 then some (.popc d a) else none
  | 28 => some (.sel d a b)
  | 29 => if b = 0#6 then some (.mov d a) else none
  | 30 => if b = 0#6 then some (.neg d a) else none
  | _ => none

/-- Bits [lo+w-1:lo] of an instruction word. -/
def fld (w : Lane) (lo len : Nat) : BitVec len := w.extractLsb' lo len

/-- `some` of the instruction when a condition on unused fields holds. -/
def whenZero (c : Bool) (i : Instr) : Option Instr := if c then some i else none

/-- The one-word instruction of a word, without the check of register codes (R73, R76). -/
def oneWord (w : Lane) : Except DecodeError Instr :=
  let d : Reg := fld w 20 6
  let a : Reg := fld w 14 6
  let b : Reg := fld w 8 6
  let fn : Nat := (fld w 0 8).toNat
  let i : BitVec 14 := fld w 0 14
  let h : BitVec 4 := fld w 16 4
  let n : BitVec 8 := fld w 8 8
  let z := fun (o : Option Instr) => match o with | some x => Except.ok x | none => Except.error DecodeError.reservedBits
  match (fld w 26 6).toNat with
  | 0x00 => if fn ≤ 30 then z (aluOf fn d a b) else .error .reservedFn
  | 0x01 => .ok (.addi d a i)
  | 0x02 => .ok (.andi d a i)
  | 0x03 => .ok (.ori d a i)
  | 0x04 => .ok (.xori d a i)
  | 0x08 => .ok (.slti d a i)
  | 0x09 => .ok (.sltiu d a i)
  | 0x20 => .ok (.ldb d a i)
  | 0x21 => .ok (.ldh d a i)
  | 0x22 => .ok (.ldw d a i)
  | 0x23 => .ok (.ldd d a i)
  | 0x24 => .ok (.stb d a i)
  | 0x25 => .ok (.sth d a i)
  | 0x26 => .ok (.stw d a i)
  | 0x27 => .ok (.std d a i)
  | 0x28 => .ok (.lds d a i)
  | 0x29 => .ok (.sts d a i)
  | 0x05 => z (whenZero (fld w 6 8 == 0#8) (.shli d a (fld w 0 6)))
  | 0x06 => z (whenZero (fld w 6 8 == 0#8) (.shri d a (fld w 0 6)))
  | 0x07 => z (whenZero (fld w 6 8 == 0#8) (.sari d a (fld w 0 6)))
  | 0x0a => z (whenZero (a == 0#6) (.lui d i))
  | 0x0b => z (whenZero (fld w 13 1 == 0#1) (.bfx d a (fld w 12 1 == 1#1) (fld w 6 6) (fld w 0 6)))
  | 0x0c => z (whenZero (fld w 12 2 == 0#2) (.bfi d a (fld w 6 6) (fld w 0 6)))
  | 0x10 => .ok (.beq d a i)
  | 0x11 => .ok (.bne d a i)
  | 0x12 => .ok (.blt d a i)
  | 0x13 => .ok (.bge d a i)
  | 0x14 => .ok (.bltu d a i)
  | 0x15 => .ok (.bgeu d a i)
  | 0x16 => z (whenZero (a == 0#6) (.loop d i))
  | 0x17 => .ok (.jmp (fld w 0 26))
  | 0x18 => .ok (.jal (fld w 0 26))
  | 0x2b => z (whenZero (i == 0#14) (.pushm d a))
  | 0x2c => z (whenZero (i == 0#14) (.popm d a))
  | 0x2d => z (whenZero (d == 0#6) (.pf a i))
  | 0x19 => match fn with
    | 0 => z (whenZero (b == 0#6) (.jr d a))
    | _ => .error .reservedFn
  | 0x1a => match fn with
    | 0 => z (whenZero (fld w 8 18 == 0#18) .fend)
    | _ => .error .reservedFn
  | 0x1b => match fn with
    | 0 => z (whenZero (fld w 8 18 == 0#18) .aexit)
    | _ => .error .reservedFn
  | 0x2a => match fn with
    | 0 => .ok (.ldt d a b)
    | _ => .error .reservedFn
  | 0x30 => match fn with
    | 0 => .ok (.cbw d h n)
    | 1 => .ok (.cbf d h n)
    | 2 => z (whenZero (d == 0#6) (.cbadv h n))
    | 3 => z (whenZero (d == 0#6) (.cbpub h n))
    | 4 => .ok (.cbld d h (fld w 12 4) (fld w 8 4))
    | 5 => .ok (.cbst d h (fld w 12 4) (fld w 8 4))
    | 6 => z (whenZero (d == 0#6 && fld w 10 6 == 0#6) (.tokEos h (fld w 8 2)))
    | 7 => z (whenZero (n == 0#8) (.tokBnd d h))
    | 8 => z (whenZero (d == 0#6 && h == 0#4 && fld w 14 2 == 0#2) (.tokCtl (fld w 13 1 == 1#1) (fld w 8 5)))
    | 9 => z (whenZero (h == 0#4) (.qbind d n))
    | _ => .error .reservedFn
  | 0x32 => match fn with
    | 0 => z (whenZero (d == 0#6) (.semSig a b))
    | 1 => z (whenZero (d == 0#6) (.semWge a b))
    | 2 => z (whenZero (b == 0#6) (.semRd d a))
    | _ => .error .reservedFn
  | 0x33 => match fn with
    | 0 => .ok (.gbarArr d a b)
    | 1 => z (whenZero (d == 0#6) (.gbarWait a b))
    | 2 => z (whenZero (d == 0#6 && b == 0#6) (.gbarDrop a))
    | _ => .error .reservedFn
  | 0x37 => match fn with
    | 0 => .ok (.pst d a b)
    | _ => .error .reservedFn
  | 0x38 => match fn with
    | 0 => z (whenZero (d == 0#6 && b == 0#6) (.dmode a))
    | 1 => z (whenZero (d == 0#6) (.tapeBase a b))
    | 2 => z (whenZero (d == 0#6 && b == 0#6) (.tapeLim a))
    | 3 => z (whenZero (b == 0#6) (.tapeMark d a))
    | 4 => z (whenZero (b == 0#6) (.tapeRd d a))
    | _ => .error .reservedFn
  | 0x39 => match fn with
    | 0 => z (whenZero (b == 0#6) (.ertQ d a))
    | 1 => z (whenZero (d == 0#6 && b == 0#6) (.ertPin a))
    | 2 => z (whenZero (d == 0#6 && b == 0#6) (.ertUnpin a))
    | 3 => z (whenZero (d == 0#6) (.ertFetch a b))
    | 4 => z (whenZero (d == 0#6 && b == 0#6) (.ertEvict a))
    | _ => .error .reservedFn
  | 0x3a => match fn with
    | 0 => z (whenZero (d == 0#6 && b == 0#6) (.trap a))
    | 1 => z (whenZero (fld w 8 18 == 0#18) .eret)
    | 2 => z (whenZero (a == 0#6) (.csrr d b))
    | 3 => z (whenZero (d == 0#6) (.csrw a b))
    | 4 => z (whenZero (d == 0#6) (.icinv a b))
    | 5 => z (whenZero (d == 0#6) (.tlbinv a b))
    | 6 => z (whenZero (a == 0#6 && b == 0#6) (.ldtsc d))
    | 7 => z (whenZero (d == 0#6 && b == 0#6) (.tkill a))
    | 8 => z (whenZero (fld w 8 18 == 0#18) .nop)
    | 9 => z (whenZero (fld w 8 18 == 0#18) .halt)
    | _ => .error .reservedFn
  | 0x31 =>
    if fld w 13 1 == 0#1 then z (whenZero (fld w 2 24 == 0#24) (.fenceScope (fld w 0 2)))
    else z (whenZero (fld w 10 3 == 0#3 && fld w 14 12 == 0#12) (.xfence (fld w 2 8) (fld w 0 2)))
  | 0x34 => .ok (.amo d a b (fld w 4 4) (fld w 0 4))
  | 0x35 => z (whenZero (d == 0#6) (.red a b (fld w 4 4) (fld w 0 4)))
  | 0x36 => z (whenZero (fld w 4 4 == 0#4) (.cas d a b (fld w 0 4)))
  | _ => .error .illegalMajor

/-- The operand fields of an E-form (R180). -/
def eopsOf (w v : Lane) : EOps :=
  { a := fld w 10 6, b := fld w 4 6, handle := fld w 0 4, c := fld v 26 6, d := fld v 20 6, cmpl := fld v 19 1 == 1#1,
    tag := fld v 11 8, cs := fld v 0 11 }

/-- The two-word instruction whose first word has major $3E or $3F (R73, R160, R180). -/
def twoWord (w v : Lane) : Except DecodeError Instr :=
  if fld w 26 6 == 0x3E#6 then
    match commandOf (fld w 22 4).toNat (fld w 16 6).toNat (eopsOf w v) with
    | some i => .ok i
    | none => .error .reservedFn
  else
    match (fld w 12 8).toNat with
    | 0 => .ok (.li (fld w 20 6) (fld w 0 12 ++ v))
    | 1 => if fld w 0 12 == 0#12 && fld v 20 12 == 0#12 then .ok (.lih (fld w 20 6) (fld v 0 20)) else .error .reservedBits
    | 2 => .ok (.addli (fld w 20 6) (fld w 0 12 ++ v))
    | _ => .error .reservedFn

/-- Whether the instruction that a first word opens has two words: majors $3E and $3F (R73). -/
def hasTwoWords (w : Lane) : Bool := fld w 26 6 == 0x3E#6 || fld w 26 6 == 0x3F#6

/-- An instruction that passes the register and bit rules of R78. -/
def checked (r : Except DecodeError Instr) : Except DecodeError Instr :=
  match r with
  | .ok i => if i.wf then .ok i else .error .reservedBits
  | .error e => .error e

/-- A little-endian word of four bytes (R3, R73). -/
def word32 (b0 b1 b2 b3 : Byte) : Lane := b3 ++ b2 ++ b1 ++ b0

/-- The instruction at the head of a byte string, and the bytes after it. -/
def decode : List Byte → Except DecodeError (Instr × List Byte)
  | b0 :: b1 :: b2 :: b3 :: rest =>
    let w := word32 b0 b1 b2 b3
    if hasTwoWords w then
      match rest with
      | c0 :: c1 :: c2 :: c3 :: rest' => (checked (twoWord w (word32 c0 c1 c2 c3))).map (fun i => (i, rest'))
      | _ => .error .short
    else (checked (oneWord w)).map (fun i => (i, rest))
  | _ => .error .short

/-! ## The encoder -/

/-- The A-form word (R73). -/
def aForm (op d a b : BitVec 6) (fn : BitVec 8) : Lane := op ++ d ++ a ++ b ++ fn

/-- The I-form and B-form word (R73). -/
def iForm (op d a : BitVec 6) (i : BitVec 14) : Lane := op ++ d ++ a ++ i

/-- The C-form word (R73). -/
def cForm (d : BitVec 6) (h : BitVec 4) (n fn : BitVec 8) : Lane := 0x30#6 ++ d ++ h ++ n ++ fn

/-- The two words of an engine command (R180). -/
def eForm (cls : BitVec 4) (sub : BitVec 6) (e : EOps) : List Lane :=
  [0x3E#6 ++ cls ++ sub ++ e.a ++ e.b ++ e.handle, e.c ++ e.d ++ (if e.cmpl then 1#1 else 0#1) ++ e.tag ++ e.cs]

/-- The two words of a long immediate (R160). -/
def lForm (d : BitVec 6) (sub : BitVec 8) (c : BitVec 44) : List Lane :=
  [0x3F#6 ++ d ++ sub ++ c.extractLsb' 32 12, c.extractLsb' 0 32]

/-- One bit of a Boolean field. -/
def bit1 (b : Bool) : BitVec 1 := if b then 1#1 else 0#1

/-- The words of an instruction; none for a step of another agent, which is no word of any program. -/
def encode : Instr → List Lane
  | .add d a b => [aForm 0x00#6 d a b 0x00#8]
  | .sub d a b => [aForm 0x00#6 d a b 0x01#8]
  | .mul d a b => [aForm 0x00#6 d a b 0x02#8]
  | .mulh d a b => [aForm 0x00#6 d a b 0x03#8]
  | .mulhu d a b => [aForm 0x00#6 d a b 0x04#8]
  | .div d a b => [aForm 0x00#6 d a b 0x05#8]
  | .divu d a b => [aForm 0x00#6 d a b 0x06#8]
  | .rem d a b => [aForm 0x00#6 d a b 0x07#8]
  | .remu d a b => [aForm 0x00#6 d a b 0x08#8]
  | .and d a b => [aForm 0x00#6 d a b 0x09#8]
  | .or d a b => [aForm 0x00#6 d a b 0x0a#8]
  | .xor d a b => [aForm 0x00#6 d a b 0x0b#8]
  | .andn d a b => [aForm 0x00#6 d a b 0x0c#8]
  | .shl d a b => [aForm 0x00#6 d a b 0x0d#8]
  | .shr d a b => [aForm 0x00#6 d a b 0x0e#8]
  | .sar d a b => [aForm 0x00#6 d a b 0x0f#8]
  | .rol d a b => [aForm 0x00#6 d a b 0x10#8]
  | .min d a b => [aForm 0x00#6 d a b 0x11#8]
  | .minu d a b => [aForm 0x00#6 d a b 0x12#8]
  | .max d a b => [aForm 0x00#6 d a b 0x13#8]
  | .maxu d a b => [aForm 0x00#6 d a b 0x14#8]
  | .slt d a b => [aForm 0x00#6 d a b 0x15#8]
  | .sltu d a b => [aForm 0x00#6 d a b 0x16#8]
  | .seq d a b => [aForm 0x00#6 d a b 0x17#8]
  | .sne d a b => [aForm 0x00#6 d a b 0x18#8]
  | .sel d a b => [aForm 0x00#6 d a b 0x1c#8]
  | .clz d a => [aForm 0x00#6 d a 0#6 0x19#8]
  | .ctz d a => [aForm 0x00#6 d a 0#6 0x1a#8]
  | .popc d a => [aForm 0x00#6 d a 0#6 0x1b#8]
  | .mov d a => [aForm 0x00#6 d a 0#6 0x1d#8]
  | .neg d a => [aForm 0x00#6 d a 0#6 0x1e#8]
  | .addi d a i => [iForm 0x01#6 d a i]
  | .andi d a i => [iForm 0x02#6 d a i]
  | .ori d a i => [iForm 0x03#6 d a i]
  | .xori d a i => [iForm 0x04#6 d a i]
  | .slti d a i => [iForm 0x08#6 d a i]
  | .sltiu d a i => [iForm 0x09#6 d a i]
  | .ldb d a i => [iForm 0x20#6 d a i]
  | .ldh d a i => [iForm 0x21#6 d a i]
  | .ldw d a i => [iForm 0x22#6 d a i]
  | .ldd d a i => [iForm 0x23#6 d a i]
  | .stb d a i => [iForm 0x24#6 d a i]
  | .sth d a i => [iForm 0x25#6 d a i]
  | .stw d a i => [iForm 0x26#6 d a i]
  | .std d a i => [iForm 0x27#6 d a i]
  | .lds d a i => [iForm 0x28#6 d a i]
  | .sts d a i => [iForm 0x29#6 d a i]
  | .shli d a s => [iForm 0x05#6 d a (0#8 ++ s)]
  | .shri d a s => [iForm 0x06#6 d a (0#8 ++ s)]
  | .sari d a s => [iForm 0x07#6 d a (0#8 ++ s)]
  | .lui d i => [iForm 0x0A#6 d 0#6 i]
  | .bfx d a x l p => [iForm 0x0B#6 d a (0#1 ++ bit1 x ++ l ++ p)]
  | .bfi d a l p => [iForm 0x0C#6 d a (0#2 ++ l ++ p)]
  | .beq a b o => [iForm 0x10#6 a b o]
  | .bne a b o => [iForm 0x11#6 a b o]
  | .blt a b o => [iForm 0x12#6 a b o]
  | .bge a b o => [iForm 0x13#6 a b o]
  | .bltu a b o => [iForm 0x14#6 a b o]
  | .bgeu a b o => [iForm 0x15#6 a b o]
  | .loop a o => [iForm 0x16#6 a 0#6 o]
  | .jmp o => [0x17#6 ++ o]
  | .jal o => [0x18#6 ++ o]
  | .ldt d a b => [aForm 0x2a#6 d a b 0x00#8]
  | .gbarArr d a b => [aForm 0x33#6 d a b 0x00#8]
  | .pst d a b => [aForm 0x37#6 d a b 0x00#8]
  | .semSig a b => [aForm 0x32#6 0#6 a b 0x00#8]
  | .semWge a b => [aForm 0x32#6 0#6 a b 0x01#8]
  | .gbarWait a b => [aForm 0x33#6 0#6 a b 0x01#8]
  | .tapeBase a b => [aForm 0x38#6 0#6 a b 0x01#8]
  | .ertFetch a b => [aForm 0x39#6 0#6 a b 0x03#8]
  | .icinv a b => [aForm 0x3a#6 0#6 a b 0x04#8]
  | .tlbinv a b => [aForm 0x3a#6 0#6 a b 0x05#8]
  | .jr d a => [aForm 0x19#6 d a 0#6 0x00#8]
  | .semRd d a => [aForm 0x32#6 d a 0#6 0x02#8]
  | .tapeMark d a => [aForm 0x38#6 d a 0#6 0x03#8]
  | .tapeRd d a => [aForm 0x38#6 d a 0#6 0x04#8]
  | .ertQ d a => [aForm 0x39#6 d a 0#6 0x00#8]
  | .gbarDrop a => [aForm 0x33#6 0#6 a 0#6 0x02#8]
  | .dmode a => [aForm 0x38#6 0#6 a 0#6 0x00#8]
  | .tapeLim a => [aForm 0x38#6 0#6 a 0#6 0x02#8]
  | .ertPin a => [aForm 0x39#6 0#6 a 0#6 0x01#8]
  | .ertUnpin a => [aForm 0x39#6 0#6 a 0#6 0x02#8]
  | .ertEvict a => [aForm 0x39#6 0#6 a 0#6 0x04#8]
  | .trap a => [aForm 0x3a#6 0#6 a 0#6 0x00#8]
  | .tkill a => [aForm 0x3a#6 0#6 a 0#6 0x07#8]
  | .fend => [aForm 0x1a#6 0#6 0#6 0#6 0x00#8]
  | .aexit => [aForm 0x1b#6 0#6 0#6 0#6 0x00#8]
  | .eret => [aForm 0x3a#6 0#6 0#6 0#6 0x01#8]
  | .nop => [aForm 0x3a#6 0#6 0#6 0#6 0x08#8]
  | .halt => [aForm 0x3a#6 0#6 0#6 0#6 0x09#8]
  | .pushm d a => [iForm 0x2B#6 d a 0#14]
  | .popm d a => [iForm 0x2C#6 d a 0#14]
  | .pf a i => [iForm 0x2D#6 0#6 a i]
  | .cbw d h n => [cForm d h n 0#8]
  | .cbf d h n => [cForm d h n 1#8]
  | .cbadv h n => [cForm 0#6 h n 2#8]
  | .cbpub h n => [cForm 0#6 h n 3#8]
  | .cbld d h i j => [cForm d h (i ++ j) 4#8]
  | .cbst d h i j => [cForm d h (i ++ j) 5#8]
  | .tokEos h k => [cForm 0#6 h (0#6 ++ k) 6#8]
  | .tokBnd d h => [cForm d h 0#8 7#8]
  | .tokCtl k a => [cForm 0#6 0#4 (0#2 ++ bit1 k ++ a) 8#8]
  | .qbind q n => [cForm q 0#4 n 9#8]
  | .fenceScope s => [iForm 0x31#6 0#6 0#6 (0#12 ++ s)]
  | .xfence p s => [iForm 0x31#6 0#6 0#6 (1#1 ++ 0#3 ++ p ++ s)]
  | .amo d a b op t => [aForm 0x34#6 d a b (op ++ t)]
  | .red a b op t => [aForm 0x35#6 0#6 a b (op ++ t)]
  | .cas d a b t => [aForm 0x36#6 d a b (0#4 ++ t)]
  | .csrr d c => [aForm 0x3A#6 d 0#6 c 2#8]
  | .csrw a c => [aForm 0x3A#6 0#6 a c 3#8]
  | .ldtsc d => [aForm 0x3A#6 d 0#6 0#6 6#8]
  | .li d c => lForm d 0#8 c
  | .lih d i => lForm d 1#8 (0#24 ++ i)
  | .addli d c => lForm d 2#8 c
  | .strM2s e => eForm 0#4 0#6 e
  | .strS2p e => eForm 0#4 1#6 e
  | .strM2p e => eForm 0#4 2#6 e
  | .strP2m e => eForm 0#4 3#6 e
  | .strP2s e => eForm 0#4 4#6 e
  | .strS2m e => eForm 0#4 5#6 e
  | .strM2pBm e => eForm 0#4 6#6 e
  | .strP2mBm e => eForm 0#4 7#6 e
  | .strInd e => eForm 0#4 8#6 e
  | .strSct e => eForm 0#4 9#6 e
  | .strCst e => eForm 0#4 10#6 e
  | .strRec e => eForm 0#4 11#6 e
  | .sbarSr e => eForm 1#4 0#6 e
  | .sbarSw e => eForm 1#4 1#6 e
  | .sbarM e => eForm 1#4 2#6 e
  | .sbarAll e => eForm 1#4 3#6 e
  | .cp e => eForm 2#4 0#6 e
  | .cpMx e => eForm 2#4 1#6 e
  | .cpS e => eForm 2#4 2#6 e
  | .mxLd e => eForm 3#4 0#6 e
  | .mxMmaBf16 e => eForm 3#4 1#6 e
  | .mxMmaF16 e => eForm 3#4 2#6 e
  | .mxMmaE4m3 e => eForm 3#4 3#6 e
  | .mxMmaE5m2 e => eForm 3#4 4#6 e
  | .mxMmaE2m1 e => eForm 3#4 5#6 e
  | .mxMmaI8 e => eForm 3#4 6#6 e
  | .mxMmaI16 e => eForm 3#4 7#6 e
  | .mxSt e => eForm 3#4 8#6 e
  | .mxZero e => eForm 3#4 9#6 e
  | .coA2a e => eForm 4#4 0#6 e
  | .coAg e => eForm 4#4 1#6 e
  | .coRs e => eForm 4#4 2#6 e
  | .coAr e => eForm 4#4 3#6 e
  | .coPut e => eForm 4#4 4#6 e
  | .coGet e => eForm 4#4 5#6 e
  | .coSig e => eForm 4#4 6#6 e
  | .dxInflate e => eForm 5#4 0#6 e
  | .dxZstd e => eForm 5#4 1#6 e
  | .dxLz4 e => eForm 5#4 2#6 e
  | .stoRd e => eForm 5#4 3#6 e
  | .configCommit _ _ => []
  | .configFieldsApply _ => []
  | .storeRelease _ _ => []
  | .ceFire _ _ => []
  | .ceToken _ _ => []
  | .ceEosEmit _ _ => []
  | .pipelineExit _ _ => []
  | .skidDrain _ _ _ => []
  | .storeAccept _ _ => []
  | .storeIssue _ _ => []
  | .storeAbort _ _ => []
  | .ringSpill _ _ => []
  | .ringRefill _ _ => []
  | .firingStart _ => []
  | .icacheFill _ _ => []
  | .seqBudget _ _ => []
  | .trapActorFire _ => []
  | .queueFlitArrive _ => []
  | .agPhaseStart _ _ => []
  | .agBeat _ _ => []
  | .bankGrant _ _ => []
  | .bankHandoff _ _ => []
  | .controlTokenDeliver _ _ => []
  | .scoreboardRetire _ _ => []
  | .engineStart _ _ => []
  | .completionPost _ _ => []
  | .followOnEnqueue _ _ => []
  | .loopFlitRetransmit _ _ _ _ _ => []
  | .qosFrameBoundary => []
  | .batchClose _ => []
  | .noticeSend _ _ => []
  | .noticeApply _ _ => []
  | .nmUpdate _ => []
  | .semFrameReread _ => []
  | .semPollRetry _ _ => []
  | .hbmScrub _ _ => []
  | .windowMove _ _ => []
  | .launchReady _ => []
  | .dispatch => []
  | .gangAnnounce _ _ _ _ _ => []
  | .preemption _ _ => []
  | .claimUnit _ _ => []
  | .resume _ => []
  | .taskEnd _ => []
  | .gangAbort _ _ => []
  | .expertFetch _ => []
  | .poolAllocRetry _ => []
  | .sliceLanded _ => []
  | .fetchFail _ => []
  | .brambleRelease _ _ => []
  | .useReport _ => []
  | .linkRetry _ _ => []
  | .hostSnoop _ => []
  | .hostHdmAccess _ _ => []
  | .powerOn _ => []
  | .throttle _ => []
  | .hostRegWrite _ _ => []
  | .reset => []
  | .query => []
  | .load => []
  | .unload => []
  | .lease => []
  | .unlease => []
  | .map => []
  | .launch => []
  | .preempt => []
  | .kill => []
  | .trapRpt => []
  | .ertcfg => []
  | .monitor => []
  | .fuseadv => []
  | .seqIllWord _ => []
  | .seqPcFallThrough => []
  | .appliedAtHome _ => []
  | .remotePackageAccess _ _ _ => []

/-- A word of a program, which only a fetch executes, or one of the two ways a fetch ends without one (R78, R138): no other
agent takes such a step. -/
def Instr.ofFetch (i : Instr) : Bool :=
  match i with
  | .seqIllWord _ => true
  | .seqPcFallThrough => true
  | _ => !(encode i).isEmpty

/-- The four bytes of a word, lowest first (R3). -/
def wordBytes (w : Lane) : List Byte := [fld w 0 8, fld w 8 8, fld w 16 8, fld w 24 8]

/-- The bytes of an instruction as they lie in the code (R3, R73). -/
def encodeBytes (i : Instr) : List Byte := (encode i).flatMap wordBytes

/-- The instruction the decoder reads from the bits w, bit 0 the least significant of the first word; the bits above nbits
are zero up to the longest instruction, two words. -/
def decodeTableWord (nbits w : Nat) : Option Instr :=
  let v := w % 2 ^ nbits
  match decode (wordBytes (BitVec.ofNat 32 v) ++ wordBytes (BitVec.ofNat 32 (v / 4294967296))) with
  | .ok (i, _) => some i
  | .error _ => none

end Sys2Proof
end

