-- ==== Sys2Proof/Machine/Latency.lean ====
section
/-! DEFINITION. What an instruction reads, and the cycle from which it may issue (R138, R282). -/

namespace Sys2Proof.Machine

/-- The registers with codes d to a. -/
def regRange (d a : Nat) : List Reg := (List.range (a + 1 - d)).map (fun k => BitVec.ofNat 6 (d + k))

/-- The registers that a sequencer's instruction reads (R139 to R180). What no sequencer fetches reads none. -/
def Instr.sources : Sys2Proof.Instr → List Reg
  | .add _ a b | .sub _ a b | .mul _ a b | .mulh _ a b | .mulhu _ a b | .div _ a b | .divu _ a b | .rem _ a b | .remu _ a b
  | .and _ a b | .or _ a b | .xor _ a b | .andn _ a b | .shl _ a b | .shr _ a b | .sar _ a b | .rol _ a b
  | .min _ a b | .minu _ a b | .max _ a b | .maxu _ a b | .slt _ a b | .sltu _ a b | .seq _ a b | .sne _ a b => [a, b]
  | .clz _ a | .ctz _ a | .popc _ a | .mov _ a | .neg _ a => [a]
  | .sel d a b => [a, b, d]
  | .addi _ a _ | .andi _ a _ | .ori _ a _ | .xori _ a _ | .slti _ a _ | .sltiu _ a _ => [a]
  | .shli _ a _ | .shri _ a _ | .sari _ a _ => [a]
  | .lui _ _ | .li _ _ => []
  | .bfx _ a _ _ _ => [a]
  | .bfi d a _ _ => [a, d]
  | .lih d _ | .addli d _ => [d]
  | .beq a b _ | .bne a b _ | .blt a b _ | .bge a b _ | .bltu a b _ | .bgeu a b _ => [a, b]
  | .loop a _ | .jr _ a => [a]
  | .jmp _ | .jal _ | .fend | .aexit => []
  | .ldb _ a _ | .ldh _ a _ | .ldw _ a _ | .ldd _ a _ | .lds _ a _ | .pf a _ => [a]
  | .stb d a _ | .sth d a _ | .stw d a _ | .std d a _ | .sts d a _ => [a, d]
  | .ldt _ a b => a :: regRange b.toNat (Nat.min (b.toNat + 5) 31)
  | .pst d a b => d :: a :: regRange b.toNat (Nat.min (b.toNat + 5) 31)
  | .pushm d a => 52#6 :: regRange d.toNat a.toNat
  | .popm _ _ => [52#6]
  | .cbw .. | .cbf .. | .cbadv .. | .cbpub .. | .cbld .. | .tokEos .. | .tokCtl .. => []
  | .cbst d _ _ _ | .tokBnd d _ => [d]
  | .qbind _ n => [n.truncate 6]
  | .fenceScope _ | .xfence .. => []
  | .semSig a b | .semWge a b | .gbarArr _ a b | .gbarWait a b | .amo _ a b _ _ | .red a b _ _ => [a, b]
  | .cas d a b _ => [a, b, d]
  | .semRd _ a | .gbarDrop a => [a]
  | .dmode a | .tapeLim a | .tapeMark _ a | .tapeRd _ a => [a]
  | .tapeBase a b => [a, b]
  | .ertQ _ a | .ertPin a | .ertUnpin a | .ertEvict a => [a]
  | .ertFetch a b => [a, b]
  | .trap a | .csrw a _ | .tkill a => [a]
  | .icinv a b | .tlbinv a b => [a, b]
  | .eret | .csrr .. | .ldtsc _ | .nop | .halt => []
  | .strM2s e | .strS2p e | .strM2p e | .strP2m e | .strP2s e | .strS2m e | .strM2pBm e | .strP2mBm e | .strInd e | .strSct e
  | .strCst e | .strRec e | .sbarSr e | .sbarSw e | .sbarM e | .sbarAll e | .cp e | .cpMx e | .cpS e
  | .mxLd e | .mxMmaBf16 e | .mxMmaF16 e | .mxMmaE4m3 e | .mxMmaE5m2 e | .mxMmaE2m1 e | .mxMmaI8 e | .mxMmaI16 e | .mxSt e
  | .mxZero e | .coA2a e | .coAg e | .coRs e | .coAr e | .coPut e | .coGet e | .coSig e
  | .dxInflate e | .dxZstd e | .dxLz4 e | .stoRd e => [e.a, e.b, e.c] ++ (if e.cmpl then [e.d] else [])
  | .configCommit .. | .configFieldsApply _ | .storeRelease .. | .ceFire .. | .ceToken .. | .ceEosEmit .. | .pipelineExit ..
  | .skidDrain .. | .storeAccept .. | .storeIssue .. | .storeAbort .. | .ringSpill .. | .ringRefill ..
  | .firingStart _ | .icacheFill .. | .seqBudget .. | .trapActorFire _ | .queueFlitArrive _
  | .agPhaseStart .. | .agBeat .. | .bankGrant .. | .bankHandoff .. | .controlTokenDeliver .. | .scoreboardRetire ..
  | .engineStart .. | .completionPost .. | .followOnEnqueue ..
  | .loopFlitRetransmit .. | .qosFrameBoundary | .batchClose _ | .noticeSend .. | .noticeApply ..
  | .nmUpdate _ | .semFrameReread _ | .semPollRetry .. | .hbmScrub ..
  | .windowMove .. | .launchReady _ | .dispatch | .gangAnnounce .. | .preemption .. | .claimUnit .. | .resume _ | .taskEnd _ | .gangAbort ..
  | .expertFetch _ | .poolAllocRetry _ | .sliceLanded _ | .fetchFail _ | .brambleRelease .. | .useReport _
  | .linkRetry .. | .hostSnoop _ | .hostHdmAccess .. | .powerOn _ | .throttle _ | .hostRegWrite ..
  | .reset | .query | .load | .unload | .lease | .unlease | .map | .launch | .preempt | .kill | .trapRpt | .ertcfg | .monitor | .fuseadv
  | .seqIllWord _ | .seqPcFallThrough | .appliedAtHome _ | .remotePackageAccess .. => []

/-- The cycle from which a firing may issue an instruction that reads some registers. -/
def Firing.readyFrom (f : Firing) (rs : List Reg) : Nat :=
  rs.foldl (fun n r => Nat.max n (SMap.get f.late 0 r.toNat)) f.resumeAt

end Sys2Proof.Machine
end

