-- ==== Sys2Proof/Machine/Fetch.lean ====
section
/-! DEFINITION. Fetching an instruction through the instruction cache (R98, R138), silent evictions, and how a test places a
word where the next step fetches it (DESIGN CHOICE, log entry 14). -/

namespace Sys2Proof.Machine

/-- What the sequencer finds when a context's turn to issue comes. -/
inductive Fetched where
  /-- no firing there that may issue -/
  | idle
  /-- the firing has reached its budget (R95) -/
  | budget
  /-- the instruction cache lacks the line (R98) -/
  | miss
  /-- a word that is no instruction (R78) -/
  | illegal (w : Lane)
  /-- the program counter stands outside the code (R138) -/
  | off
  | instr (i : Instr)
  deriving DecidableEq, Repr

/-- By a cycle the firing has used its budget (R95): the cycles from its first issue, a resumed firing's from its resumption. -/
def Firing.spent (f : Firing) (at' budget : Nat) : Bool :=
  match f.started with
  | some t => decide (t + budget ≤ at')
  | none => false

/-- A `gbar.arr` that waits for its release is cut off only once it has completed (R95). -/
def Cluster.acting (c : Cluster) (ctx : Nat) : Bool :=
  match c.fenceOf ctx with
  | some x => x.acts
  | none => false

/-- The contexts after one in turn, up to another. -/
def between (last ctx : Nat) : List Nat := ((List.range 4).map (fun k => (last + 1 + k) % 4)).takeWhile (fun k => k != ctx)

/-- What stands at a program counter. A two-word form whose second word lies beyond the code has run off it: SEQ.PC, with trapaddr the first
word's address. DESIGN CHOICE (log entry 42). -/
def peek (s : State) (cl : Nat) (pc : Word) : Fetched :=
  let c := s.cluster cl
  if !pcOk s cl pc then .off
  else
    match icacheWord c pc.toNat with
    | some [b0, b1, b2, b3] =>
      if hasTwoWords (word32 b0 b1 b2 b3) then
        if !pcOk s cl (pc + 4#64) then
          -- a first word that no second one makes an instruction is rejected before the second is missed (R78)
          match decode [b0, b1, b2, b3, 0#8, 0#8, 0#8, 0#8] with
          | .ok _ => .off
          | .error _ => .illegal (word32 b0 b1 b2 b3)
        else match icacheWord c (pc.toNat + 4) with
          | some second =>
            match decode (b0 :: b1 :: b2 :: b3 :: second) with
            | .ok (i, _) => .instr i
            | .error .short => .off
            | .error _ => .illegal (word32 b0 b1 b2 b3)
          | none => .miss
      else match decode [b0, b1, b2, b3] with
        | .ok (i, _) => .instr i
        | .error .short => .off
        | .error _ => .illegal (word32 b0 b1 b2 b3)
    | _ => .miss

/-- The cycle from which a firing may issue what it has found: past the latencies of what it reads (R138, R282). -/
def Firing.notBefore (f : Firing) : Fetched → Nat
  | .instr i => f.readyFrom (Instr.sources i)
  | _ => f.resumeAt

/-- The first cycle in which a context's firing may issue; none for a firing that waits: for a line of the cache, for an answer, or where it is
blocked (R92, R98). -/
def issueAt (s : State) (cl ctx : Nat) : Option Nat :=
  match s.firing cl ctx with
  | none => none
  | some f =>
    if !f.ready || f.waiting || s.rides cl ctx then none
    else match peek s cl f.pc with
      | .miss => none
      | x => some (Nat.max (s.slotTime cl) (f.notBefore x))

/-- It is the turn of a context whose firing issues in cycle t: no firing that could issue then stands before it, and none could issue
earlier (R92). -/
def inTurn (s : State) (cl ctx t : Nat) : Bool :=
  (List.range 4).all (fun k => k == ctx || (match issueAt s cl k with
    | some u => if (between (s.cluster cl).lastCtx ctx).contains k then decide (t < u) else decide (t ≤ u)
    | none => true))

/-- The cycle from which the firing of a context may issue. -/
def State.readyAt (s : State) (cl ctx : Nat) : Nat :=
  match s.firing cl ctx with
  | some f => f.notBefore (peek s cl f.pc)
  | none => 0

/-- The next cycle in which the firing of a context could issue. -/
def State.nextIssue (s : State) (cl ctx : Nat) : Nat := Nat.max (s.slotTime cl) (s.readyAt cl ctx)

/-- A firing will have used its budget by the next cycle in which it could issue; a `gbar.arr` that waits for its release is not cut off, nor
an update whose answer is on its way (R95). -/
def State.overBudget (s : State) (cl ctx : Nat) (f : Firing) : Bool :=
  f.spent (s.nextIssue cl ctx) (s.cluster cl).budget && !(s.cluster cl).acting ctx && !(s.rides cl ctx && f.back.isNone)

/-- The instruction at the program counter of a context, when its turn to issue comes. -/
def fetch (s : State) (cl ctx : Nat) : Fetched :=
  match s.firing cl ctx with
  | none => .idle
  | some f =>
    if !f.ready then .idle
    else if s.overBudget cl ctx f then .budget
    else if s.rides cl ctx then .idle
    else match peek s cl f.pc with
      | .miss => .miss
      | x => if inTurn s cl ctx (s.nextIssue cl ctx) then x else .idle

/-! ## Where a firing may be saved (R272) -/

/-- Of an instruction that may block on something other than a channel, a q register, a semaphore or a barrier: the registers it writes. -/
def otherWait : Instr → Option (List Reg)
  | .ldb d _ _ | .ldh d _ _ | .ldw d _ _ | .ldd d _ _ | .lds d _ _ | .ldt d _ _ | .amo d _ _ _ _ | .cas d _ _ _ | .gbarArr d _ _
  | .tapeMark d _ | .tapeRd d _ | .semRd d _ => some [d]
  | .stb .. | .sth .. | .stw .. | .std .. | .sts .. | .pst .. | .red .. | .semSig .. | .tapeBase .. | .ertFetch .. | .pushm .. | .popm ..
  | .dmode _ | .ertEvict _ | .gbarDrop _ | .fenceScope _
  | .strM2s _ | .strS2p _ | .strM2p _ | .strP2m _ | .strP2s _ | .strS2m _ | .strM2pBm _ | .strP2mBm _ | .strInd _ | .strSct _ | .strCst _
  | .strRec _ | .sbarSr _ | .sbarSw _ | .sbarM _ | .sbarAll _ | .cp _ | .cpMx _ | .cpS _ | .mxLd _ | .mxMmaBf16 _ | .mxMmaF16 _
  | .mxMmaE4m3 _ | .mxMmaE5m2 _ | .mxMmaE2m1 _ | .mxMmaI8 _ | .mxMmaI16 _ | .mxSt _ | .mxZero _ | .coA2a _ | .coAg _ | .coRs _ | .coAr _
  | .coPut _ | .coGet _ | .coSig _ | .dxInflate _ | .dxZstd _ | .dxLz4 _ | .stoRd _ => some []
  | _ => none

/-- A firing of a slot is blocked on a q register: one that it reads holds fewer flits than it takes, or one that it writes has no room. -/
def queueBlocked (s : State) (cl slot : Nat) (srcs dsts : List Reg) : Bool :=
  srcs.any (fun r => isQueue r && decide ((SMap.get (s.cluster cl).qbufs [] (4 * slot + (r.toNat - 48))).length < (srcs.filter (· == r)).length))
    || dsts.any (fun r => isQueue r && (match SMap.find ((s.cluster cl).slot slot).binds (r.toNat - 48) with
      | some b => decide (4 ≤ s.queued b)
      | none => false))

/-- The firing may be saved where it stands: suspended for a trap, or blocked on a channel, a q register, `sem.wge` or `gbar.wait` (R272). The end
of a firing that waits for room in its channels is such a wait; one that waits for its release is not. DEDUCED (log entry 27). -/
def quietFiring (s : State) (cl ctx : Nat) (f : Firing) : Bool :=
  f.suspended.isSome || (f.waiting && !s.rides cl ctx && (match peek s cl f.pc with
    | .instr i => (match i with
      | .xfence .. => false
      | .fend | .aexit | .halt | .eret => ((s.cluster cl).fenceOf ctx).isNone
      | i => match otherWait i with
        | none => true
        | some ds => queueBlocked s cl f.slot (Instr.sources i) ds)
    | _ => false))

/-! ## Misses and evictions -/

/-- A firing blocked on an instruction-cache miss: the sequencer passes over it (R92), and its budget counts on, if it has begun (R95). -/
def blockedOnMiss (s : State) (cl ctx : Nat) : State := blocked s cl ctx

/-- A line of an L2 slice, or of a stack, is found to hold an uncorrectable error (R217, R242); or an expander returns a line of the CXL tier
poisoned (R318). -/
def spoilLine (s : State) (line : Nat) (l2 : Bool) : State :=
  if l2 then (if regionOf (128 * line) = 0 then { s with ecc := line :: s.ecc } else s)
  else if regionOf (128 * line) = 0 ∨ regionOf (128 * line) = 2 then { s with poison := line :: s.poison } else s

/-- A clean line leaves a die's RDC (R212). DESIGN CHOICE (log entry 1). -/
def evictLine (s : State) (die line : Nat) : State := s.modDie die (fun d => { d with rdc := SMap.del d.rdc line })

/-- An entry leaves a die's leaf cache, or its pointer cache (R245). -/
def evictWalk (s : State) (die : Nat) (ptr : Bool) (k : Nat) : State :=
  s.modDie die (fun d => if ptr then { d with ptrs := d.ptrs.eraseIdx k } else { d with leafs := d.leafs.eraseIdx k })

/-- A line leaves a cluster's instruction cache (R98). -/
def evictCode (s : State) (cl line : Nat) : State := s.modCluster cl (fun c => { c with icache := SMap.del c.icache line })

/-- The bytes of an instruction word string of nbits bits, the bits above them zero up to two words, little-endian (R3). -/
def wordStringBytes (nbits w : Nat) : List Byte := bytesOfNat 8 (w % 2 ^ nbits)

/-- A task with nothing but a line of code. DESIGN CHOICE (log entry 14). -/
def bareTask : Task :=
  { handle := 0, status := .running, endCause := 0#16, cls := 0, rank := 0, key := 0#64, origins := [(0, 0)], clusters := [0],
    root := 0, leases := [], tensors := [], readOnly := [], tiles := [], tags := [], widths := [0, 0, 0, 0, 0, 0], arg := 0#64,
    spill := 32768, csize := 128, codeVA := 0, succs := [], ring := [], seqno := 0, aborting := none,
    started := 0, objid := 0#32, collectives := [], refusal := 0,
    ready := true, yielding := false, sema := 0, semt := 0#64 }

/-- A firing at code offset 0 of slot 0, with every register zero. DESIGN CHOICE (log entry 14). -/
def bareFiring : Firing :=
  { slot := 0, wid := 0#64, s := Vector.replicate 32 0#64, sp := 0#64, pc := 0#64, adv := [], pub := [], written := [],
    started := none, suspended := none, handling := none, epc := 0#64, parked := false, evicting := false, waiting := false, saw := [], late := [], resumeAt := 0, back := none }

/-- Cluster 0 runs, in context 0, a firing of slot 0 whose instruction cache holds the instruction at offset 0; the slot is
valid and the budget 65,536. DESIGN CHOICE (log entry 14). -/
def placeWord (s : State) (nbits w : Nat) : State :=
  let s1 := s.setTask 1 bareTask
  let s2 := s1.modCluster 0 (fun c =>
    { c.setSlot 0 { c.slot 0 with status := .running } with
      owner := some 1,
      cfg := SMap.set (SMap.set (SMap.set c.cfg (256 * 0x20) 1#16) (256 * 0x20 + 1) 0xFFFF#16) (256 * 0x20 + 0x40) 1#16,
      icache := SMap.set c.icache 0 (Beat.ofBytes (wordStringBytes nbits w)),
      ctxs := SMap.set c.ctxs 0 bareFiring })
  { s2 with cur := (0, 0), agenda := [] }

end Sys2Proof.Machine
end

