-- ==== Sys2Proof/Machine/EngineStart.lean ====
section
/-! DEFINITION. ENGINE_START: packets of engine-bound ports (R137), the rules that hold a command in its queue (R181), its
checks at the start; and one unit of a running command's work. -/

namespace Sys2Proof.Machine

/-! ## Engine-bound edge ports (R137, R170) -/

/-- The port carries packets for an engine, and the class of that engine. -/
def Cluster.engPort (c : Cluster) (e : Nat) : Bool := bitAt (c.fieldN (0x30 + e) 0) 0 && bitAt (c.fieldN (0x30 + e) 0) 2
def Cluster.portClass (c : Cluster) (e : Nat) : Nat := bitsAt (c.fieldN (0x30 + e) 0) 3 3

def Cluster.portQueue (c : Cluster) (e : Nat) : List Cmd := SMap.get c.portq [] e

/-- The command of a packet: its words in lanes 0 and 1, the values of registers a, b, c and d behind them. -/
def packetCmd (c : Cluster) (e : Nat) (b : Beat) : Option (Nat × Nat × EOps) :=
  match decode (bytesOfNat 8 (b.dword 0).toNat) with
  | .ok (i, _) => (commandCode i).bind (fun (cls, sub, ops) =>
      if queueOf cls = queueOf (c.portClass e) ∧ (cls = c.portClass e) ∧ (ops.cmpl || (c.handleUsed ops.handle.toNat && c.handleCmpl ops.handle.toNat))
      then some (cls, sub, ops) else none)
  | .error _ => none

/-- A packet passes its port's checks and enters the queue, or the port ends its phase with the status ENG.CMD, or with the status of
the translation fault (R137), or with SEQ.ALIGN for a semaphore address that is no multiple of 8, for which R137 names no outcome. DESIGN
CHOICE (log entry 48). -/
def portPacket (cl e : Nat) (b : Beat) (s : State) : State :=
  let key := portKey (0x30 + e) 0
  let reject := fun (c : Cause) => (discardPhase s cl key).modCluster cl (fun x => { x with portEnd := SMap.set x.portEnd e c })
  match packetCmd (s.cluster cl) e b with
  | none => reject Cause.engCmd
  | some (cls, sub, ops) =>
    let d := (b.dword 4).toNat
    let target : Res Target :=
      if ops.cmpl then
        if d % 8 ≠ 0 then .trap (trapOf Cause.seqAlign 0#64) else (sqAddress cl d 8 true s).bind (fun p s => .ok (.sem p.1) s)
      else .ok (.handle ops.handle.toNat) s
    workRes s cl target (fun t s1 =>
      let (id, s2) := s1.fresh
      (takeItems s2 cl key 1).modCluster cl (fun c => { c with portq := SMap.set c.portq e (c.portQueue e ++
        [{ id := id, cls := cls, sub := sub, cs := ops.cs.toNat, a := b.dword 1, b := b.dword 2, c := b.dword 3, tag := ops.tag.toNat,
           target := t, parent := none, after := [] }]) }))
      reject

/-- The next item of an engine-bound port, while its queue has room: a packet, or a token without effect. While a follow-on waits for a
place of the matrix array, what a port offers it waits too (R195). -/
def portTake (cl e : Nat) (s : State) : Option State :=
  let c := s.cluster cl
  if !c.engPort e || decide (Config.queueDepth ≤ (c.portQueue e).length) || (queueOf (c.portClass e) == 3 && c.running.any Run.landed)
  then none
  else match (c.chan (portKey (0x30 + e) 0)).bind (fun ch => ch.seen.head?) with
    | none => none
    | some (.data b) => some (portPacket cl e b s)
    | some _ => some (takeItems s cl (portKey (0x30 + e) 0) 1)

/-! ## What holds a command back -/

/-- A queue of commands: 16 + e names the queue of edge port e. -/
def Cluster.cmdQueue (c : Cluster) (q : Nat) : List Cmd := if 16 ≤ q then c.portQueue (q - 16) else c.queue q
def Cluster.setCmdQueue (c : Cluster) (q : Nat) (l : List Cmd) : Cluster :=
  if 16 ≤ q then { c with portq := SMap.set c.portq (q - 16) l } else c.setQueue q l
/-- The engine a queue feeds. -/
def Cluster.engineOf (c : Cluster) (q : Nat) : Nat := if 16 ≤ q then queueOf (c.portClass (q - 16)) else q
/-- The queues that feed an engine. -/
def Cluster.queuesOf (c : Cluster) (eng : Nat) : List Nat :=
  eng :: ((List.range 24).filter (fun e => c.engPort e && queueOf (c.portClass e) == eng)).map (16 + ·)

/-- Copies in flight (R175): those that have not completed, a `cp.mx` until its copy has landed. -/
def copiesInFlight (s : State) (cl : Nat) : Nat :=
  ((s.cluster cl).running.filter (fun r => r.cmd.cls == 2 && !s.completed cl r && decide (r.aux < 2))).length

/-- The rules of its class let a command start. A stream waits until the earlier command of its generator, and a barrier that holds
it, have completed (R185, R192); a copy waits until an earlier `cp.mx` of its queue has made its scoreboard entry, so that copies
write in issue order (R174). -/
def mayStart (s : State) (cl q : Nat) (x : Cmd) : Bool :=
  let c := s.cluster cl
  match x.cls with
  | 0 =>
    !c.running.any (fun r => r.q == q && r.cmd.cls == 1 && !s.completed cl r && r.cmd.heldBy c x) &&
      (!x.isPort || ((c.ag x.gen).phase.isNone && (!(c.ag x.gen).auto || c.swTile (agEl x.gen))
        && !c.running.any (fun r => r.cmd.isPort && r.unit == x.gen && !s.completed cl r)))
  | 1 => true
  | 2 =>
    bitAt (c.fieldN 0x22 0) 0 && decide (copiesInFlight s cl < bitsAt (c.fieldN 0x22 1) 0 4 + 1)
      && (x.sub != 2 || !cpSOk c x || decide (c.board.length < 16))
      && !c.running.any (fun r => r.q == q && r.cmd.cls == 2 && r.cmd.sub == 1 && r.aux == 0 && !r.done)
  | 3 => mxMayStart c x && !s.claimed cl 160
  | 4 => coMayStart s cl q x
  | _ => dxMayStart s cl x

/-- A blocked `xfence` on the command's path holds what entered its queue after it (R222), but for the follow-on of a `cp.mx` that
it waits for. -/
def fenced (c : Cluster) (x : Cmd) : Bool :=
  c.xfences.any (fun f => bitAt f.paths (classPath x.cls) && decide (f.upto ≤ x.id) &&
    !(match x.parent with | some p => bitAt f.paths 2 && decide (p < f.upto) | none => false))

/-- The head of a queue may start now; it starts behind what its firing had read before it reached its home (R223). -/
def ready (s : State) (cl q : Nat) : Bool :=
  match ((s.cluster cl).cmdQueue q).head? with
  | some x => !fenced (s.cluster cl) x && mayStart s cl q x && x.after.all (fun id => !s.posted.any (fun m => m.id == id))
  | none => false

/-- Of the ready queues of an engine, the next after the one it started from last (R181). -/
def turnOf (s : State) (cl q : Nat) : Bool :=
  let c := s.cluster cl
  let eng := c.engineOf q
  let rs := (c.queuesOf eng).filter (fun q => ready s cl q)
  let last := SMap.get c.lastq 15 eng
  match rs.find? (fun k => decide (last < k)) with
  | some k => k == q
  | none => rs.head? == some q

/-! ## The start -/

/-- Limits of `cp` (R194). -/
def cpOk (x : Cmd) : Bool := x.c.toNat != 0 && decide (x.c.toNat < 4294967296)

/-- The checks of a command that has left its queue; a command that breaks a limit has done its work. -/
def startCmd (cl q : Nat) (x : Cmd) (s : State) : State :=
  let c := s.cluster cl
  match x.cls with
  | 0 =>
    if x.isPort then (if cmdFault s cl x then endRun s cl x.id Cause.strArg 0 else s.modRun cl x.id (fun r => { r with unit := x.gen }))
    else if bulkOk c x then s.modRun cl x.id (fun r => { r with n := x.c.toNat / 128 }) else endRun s cl x.id Cause.strArg 0
  | 1 => s.modRun cl x.id (fun r => { r with waits := (c.running.filter (fun y => y.q == q && x.awaited c y.cmd && !s.completed cl y)).map (fun y => y.cmd.id) })
  | 2 =>
    if x.sub = 0 then (if cpOk x then s.modRun cl x.id (fun r => { r with n := (cpPieces x).length }) else endRun s cl x.id Cause.cpArg 0)
    else if x.sub = 2 then
      if cpSOk c x then (boardEnter s cl x.id x.b.toNat x.c.toNat).modRun cl x.id (fun r => { r with n := x.c.toNat / 128 })
      else endRun s cl x.id Cause.cpArg 0
    else if followOk c x then s else endRun s cl x.id Cause.mxArg 0
  | 3 => mxStart cl x s
  | 4 => coStart cl x s
  | _ => dxStart cl q x s

/-- The head of a queue leaves it and starts. -/
def startHead (s : State) (cl q : Nat) : State :=
  match (s.cluster cl).cmdQueue q with
  | [] => s
  | x :: rest => startCmd cl q x (s.modCluster cl (fun c =>
      let c1 := c.setCmdQueue q rest
      { c1 with running := c1.running ++ [Run.fresh x q], lastq := SMap.set c1.lastq (c1.engineOf q) q }))

/-- A pre-emption has stopped a cluster's engines: from then on nothing starts, but while a firing still runs to its end, what it may wait for
does (R272). DEDUCED (log entry 15). -/
def enginesStopped (s : State) (cl : Nat) : Bool :=
  (s.cluster cl).stopping && (s.cluster cl).ctxs.all (fun f => quietFiring s cl f.1 f.2)

/-- ENGINE_START: the head of queue q starts on its engine. At the queue of an engine-bound port a waiting packet is checked
first. -/
def execEngineStart (cl q : Nat) (s : State) : Host.Outcome State Fault Refusal :=
  let c := s.cluster cl
  match (if 16 ≤ q then portTake cl (q - 16) s else none) with
  | some s1 => .next s1
  | none =>
    if c.owner.isSome && !enginesStopped s cl && (s.abortingAt cl).isNone && ready s cl q && turnOf s cl q then .next (startHead s cl q) else .next s

/-! ## One unit of work -/

/-- A running command of an engine moves one unit: a beat, a line, a row. Port streams move with their generators. DEDUCED (log entry 36). -/
def engineUnit (s0 : State) (cl id u : Nat) : State :=
  let s := { s0 with asked := none }
  match (s.cluster cl).run id with
  | none => s
  | some r =>
    if r.done || s.rides cl (4 + id) then s
    else match r.cmd.cls with
      | 0 => if r.cmd.isPort then s else bulkUnit cl r u s
      | 1 => barrierUnit cl r s
      | 2 => copyStep cl r u s
      | 3 => mxStep cl r s
      | 4 => coStep cl r u s
      | _ => dxStep cl r u s

end Sys2Proof.Machine
end

