-- ==== Sys2Proof/Machine/Loader.lean ====
section
/-! DEFINITION. The loader: the launch header and sections of an object (R255, R256, R313), the checks of LOAD (R56, R111, R260,
R333), placement (R257, R270), relocation, and the streams it rewrites and commits (R90, R172). -/

namespace Sys2Proof.Machine

/-! ## The launch header (Table 18.1) -/

/-- Dword k of the header. -/
def XObject.hw (o : XObject) (k : Nat) : Nat := (o.header.getD k 0#64).toNat
def XObject.objid (o : XObject) : Nat := bitsAt (o.hw 0) 32 32
def XObject.cw (o : XObject) : Bool := bitAt (o.hw 0) 30
def XObject.budget (o : XObject) : Nat := bitsAt (o.hw 0) 6 24
def XObject.cls (o : XObject) : Nat := bitsAt (o.hw 0) 4 2
def XObject.ver (o : XObject) : Nat := bitsAt (o.hw 0) 0 4
def XObject.spillUnits (o : XObject) : Nat := bitsAt (o.hw 2) 48 16
def XObject.widths (o : XObject) : List Nat := (List.range 6).map (fun k => bitsAt (o.hw 2) (7 * k) 7)
def XObject.svn (o : XObject) : Nat := bitsAt (o.hw 3) 32 32
def XObject.ntens (o : XObject) : Nat := bitsAt (o.hw 3) 16 16
def XObject.nlease (o : XObject) : Nat := bitsAt (o.hw 3) 0 16
def XObject.csize (o : XObject) : Nat := o.hw 6

/-- Bytes of the spill region: 0 stands for 64 units. -/
def XObject.spill (o : XObject) : Nat := 512 * (if o.spillUnits = 0 then 64 else o.spillUnits)

/-- A header that breaks a limit of Table 18.1. DEDUCED (log entry 31). -/
def XObject.headerBad (o : XObject) : Bool :=
  o.ver != 1 || decide (256 < o.spillUnits) || decide (64 < o.widths.foldl (· + ·) 0) || decide (4096 < o.ntens)
    || decide ((if o.cw then 63 else 64) < o.nlease) || o.csize % 4 != 0 || decide (16777216 < o.csize)

/-- The code word at a byte offset begins an L-form. -/
def XObject.lform (o : XObject) (off : Nat) : Bool :=
  decide (off + 8 ≤ 4 * o.code.length) && bitsAt ((o.code.getD (off / 4) 0#32).toNat) 26 6 == 0x3F

/-- A relocation's code offset (R255). -/
def relocOff (r : Lane) : Nat := r.toNat / 4 * 4

/-- The sections agree with one another and hold no nonzero reserved bit (R255, R259, R313). DEDUCED (log entry 31). -/
def XObject.formatBad (o : XObject) : Bool :=
  o.header.length != 8 || bitAt (o.hw 0) 31 || bitsAt (o.hw 2) 42 6 != 0 || o.hw 7 != 0
    || o.leases.length != o.nlease || o.tensors.length != o.ntens || o.code.length != o.csize / 4
    || o.tensors.any (fun t => decide (4096 ≤ t.1) || t.2.length != 8)
    || o.macros.any (fun m => m.cols == 0 || m.rows == 0)
    || o.leases.any (fun l => l.window != 0 && (l.window % 65536 != 0 || decide (l.window < 131072)))
    || o.relocs.any (fun r => bitAt r.toNat 1 || !o.lform (relocOff r))
    || o.succs.any (fun r => (r.drop 1).any (fun x => x != 0xFFFFFFFF && decide (o.csize ≤ x)))
    || o.data.any (fun d => decide (1073741824 < d.align))

/-- Where the loader maps the data: below 2^43, at a multiple of 128 and of every section's alignment, so that a label's offset in the data
keeps its place (R255). DEDUCED (log entry 13). -/
def XObject.dataBase (o : XObject) : Nat :=
  let m := o.data.foldl (fun n d => Nat.lcm n (Nat.max 1 d.align)) 128
  o.dataVA % 8796093022208 / m * m
/-- Bytes of the data from its base on: every section at a multiple of its alignment and of 128. -/
def XObject.dataSize (o : XObject) : Nat :=
  o.data.foldl (fun n d => ceilDiv n (Nat.max 128 d.align) * Nat.max 128 d.align + d.bytes.length) 0

/-- Code pages at a place stay clear of the data, below 2^43. -/
def XObject.codeFits (o : XObject) (base : Nat) : Bool :=
  (decide (base + ceilDiv o.csize 4096 * 4096 ≤ o.dataBase) || decide (o.dataBase + o.dataSize ≤ base)) && decide (base < 8796093022208)

/-- The code base: below 2^43, at a multiple of 64 KiB, and clear of the data (R255): the place that the image names, or behind the data where
that meets them, or at 0. DEDUCED (log entry 13). -/
def XObject.codeBase (o : XObject) : Nat :=
  let c := o.codeVA % 8796093022208 / 65536 * 65536
  ([c, ceilDiv (o.dataBase + o.dataSize) 65536 * 65536, 0].find? o.codeFits).getD c

/-- Every byte of the object before its signature section, the sections in their sequence (R255). The layout of the declarations, of the
macro table and of the data sections is the model's. DESIGN CHOICE (log entry 7). -/
def XObject.bytes (o : XObject) : List Byte :=
  let q := fun (n : Nat) => bytesOfNat 8 n
  o.header.flatMap (fun w => q w.toNat)
    ++ o.leases.flatMap (fun l => q l.base ++ q l.size ++ q l.window)
    ++ o.tensors.flatMap (fun t => q t.1 ++ t.2.flatMap (fun w => q w.toNat))
    ++ q o.macros.length ++ o.macros.flatMap (fun m => q m.cols ++ q m.rows ++ q m.streams.length
        ++ m.streams.flatMap (fun ws => q ws.length ++ ws.flatMap (fun w => bytesOfNat 4 w.toNat)))
    ++ o.code.flatMap (fun w => bytesOfNat 4 w.toNat)
    ++ q o.relocs.length ++ o.relocs.flatMap (fun w => bytesOfNat 4 w.toNat)
    ++ q o.succs.length ++ o.succs.flatMap (fun r => q (r.headD 0) ++ (r.drop 1).flatMap (fun x => bytesOfNat 4 x))
    ++ q o.data.length ++ o.data.flatMap (fun d => q d.align ++ q d.bytes.length ++ d.bytes)

/-! ## The configuration checks of LOAD (R333) -/

/-- A cluster that holds one stream over Reset values. -/
def streamCluster (fs : List FieldWrite) : Cluster := { Cluster.reset with cfg := overlay [] fs }

/-- A stream on its own: steps 1 to 3 of R63, and the descriptors of its connected ports. -/
def loadStream (ws : List Lane) : Except Cause (Nat × Cluster) :=
  match parseStream ws with
  | .error f => .error f
  | .ok (h, fs) =>
    let c := streamCluster fs
    match elementsFault c fs with
    | some f => .error f
    | none => if (connectedDescs c).any (fun v => (orderOf v).isNone) then .error Cause.ordDesc else .ok (h.index, c)

/-- The streams of a macro, by cluster index. -/
def loadMacro (m : Macro) : Except Cause (SMap Cluster) :=
  m.streams.foldl (fun r ws => match r with
    | .error f => .error f
    | .ok l => match loadStream ws with
      | .error f => .error f
      | .ok (i, c) =>
        if m.cols * m.rows ≤ i ∨ (SMap.find l i).isSome then .error Cause.loadFormat else .ok (SMap.set l i c)) (.ok [])

/-! ### The balance check (R56, R111) -/

/-- A node of the actor graph with its beats per firing at a port: elements and actor slots of static rate. -/
def rateAt (c : Cluster) (cl key : Nat) : Option (Nat × Nat) :=
  let el := key / 16
  let p := key % 16
  if el < 0x10 then
    let r := if p < 4 then bitsAt (c.fieldN el 1) (4 * p) 4 else bitsAt (c.fieldN el 2) (4 * (p - 4)) 4
    if r = 0 ∨ [0xE0, 0xE1, 0xE9].contains (c.ceFlow el) then none else some (1024 * cl + el, r)
  else if el = 0x20 then
    ((List.range 16).find? (fun m => decide (0 < c.slotRate m p))).map (fun m => (1024 * cl + 64 + m, c.slotRate m p))
  else none

/-- Firing counts of the nodes of one component. -/
abbrev Comp := List (Nat × Nat)

def Comp.count (k : Comp) (n : Nat) : Option Nat := (k.find? (fun x => x.1 == n)).map (·.2)
def Comp.scale (k : Comp) (m : Nat) : Comp := k.map (fun x => (x.1, x.2 * m))

/-- Joins a channel's two nodes under rp·q_p = rc·q_c; none when their counts cannot meet. -/
def joinRates (cs : List Comp) (p rp c rc : Nat) : Option (List Comp) :=
  let cp := (cs.find? (fun k => (k.count p).isSome)).getD [(p, 1)]
  let cc := (cs.find? (fun k => (k.count c).isSome)).getD [(c, 1)]
  let rest := cs.filter (fun k => (k.count p).isNone && (k.count c).isNone)
  match cp.count p, cp.count c with
  | some a, some b => if rp * a = rc * b then some (cp :: rest) else none
  | some a, none =>
    let b := (cc.count c).getD 1
    let g := Nat.gcd (rp * a) (rc * b)
    some ((cp.scale (rc * b / g) ++ cc.scale (rp * a / g)) :: rest)
  | none, _ => none

/-- The block geometry of a `dly.blk` (R111), and of the quantiser of an element. -/
def dlyGc (c : Cluster) (n : Nat) : Option Nat := if c.ceFlow n = 0xCD then some (bitsAt (c.spar n 6) 0 2) else none
def quantGc (c : Cluster) (n : Nat) : Option Nat :=
  if c.ceFlow n = 0xCF ∨ c.ceFlow n = 0xD1 then some (bitsAt (c.spar n 6) 0 2) else none

/-- The elements whose heads the channels of `js` from some elements reach, and on through elements that neither delay blocks nor
quantise: cluster and element. -/
def reach (s : State) (js : List Joint) : Nat → List (Nat × Nat) → List (Nat × Nat)
  | 0, seen => seen
  | n + 1, seen =>
    let next := js.filterMap (fun j =>
      let from_ := (j.prodCl, j.prodPort / 16)
      if j.key / 16 < 16 ∧ seen.contains from_ ∧ (dlyGc (s.cluster from_.1) from_.2).isNone ∧ (quantGc (s.cluster from_.1) from_.2).isNone
        ∧ !seen.contains (j.cl, j.key / 16) then some (j.cl, j.key / 16) else none)
    if next.isEmpty then seen else reach s js n (seen ++ next.eraseDups)

/-- A `dly.blk` whose output feeds a quantiser of another geometry, directly or through channels. DEDUCED (log entry 31). -/
def blockMismatch (s : State) (js : List Joint) (j : Joint) : Bool :=
  let p := s.cluster j.prodCl
  let n := j.prodPort / 16
  match (if n < 16 ∧ j.key / 16 < 16 ∧ p.routeOf n (j.prodPort % 16 - 4) = some 6 then dlyGc p n else none) with
  | none => false
  | some a => (reach s js 4096 [(j.cl, j.key / 16)]).any (fun e => (quantGc (s.cluster e.1) e.2).any (fun b => a != b))

/-- ORD.RATE over the channels of one macro, its clusters standing at their indices. DEDUCED (log entry 31). -/
def macroUnbalanced (cs : SMap Cluster) : Bool :=
  let s := { State.reset with clusters := cs }
  let js := cs.flatMap (fun k => joints s k.1)
  js.any (blockMismatch s js) ||
  (js.foldl (fun r j => match r with
    | none => none
    | some l => match rateAt (s.cluster j.prodCl) j.prodCl j.prodPort, rateAt (s.cluster j.cl) j.cl j.key with
      | some (p, rp), some (c, rc) => joinRates l p rp c rc
      | _, _ => some l) (some ([] : List Comp))).isNone

/-- Step 4 of R260. -/
def configFault (ms : List Macro) : Option Cause :=
  match ms.foldl (fun r m => match r with
      | .error f => .error f
      | .ok l => match loadMacro m with
        | .error f => .error f
        | .ok cs => .ok (l ++ [cs])) (Except.ok ([] : List (SMap Cluster))) with
  | .error f => some f
  | .ok l => if l.any macroUnbalanced then some Cause.ordRate else none

/-- The checks of LOAD, in their sequence (R260). DESIGN CHOICE (log entry 8). DEDUCED (log entry 31). -/
def loadFault (fw : Firmware) (o : XObject) : Option Cause :=
  if o.formatBad then some Cause.loadFormat
  else if o.headerBad then some Cause.loadHdr
  else if !Config.signatureValid o.bytes o.signature then some Cause.secSig
  else if o.svn < fw.fuse then some Cause.secVersion
  else configFault o.macros

/-! ## Placement (R257) -/

/-- Column and row of a cluster in the canonical fabric, and back. -/
def gridCol (cl : Nat) : Nat := 8 * (cl / 64 % 2) + cl % 8
def gridRow (cl : Nat) : Nat := 8 * (cl / 128) + cl % 64 / 8
def clusterAt (col row : Nat) : Nat := 64 * (col / 8 + 2 * (row / 8)) + 8 * (row % 8) + col % 8

/-- The clusters of a macro at an origin, row-major. -/
def Macro.area (m : Macro) (o : Nat × Nat) : List Nat :=
  (List.range (m.cols * m.rows)).map (fun i => clusterAt (o.1 + i % m.cols) (o.2 + i / m.cols))

/-- The origin of a macro: the free one of the smallest package index, within one die. -/
def placeMacro (m : Macro) (taken : Nat → Bool) : Option (Nat × Nat) :=
  ((List.range Config.nClusters).find? (fun k =>
    decide (k % 8 + m.cols ≤ 8) && decide (k % 64 / 8 + m.rows ≤ 8) && !(m.area (gridCol k, gridRow k)).any taken)).map
    (fun k => (gridCol k, gridRow k))

/-- The macros of an object in sequence, all or none: their origins. -/
def placeAll : List Macro → (Nat → Bool) → Option (List (Nat × Nat))
  | [], _ => some []
  | m :: ms, taken => match placeMacro m taken with
    | none => none
    | some o =>
      let area := m.area o
      (placeAll ms (fun k => taken k || area.contains k)).map (fun os => o :: os)

/-- Every cluster of a placement. -/
def placedClusters (ms : List Macro) (os : List (Nat × Nat)) : List Nat := (ms.zip os).flatMap (fun x => x.1.area x.2)

/-! ## The work identifier (R270) -/

/-- The die of a placed macro. -/
def originDie (o : Nat × Nat) : Nat := clusterAt o.1 o.2 / 64

/-- F4: the index of a die among those the task occupies. -/
def dieIndex (os : List (Nat × Nat)) (d : Nat) : Nat := ((List.range d).filter (fun k => os.any (fun o => originDie o == k))).length

/-- F3: the index of the k-th macro among the task's macros on its die. -/
def macroIndex (os : List (Nat × Nat)) (k : Nat) : Nat :=
  ((os.take k).filter (fun o => originDie o == originDie (os.getD k (0, 0)))).length

/-- The actor slots of an object's streams: one past the highest valid one. -/
def XObject.slots (o : XObject) : Nat :=
  o.macros.foldl (fun n m => m.streams.foldl (fun n ws => match parseStream ws with
    | .ok (_, fs) => (List.range 16).foldl (fun n k => if (streamCluster fs).slotValid k then Nat.max n (k + 1) else n) n
    | .error _ => n) n) 0

/-- A level of a present field has more members than the field can number. -/
def widBad (o : XObject) (os : List (Nat × Nat)) : Bool :=
  let w := fun k => o.widths.getD k 0
  let many := fun (k n : Nat) => decide (0 < w k) && decide (2 ^ w k < n)
  let dies := (List.range 4).map (fun d => (os.filter (fun p => originDie p == d)).length)
  many 1 o.slots || many 2 (o.macros.foldl (fun n m => Nat.max n (m.cols * m.rows)) 0) || many 3 (dies.foldl Nat.max 0)
    || many 4 (dies.filter (fun n => n != 0)).length

/-! ## Relocation (R255, R313) -/

/-- A 44-bit immediate of an L-form grows by an address. -/
def patchAt (code : List Lane) (i add : Nat) : List Lane :=
  let w := (code.getD i 0#32).toNat
  let v := (code.getD (i + 1) 0#32).toNat
  let n := (w % 4096 * 4294967296 + v + add) % 17592186044416
  (code.set i (BitVec.ofNat 32 (w / 4096 * 4096 + n / 4294967296))).set (i + 1) (BitVec.ofNat 32 n)

/-- The code with its labels at the addresses chosen for data (K = 0) and code (K = 1). DEDUCED (log entry 13). -/
def XObject.patched (o : XObject) : List Lane :=
  o.relocs.foldl (fun c r => patchAt c (relocOff r / 4) (if bitAt r.toNat 0 then o.codeBase else o.dataBase)) o.code

def XObject.codeBytes (o : XObject) : List Byte := o.patched.flatMap (fun w => bytesOfNat 4 w.toNat)

/-- The data sections with their virtual addresses: each at a multiple of its alignment and of 128. DEDUCED (log entry 13). -/
def XObject.dataAt (o : XObject) : List (Nat × List Byte) :=
  (o.data.foldl (fun (a : Nat × List (Nat × List Byte)) d =>
    let m := Nat.max 128 d.align
    let va := ceilDiv a.1 m * m
    (va + d.bytes.length, a.2 ++ [(va, d.bytes)])) (o.dataBase, [])).2

/-! ## Walks of the firmware (R243, R250) -/

/-- The leaves of [va, stop), from the lowest: the first fault, or the leaves. -/
def walkRange (s : State) (root stop : Nat) : Nat → Nat → Except XFault (List (Leaf × Nat))
  | 0, _ => .ok []
  | n + 1, va =>
    if stop ≤ va then .ok []
    else match walkVa s root va with
    | .error f => .error f
    | .ok x => match walkRange s root stop n (x.1.va + x.1.size) with
      | .error f => .error f
      | .ok l => .ok (x :: l)

/-- The leaves of n bytes from va on. -/
def leavesOf (s : State) (root va n : Nat) : Except XFault (List (Leaf × Nat)) := walkRange s root (va + n) (n / 4096 + 2) va

/-- The firmware writes bytes at a virtual address, page by page, whatever W says. -/
def fwWrite (s : State) (root va : Nat) (bytes : List Byte) : Except XFault State :=
  (pieces va bytes.length).foldl (fun r p => match r with
    | .error f => .error f
    | .ok s => match walkVa s root p.1 with
      | .error f => .error f
      | .ok (_, pa) => .ok (dropLines { s with mem := s.mem.writeBytes pa ((bytes.drop (p.1 - va)).take p.2) } pa p.2)) (.ok s)

/-- The host may hold a line that n bytes from a virtual address on meet (R317). -/
def rangeHeld (s : State) (root va n : Nat) : Bool :=
  (pieces va n).any (fun p => match walkVa s root p.1 with
    | .ok (_, pa) => s.hostHolds pa p.2
    | .error _ => false)

/-- The W bit of a page's leaf entry becomes b, in memory. -/
def setWritable (s : State) (root va : Nat) (b : Bool) : Except XFault State :=
  match walkVa s root va with
  | .error f => .error f
  | .ok (lf, _) =>
    let pa := lf.entry va
    let v := s.mem.read 8 pa
    let v1 := if bitAt v 2 = b then v else if b then v + 4 else v - 4
    .ok (dropLines { s with mem := s.mem.write 8 pa v1 } pa 8)

/-- The pages of the code area are writable with CW = 1 and not with CW = 0; the walk caches lose what mapped them (R255).
DEDUCED (log entry 13). -/
def mapCode (s : State) (root : Nat) (o : XObject) : Except XFault State :=
  match (List.range (ceilDiv o.csize 4096)).foldl (fun r k => match r with
      | .error f => .error f
      | .ok s => setWritable s root (o.codeBase + 4096 * k) o.cw) (Except.ok s) with
  | .error f => .error f
  | .ok s1 => .ok (dropWalks s1 root o.codeBase (o.codeBase + o.csize))

/-- The host may hold a line of the leaf entries that map the code. -/
def entriesHeld (s : State) (root : Nat) (o : XObject) : Bool :=
  (List.range (ceilDiv o.csize 4096)).any (fun k => match walkVa s root (o.codeBase + 4096 * k) with
    | .ok (lf, _) => s.hostHolds (lf.entry (o.codeBase + 4096 * k)) 8
    | .error _ => false)

/-- The host may hold a line that the loader writes: it waits (R317). -/
def installHeld (s : State) (root : Nat) (o : XObject) : Bool :=
  o.dataAt.any (fun d => rangeHeld s root d.1 d.2.length) || rangeHeld s root o.codeBase o.codeBytes.length || entriesHeld s root o

/-- An object's data and code are put where the loader maps them (DEDUCED, log entry 13). -/
def install (s : State) (root : Nat) (o : XObject) : Except XFault State :=
  match o.dataAt.foldl (fun r d => match r with
      | .error f => .error f
      | .ok s => fwWrite s root d.1 d.2) (Except.ok s) with
  | .error f => .error f
  | .ok s1 => match fwWrite s1 root o.codeBase o.codeBytes with
    | .error f => .error f
    | .ok s2 => mapCode s2 root o

/-! ## Streams at dispatch (R90, R170, R172, R257) -/

/-- The edge ports whose PEER the loader rewrites: every one that leads to a cluster. An engine-bound port's PEER is zero and stays so
(R170). -/
def peerWrites (c : Cluster) (m : Macro) (o : Nat × Nat) : List FieldWrite :=
  (List.range 24).filterMap (fun e =>
    if c.epEng e then none
    else
      let (p, q) := c.epPeer e
      some (epEl e, 1, clusterAt (o.1 + p % m.cols) (o.2 + p / m.cols) + 256 * q))

/-- A stream with its placed origin, column and row, in the $FF01 word. -/
def placedStream (o : Nat × Nat) (ws : List Lane) : List Lane := ws.set 1 (BitVec.ofNat 32 (0xFF010000 + 256 * o.2 + o.1))

/-! ### Elastic paths (R296) -/

/-- The clusters of a macro at their indices, as its streams configure them. -/
def Macro.clusters (m : Macro) : SMap Cluster :=
  m.streams.foldl (fun l ws => match parseStream ws with
    | .ok (h, fs) => SMap.set l h.index (streamCluster fs)
    | .error _ => l) []

/-- The compute elements that a step function leads to, from some, and on from those that `stop` does not name. -/
def spread (step : Nat × Nat → List (Nat × Nat)) (stop : Nat × Nat → Bool) : Nat → List (Nat × Nat) → List (Nat × Nat)
  | 0, seen => seen
  | n + 1, seen =>
    let next := (((seen.filter (fun e => !stop e)).flatMap step).filter (fun e => !seen.contains e)).eraseDups
    if next.isEmpty then seen else spread step stop n (seen ++ next)

/-- The channels from a PARK node's outputs to the merges they reach: every one on a path through compute elements that begins at such a
node and ends at the first merge. DEDUCED (log entry 46). -/
def elasticJoints (s : State) (js : List Joint) : List Joint :=
  let ends := js.filter (fun j => decide (j.prodPort / 16 < 16) && decide (j.key / 16 < 16))
  let prod := fun (j : Joint) => (j.prodCl, j.prodPort / 16)
  let cons := fun (j : Joint) => (j.cl, j.key / 16)
  let merge := fun (e : Nat × Nat) => (s.cluster e.1).ceFlow e.2 == 0xE1
  let park := fun (e : Nat × Nat) => (s.cluster e.1).cePark e.2
  let from_ := spread (fun e => (ends.filter (fun j => prod j == e)).map cons) merge ends.length ((ends.map prod).filter park).eraseDups
  let to_ := spread (fun e => (ends.filter (fun j => cons j == e && !merge (prod j))).map prod) (fun _ => false) ends.length
    ((ends.map cons).filter merge).eraseDups
  ends.filter (fun j => from_.contains (prod j) && !merge (prod j) && to_.contains (cons j))

/-- RINGSZ for 1,024 rows of t beats. -/
def ringFor (t : Nat) : Nat := ((List.range 17).find? (fun k => decide (10 ≤ k) && decide (1024 * t ≤ 2 ^ k))).getD 16

/-- The writes by which the loader marks those channels of a macro elastic (R171) in the cluster of an index, with rings of at least 1,024
rows. A ring that the stream makes larger stands. DEDUCED (log entry 46). -/
def parkWrites (m : Macro) (i : Nat) : List FieldWrite :=
  let cs := m.clusters
  let s := { State.reset with clusters := cs }
  (elasticJoints s (cs.flatMap (fun k => joints s k.1))).flatMap (fun j =>
    if j.cl ≠ i then []
    else
      let c := s.cluster i
      let t := match joinChan s j with
        | .ok ch => ch.op.t
        | .error _ => 1
      let v := osel c j.box (2 * j.lport)
      [(0x80 + j.box, 2 * j.lport, if oselEl v then v else v + 32),
       (0x80 + j.box, 0xE, Nat.max (bitsAt (c.fieldN (0x80 + j.box) 0xE) 0 5) (ringFor t))])

/-- The field writes of the stream of cluster index i as the loader commits them at an origin. -/
def placedWrites (x : XObject) (m : Macro) (o : Nat × Nat) (i : Nat) (fs : List FieldWrite) : List FieldWrite :=
  fs ++ peerWrites (streamCluster fs) m o ++ parkWrites m i
    ++ [(0x20, 1, x.budget % 65536), (0x20, 2, x.budget / 65536), (0x23, 0, 0)]

end Sys2Proof.Machine
end

