-- ==== Sys2Proof/Machine/Launch.lean ====
section
/-! DEFINITION. Launches made ready (R248, R250, R268, R290) and the pager (R251 to R253): LAUNCH_READY, WINDOW_MOVE. -/

namespace Sys2Proof.Machine

/-! ## Tensor checks (R247, R248, R290) -/

/-- Reserved bits, NDIM and the tile extents of an entry. -/
def Tensor.shapeBad (x : Tensor) : Bool :=
  let l := x.layout
  let area := l.te.foldl (· * ·) 1
  bitsAt (x.dw 0) 58 6 != 0 || x.ndim == 0 || decide (6 < x.ndim)
    || (List.range 6).any (fun d => decide (x.ndim ≤ d) && (x.tsh d != 0 || x.ext d != 1))
    || (if isPixel x.ty then area != 32768 else area * l.w != 524288)
    || decide (2 ^ x.tsh 0 * l.w < 1024)

/-- Fields that the entry's flags leave at zero, and flags that exclude one another. -/
def Tensor.flagsBad (x : Tensor) : Bool :=
  (x.diff && x.expert) || (x.diff && decide (4 < x.ty)) || (!x.diff && !x.expert && x.dw 5 != 0)
    || (x.ty != 5 && x.ty != 3 && (x.dw 6 != 0 || x.dw 7 != 0)) || (x.ty == 3 && x.dw 6 == 0 && x.dw 7 != 0)

/-- Bytes of a slice of an expert tensor (R290). -/
def Tensor.sliceSize (x : Tensor) : Nat :=
  let tiles := (x.layout.grid.eraseIdx 1).foldl (· * ·) 1 * 65536
  if x.ty = 5 then tiles + 128 * (ceilDiv (ceilDiv (x.ext 0) 8) 128 * 128) + 128 else tiles

/-- The rules of an expert tensor. -/
def expertBad (s : State) (x : Tensor) : Bool :=
  match s.ert (x.dw 5) with
  | none => true
  | some e => decide (x.ndim < 2) || x.tsh 1 != 7 || e.nsl != ceilDiv (x.ext 1) 128 || decide (e.slb * 65536 < x.sliceSize)
      || x.twinned || x.dw 4 != 0 || x.dw 6 != 0 || x.dw 7 != 0

/-- The bytes of a tensor's or an adjoint's storage. -/
def storageBytes (l : Layout) : Nat := l.tiles * 65536

/-- n bytes at va lie in one lease range, windowed or not as `win` says. -/
def Task.inRange (t : Task) (win : Bool) (va n : Nat) : Bool :=
  t.leases.any (fun l => (l.window != 0) == win && decide (l.base ≤ va) && decide (va + n ≤ l.base + l.size))

/-- The frames of storage at a virtual address, one for each tile; none where a tile has no single frame. -/
def framesOf (s : State) (root va n : Nat) : List (Option (Leaf × Nat)) :=
  (List.range n).map (fun k => match walkVa s root (va + 65536 * k) with
    | .ok (lf, pa) => if 65536 ≤ lf.size then some (lf, pa) else none
    | .error _ => none)

/-- Storage with a frame in the expert pool, whose frames lie in no lease (R290). -/
def inPoolFrames (s : State) (root va n : Nat) : Bool :=
  (framesOf s root va n).any (fun f => match f with
    | some (_, pa) => s.inPool pa 65536
    | none => false)

/-- Storage that breaks R248: alignment, its lease, its frames, MS on its leaves. A windowed tensor's lies in a windowed range, any other's
does not; the adjoint storage of a windowed tensor may lie in either (`adj`). DEDUCED (log entry 17). -/
def storageBad (s : State) (t : Task) (x : Tensor) (va : Nat) (l : Layout) (adj : Bool) : Bool :=
  let win := x.windowed && t.inRange true va (storageBytes l)
  let flat := (adj || !x.windowed) && t.inRange false va (storageBytes l)
  va % 65536 != 0 || !(win || flat)
    || (!win && ((framesOf s t.root va l.tiles).any Option.isNone || inPoolFrames s t.root va l.tiles))
    || (match leavesOf s t.root va (storageBytes l) with
        | .ok lfs => lfs.any (fun f => f.1.ms != x.ms)
        | .error _ => true)

/-- Rows of the scale arrays: every element position of dimensions 1 and up. -/
def Tensor.rows (x : Tensor) : Nat := (x.layout.ext.drop 1).foldl (· * ·) 1

/-- A scale array that lies outside the lease or off a 128-byte boundary. -/
def scalesBad (t : Task) (x : Tensor) : Bool :=
  let at_ := fun (va n : Nat) => va % 128 != 0 || !t.inRange false va n
  (x.ty == 5 || (x.ty == 3 && x.dw 6 != 0)) &&
    (at_ (x.dw 6) (x.rows * (ceilDiv (ceilDiv (x.ext 0) 8) 128 * 128)) || at_ (x.dw 7) (2 * ceilDiv x.rows 64))

/-- Every frame of a tensor lies in a stack. Those that the pager gives a windowed tensor, or the windowed twin of one, do (`freeFrame`). -/
def inStack (s : State) (t : Task) (x : Tensor) (stk : Nat) : Bool :=
  x.windowed || (framesOf s t.root x.store x.layout.tiles).all (fun f => match f with
    | some (_, pa) => regionOf pa == 0 && stackOf pa == stk
    | none => false)

/-- The rules of a tensor with a twin. -/
def twinBad (s : State) (t : Task) (x : Tensor) : Bool :=
  let y := t.tensor x.twin
  !y.valid || y.ty != x.ty || y.ndim != x.ndim || y.ext 0 != x.ext 1 || y.ext 1 != x.ext 0
    || [2, 3, 4, 5].any (fun d => y.ext d != x.ext d) || y.twinned || !inStack s t x x.stk || !inStack s t y x.stk

/-- A declared tensor breaks a rule of R248 or R290. -/
def tensorBad (s : State) (t : Task) (x : Tensor) : Bool :=
  x.shapeBad || x.flagsBad ||
    (if x.expert then expertBad s x
     else storageBad s t x x.store x.layout false || (x.diff && storageBad s t x x.adjStore x.adjLayout true) || scalesBad t x
       || (x.twinned && twinBad s t x))

/-! ## Tile tables (R249, R250) -/

/-- The tiles of storage, resident, at the keys of a table. -/
def addTiles (s : State) (root id : Nat) (adj : Bool) (x : Tensor) (va n : Nat) (m : SMap Tile) : SMap Tile :=
  ((List.range n).zip (framesOf s root va n)).foldl (fun m k => match k.2 with
    | some (_, pa) => SMap.set m (tileKey id adj k.1) { r := true, ms := x.ms, frame := pa / 65536 }
    | none => m) m

/-- The tile tables of every tensor: those of a windowed one fill as its window moves. -/
def buildTiles (s : State) (t : Task) : SMap Tile :=
  t.tensors.foldl (fun m e =>
    let x := e.2
    if !x.valid || x.expert then m
    else
      let m1 := if t.tableWindowed e.1 then m else addTiles s t.root e.1 false x x.store x.layout.tiles m
      if x.diff ∧ !t.tableWindowed (e.1 + 4096) then addTiles s t.root e.1 true x x.adjStore x.adjLayout.tiles m1 else m1) []

/-- Tensors with a storage leaf that has W = 0 (R249). -/
def readOnlyIds (s : State) (t : Task) : List Nat :=
  (t.tensors.filter (fun e => e.2.valid && !e.2.expert && (match leavesOf s t.root e.2.store (storageBytes e.2.layout) with
    | .ok lfs => lfs.any (fun f => !f.1.w)
    | .error _ => false))).map (·.1)

/-! ## Making a launch ready (R268) -/

/-- Level and entry PA of a translation fault in one number: page tables lie below 2^40. -/
def XFault.where_ (f : XFault) : Nat := f.level * 1099511627776 + f.epa

/-- Bytes at the top of each stack that the firmware reserves (R242; DESIGN CHOICE, log entry 26). -/
def reservedBytes : Nat := 17179869184

/-- n bytes at pa meet a firmware reservation. -/
def reservedPa (pa n : Nat) : Bool :=
  regionOf pa == 0 && (List.range 8).any (fun k => meets pa n (Config.stackBytes * (k + 1) - reservedBytes) reservedBytes)

/-- The first fault of the pages of lease ranges: of the walk (R250), or a page in a firmware reservation, which lies in no lease and gives
XLATE.PA at its entry (R242; DESIGN CHOICE, log entry 26). -/
def leasesFault (s : State) (root : Nat) (ls : List Lease) : Option XFault :=
  ls.findSome? (fun l => match leavesOf s root l.base l.size with
    | .error f => some f
    | .ok xs => xs.findSome? (fun x =>
      let va := Nat.max l.base x.1.va
      if reservedPa x.2 (Nat.min (x.1.va + x.1.size) (l.base + l.size) - va) then
        some { cause := Cause.xlatePa, level := x.1.level, epa := x.1.entry va }
      else none))

/-- What the launch semaphore says. -/
inductive SemaState where
  | refuse (c : Cause) (info : Nat)
  | wait (s : State)
  | go (s : State)

/-- The waiter of a launch queue. -/
def queueWaiter (w : Waiter) (q : Nat) : Bool := w.queue == some q

/-- Evaluates the launch semaphore as `sem.wge` does. -/
def launchSema (s : State) (q : Nat) (t : Task) : SemaState :=
  let drop := { s with waiters := s.waiters.filter (fun w => !queueWaiter w q) }
  if t.sema = 0 then .go drop
  else if t.sema % 8 ≠ 0 then .refuse Cause.seqAlign 0
  else match walkVa s t.root t.sema with
  | .error f => .refuse f.cause f.where_
  | .ok (_, pa) =>
    if 2 ≤ regionOf pa then .refuse Cause.syncAddr 0
    else if !t.leased t.sema 8 || s.inPool pa 8 then .refuse Cause.leaseOut 0
    else match s.waiters.find? (fun w => queueWaiter w q) with
    | some w => if w.ok || (w.polling && semMeets s.mem pa t.semt) then .go drop else .wait s
    | none =>
      if semMeets s.mem pa t.semt then .go s
      else
        let w : Waiter := { cl := 0, ctx := 0, pa := pa, target := t.semt, ok := false, polling := !waiterFree s pa, queue := some q }
        .wait { s with waiters := s.waiters ++ [w] }

/-- The pager's work for a launch: every leased byte walked, data and code in place once, tensors checked, tile tables built.
The fault carries its level and entry PA, or the tensor's identifier. -/
def prepare (s : State) (t : Task) (ld : Loaded) : Except (Cause × Nat) (State × Task) :=
  match leasesFault s t.root t.leases with
  | some f => .error (f.cause, f.where_)
  | none =>
    match (if ld.leased then Except.ok s else install s t.root ld.obj) with
    | .error f => .error (f.cause, f.where_)
    | .ok s1 => match t.tensors.find? (fun e => tensorBad s1 t e.2) with
      | some e => .error (Cause.leaseTensor, e.1)
      | none => .ok (s1, { t with tiles := buildTiles s1 t, readOnly := readOnlyIds s1 t })

/-- The head of a launch queue. -/
def State.head (s : State) (q : Nat) : Option Nat := (SMap.get s.fw.queues [] q).head?

/-- A launch leaves its queue. -/
def dequeue (s : State) (q t : Nat) : State :=
  { s with fw := { s.fw with queues := SMap.set s.fw.queues q ((SMap.get s.fw.queues [] q).filter (fun x => x != t)) },
           waiters := s.waiters.filter (fun w => !queueWaiter w q) }

/-- A launch is refused while it is made ready. -/
def refuseLaunch (s : State) (q t : Nat) (c : Cause) (info : Nat) : State :=
  (dequeue s q t).modTask t (fun x => { x with status := .ended, endCause := c, refusal := info })

/-- LAUNCH_READY: the head of a queue is refused, waits for its semaphore, or becomes ready, with its ranges and tensors checked as its data
and code stand in place. They are put there when it starts, so that a launch refused before that has changed nothing (R8). -/
def execLaunchReady (q : Nat) (s : State) : Host.Outcome State Fault Refusal :=
  match s.head q with
  | none => .next s
  | some t => match s.task t with
    | none => .next s
    | some x =>
      if x.ready then .next s
      else match SMap.find s.fw.objects x.handle with
      | none => .next (refuseLaunch s q t Cause.fwCmd 0)
      | some ld => match prepare s x ld with
        | .error (c, info) => .next (refuseLaunch s q t c info)
        | .ok (_, y) =>
          match launchSema s q x with
          | .refuse c info => .next (refuseLaunch s q t c info)
          | .wait s2 => .next s2
          | .go s2 =>
            .next (s2.setTask t { y with ready := true })

/-! ## The pager (R251, R253) -/

/-- Frames of 64 KiB in the reservation of one stack, and the k-th frame over all stacks. -/
def reservedFrames : Nat := reservedBytes / 65536
def reservedFrame (k : Nat) : Nat :=
  (Config.stackBytes * (k / reservedFrames) + (Config.stackBytes - reservedBytes)) / 65536 + k % reservedFrames

/-- Frames that windowed tiles of any task occupy. -/
def usedFrames (s : State) : List Nat :=
  s.fw.tasks.flatMap (fun t => if t.2.status = .ended then [] else t.2.tiles.map (fun e => e.2.frame))

/-- The stack that the frames of a table keep to: that of its tensor, which has a twin, or of the tensor whose twin it is (R248). -/
def Task.stackFor (t : Task) (n : Nat) : Option Nat :=
  let x := t.tableTensor n
  if x.twinned then some x.stk else (t.tensors.find? (fun e => e.2.valid && e.2.twinned && e.2.twin == n % 4096)).map (·.2.stk)

/-- The lowest frame that is free, in the table's stack where it keeps to one, and holds no line that is in error or may be the host's.
DESIGN CHOICE (log entry 26). -/
def freeFrame (s : State) (t : Task) (n : Nat) : Option Nat :=
  let used := usedFrames s
  let bad := s.poison ++ s.ecc ++ s.hostLines
  let start := match t.stackFor n with
    | some k => k * reservedFrames
    | none => 0
  let room := if (t.stackFor n).isSome then reservedFrames else 8 * reservedFrames
  ((List.range (Nat.min room (used.length + bad.length + 1))).map (fun k => reservedFrame (start + k))).find?
    (fun f => !used.contains f && !bad.any (fun l => l / 512 == f))

/-- Tails that the task's ports publish for a tensor: its generators', and its matrix array's row of a tile fetch. -/
def clusterTails (c : Cluster) (id : Nat) (l : Layout) : List Nat :=
  c.ags.filterMap (fun g => g.2.tail.bind (fun x => if x.1 = id then some x.2 else none)) ++
  c.running.filterMap (fun r =>
    if r.cmd.cls = 3 ∧ r.cmd.sub ≤ 7 ∧ !r.done ∧ r.cmd.fetched c ∧ !r.cmd.fromSpad ∧ r.cmd.tensorId = id
    then some (l.tileOf [r.cmd.k0, r.cmd.n0 + r.k, 0, 0, 0, 0]) else none)

/-- Every cluster of a task, saved ones too. -/
def taskClusters (s : State) (t : Nat) : List Cluster :=
  (s.clusters.filter (fun k => k.2.owner == some t)).map (·.2) ++ (s.fw.saved.filter (fun x => x.task == t)).map (·.ctx)

/-- The least tail published for a tensor. -/
def leastTail (s : State) (t id : Nat) (l : Layout) : Option Nat :=
  ((taskClusters s t).flatMap (fun c => clusterTails c id l)).foldl (fun m x => match m with
    | some y => some (Nat.min x y)
    | none => some x) none

/-- The task holds a port that writes a tensor. -/
def writesTensor (s : State) (t id : Nat) : Bool :=
  (taskClusters s t).any (fun c => (List.range 8).any (fun g => c.agEn g && c.agSpace g && c.agTensor g == id && c.agDir g))

/-- Tiles of a table go back to their backing when they leave: where a port of the task writes the tensor, and the adjoint's, which any
access in REV may have changed. DEDUCED (log entry 17). -/
def writesBack (s : State) (t n : Nat) : Bool := decide (4096 ≤ n) || writesTensor s t (n % 4096)

/-- The tag of an adjoint tile goes with it (R311): it is kept when the tile leaves its frame, and stands again with the frame that the
tile enters; a frame of a tile without one has none. DEDUCED (log entry 17). -/
def stowTag (s : State) (tid n tile frame : Nat) : State :=
  if n < 4096 then s
  else
    let key := 4294967296 * n + tile
    let s1 := { s with adjTags := SMap.del s.adjTags frame }
    match SMap.find s.adjTags frame with
    | some g => s1.modTask tid (fun x => { x with tags := SMap.set x.tags key g })
    | none => s1
def layTag (s : State) (tid n tile frame : Nat) : State :=
  if n < 4096 then s
  else
    let key := 4294967296 * n + tile
    match (s.task tid).bind (fun x => SMap.find x.tags key) with
    | some g => { s with adjTags := SMap.set s.adjTags frame g }.modTask tid (fun x => { x with tags := SMap.del x.tags key })
    | none => { s with adjTags := SMap.del s.adjTags frame }

/-- The tags of a task's adjoint frames are clear at its launch (R311). -/
def clearTags (s : State) (x : Task) : State :=
  { s with adjTags := s.adjTags.filter (fun g => !x.tiles.any (fun e => decide (4096 ≤ e.1 / 4294967296) && e.2.frame == g.1)) }

/-- The poison of a page goes with its lines to a copy. DEDUCED (log entry 17). -/
def copyPoison (s : State) (src dst : Nat) : State :=
  { s with poison := s.poison ++ (s.poison.filter (fun l => decide (src / 128 ≤ l) && decide (l < src / 128 + 32))).map (fun l => dst / 128 + (l - src / 128)) }

/-- The uncorrectable error that the pager meets where it moves a tile (R217, R242): in a page walk, or in a line of the frame that it
writes back. -/
def moveFault (s : State) (root va frame : Nat) (fill : Bool) : Option Cause :=
  match (List.range 16).findSome? (fun k => match walkVa s root (va + 4096 * k) with
    | .error f => if Cause.classOf f.cause = 10 then some f.cause else none
    | .ok _ => none) with
  | some c => some c
  | none => if fill then none else s.homeError (frame * 65536) 65536

/-- Copies a tile between its frame and its backing, a page at a time. What is held for cells of the frame is applied first, since all of it
is read (R306). -/
def moveTile (s0 : State) (root va frame : Nat) (fill : Bool) : State :=
  let s := if fill then s0 else flushHeld s0 (frame * 65536) 65536
  (List.range 16).foldl (fun s k => match walkVa s root (va + 4096 * k) with
    | .ok (_, pa) =>
      let f := frame * 65536 + 4096 * k
      if fill then dropLines { copyPoison s pa f with mem := s.mem.copy pa f 4096 } f 4096
      else dropLines { s with mem := s.mem.copy f pa 4096 } pa 4096
    | .error _ => s) s

/-- A tile leaves the window: written back where it may have changed; its table's caches lose the entry. -/
def freeTile (s : State) (tid : Nat) (t : Task) (n tile : Nat) (e : Tile) : State :=
  let s1 := stowTag (if writesBack s tid n then moveTile s t.root (t.tableStore n + 65536 * tile) e.frame false else s) tid n tile e.frame
  dropTiles (s1.modTask tid (fun x => { x with tiles := SMap.del x.tiles (4294967296 * n + tile) })) tid (fun k => k == 4294967296 * n + tile)

/-- A tile enters the window: fetched, its bounced records applied in sequence, and resident. -/
def fillTile (s : State) (tid : Nat) (t : Task) (n tile : Nat) : State :=
  match freeFrame s t n with
  | none => s
  | some f =>
    let s1 := layTag (moveTile s t.root (t.tableStore n + 65536 * tile) f true) tid n tile f
    let mine := fun (b : Bounce) => b.task == tid && b.tensor == n && b.tile == tile
    let s2 := { s1 with mem := (s1.bounce.filter mine).foldl (fun m (b : Bounce) => m.writeBytes (f * 65536 + b.off) b.bytes) s1.mem,
                        bounce := s1.bounce.filter (fun b => !mine b) }
    dropTiles (s2.modTask tid (fun x => { x with
      tiles := SMap.set x.tiles (4294967296 * n + tile) { r := true, ms := (t.tableTensor n).ms, frame := f } })) tid
      (fun k => k == 4294967296 * n + tile)

/-- The host may hold a line of a tile's backing, which the pager is to write: it waits (R317). -/
def backingHeld (s : State) (t : Task) (n tile : Nat) : Bool := rangeHeld s t.root (t.tableStore n + 65536 * tile) 65536

/-- A write on its way to a frame, or one held for it that waits for the host: the pager waits. -/
def frameBusy (s : State) (frame : Nat) : Bool :=
  !s.heldOpen (frame * 65536) 65536 || s.inflight.any (fun r => meets r.pa r.bytes.length (frame * 65536) 65536) || s.nmops.any (fun o => o.ranges.any (fun r => meets r.1 r.2 (frame * 65536) 65536))

/-- Tiles that windows of a task have in frames: table, tile and entry. DEDUCED (log entry 29). -/
def windowTiles (t : Task) : List (Nat × Nat × Tile) :=
  (t.tiles.filter (fun e => t.tableWindowed (e.1 / 4294967296))).map (fun e => (e.1 / 4294967296, e.1 % 4294967296, e.2))

/-- The host may hold a line that the pager writes where a task ends of itself. -/
def windowsHeld (s : State) (tid : Nat) (t : Task) : Bool :=
  (windowTiles t).any (fun e => writesBack s tid e.1 && backingHeld s t e.1 e.2.1)
    || s.bounce.any (fun b => b.task == tid && rangeHeld s t.root (t.tableStore b.tensor + 65536 * b.tile + b.off) b.bytes.length)

/-- A task ends of itself: what its windows hold goes back to its backing, then what was bounced (DEDUCED, log entry 29). -/
def closeWindows (s : State) (tid : Nat) (t : Task) : State :=
  let s1 := (windowTiles t).foldl (fun s e => freeTile s tid t e.1 e.2.1 e.2.2) s
  (s1.bounce.filter (fun b => b.task == tid)).foldl (fun s b =>
    match fwWrite s t.root (t.tableStore b.tensor + 65536 * b.tile + b.off) b.bytes with
    | .ok s2 => s2
    | .error _ => s) s1

/-- The windowed range that a table's storage begins in. -/
def Task.windowOf (t : Task) (n : Nat) : Option Lease :=
  t.leases.find? (fun l => l.window != 0 && decide (l.base ≤ t.tableStore n) && decide (t.tableStore n < l.base + l.size))

/-- Where the window of a table begins when the tensor's least tail is m: the adjoint's with the tile that holds the adjoint of the
primal tile's first element. DEDUCED (log entry 17). -/
def Task.windowStart (t : Task) (n m : Nat) : Nat :=
  if n < 4096 then m else (t.tableLayout n).tileOf ((t.tableTensor n).layout.coords m 0)

/-- A table's window moves to the tiles from m on: those that leave are freed, then those that enter are filled. -/
def slide (s : State) (tid : Nat) (t : Task) (n m : Nat) (l : Lease) : State :=
  let within := fun k => decide (m ≤ k) && decide (k < m + l.window / 65536)
  let out := t.tiles.filter (fun e => e.1 / 4294967296 == n && !within (e.1 % 4294967296))
  let s1 := out.foldl (fun s e => freeTile s tid t n (e.1 % 4294967296) e.2) s
  ((List.range (l.window / 65536)).map (fun k => m + k)).foldl (fun s k =>
    if k < (t.tableLayout n).tiles ∧ ((s.task tid).bind (fun y => SMap.find y.tiles (4294967296 * n + k))).isNone
    then fillTile s tid t n k else s) s1

/-- What keeps a table's window where it is: a write on its way to a tile that leaves, or a line of its backing that the host may hold. -/
def slideBusy (s : State) (tid : Nat) (t : Task) (n m : Nat) (l : Lease) : Bool :=
  t.tiles.any (fun e => e.1 / 4294967296 == n && !(decide (m ≤ e.1 % 4294967296) && decide (e.1 % 4294967296 < m + l.window / 65536))
    && (frameBusy s e.2.frame || (writesBack s tid n && backingHeld s t n (e.1 % 4294967296))))

/-- The error that the pager meets where it writes a tile back (R242). -/
def tileFault (s : State) (tid : Nat) (t : Task) (n tile frame : Nat) : Option Cause :=
  if writesBack s tid n then moveFault s t.root (t.tableStore n + 65536 * tile) frame false else none

/-- The first error that the pager meets where it moves a table's window: in a tile that leaves, or in the walks of one that enters (R242). -/
def slideFault (s : State) (tid : Nat) (t : Task) (n m : Nat) (l : Lease) : Option Cause :=
  let within := fun k => decide (m ≤ k) && decide (k < m + l.window / 65536)
  match t.tiles.findSome? (fun e =>
    if e.1 / 4294967296 = n ∧ !within (e.1 % 4294967296) then tileFault s tid t n (e.1 % 4294967296) e.2.frame else none) with
  | some c => some c
  | none => (List.range (l.window / 65536)).findSome? (fun k =>
      if m + k < (t.tableLayout n).tiles ∧ (SMap.find t.tiles (4294967296 * n + (m + k))).isNone
      then moveFault s t.root (t.tableStore n + 65536 * (m + k)) 0 true else none)

/-- The windowed tables of a tensor, each with its range. -/
def Task.windows (t : Task) (id : Nat) : List (Nat × Lease) :=
  [id, id + 4096].filterMap (fun n => if t.tableWindowed n then (t.windowOf n).map (fun l => (n, l)) else none)

/-- WINDOW_MOVE: the windows of a tensor and of its adjoint follow the least tail that its ports publish (R251). An error that the pager
meets aborts the gang (R242). DEDUCED (log entry 17). -/
def execWindowMove (task tensor : Nat) (s : State) : Host.Outcome State Fault Refusal :=
  match s.task task with
  | none => .next s
  | some t =>
    let x := t.tensor tensor
    let key := 4294967296 * task + tensor
    match (match leastTail s task tensor x.layout with
      | some m => some m
      | none => SMap.find s.windows key) with
    | none => .next s
    | some m =>
      let ws := t.windows tensor
      if !t.live || ws.isEmpty || ws.any (fun w => slideBusy s task t w.1 (t.windowStart w.1 m) w.2) then .next s
      else match ws.findSome? (fun w => slideFault s task t w.1 (t.windowStart w.1 m) w.2) with
      | some c => .next (gangError s (some task) c)
      | none =>
        let s1 := ws.foldl (fun s w => slide s task ((s.task task).getD t) w.1 (t.windowStart w.1 m) w.2) s
        .next { s1 with windows := SMap.set s1.windows key m }

end Sys2Proof.Machine
end

