-- ==== Sys2Proof/Machine/Sched.lean ====
section
/-! DEFINITION. Scheduling (R177, R178, R257, R258, R268 to R273): DISPATCH, PREEMPTION, CLAIM_UNIT, RESUME, TASK_END and
GANG_ANNOUNCE. -/

namespace Sys2Proof.Machine

/-! ## Who holds a cluster -/

/-- A launch whose placement is decided and waits for its victims to leave. -/
def Task.decided (x : Task) : Bool := x.status == .queued && !x.clusters.isEmpty

/-- The task that holds a cluster: of its owner and the launches whose placement has it, the one of the highest class. -/
def holderOf (s : State) (cl : Nat) : Option Task :=
  (((s.fw.tasks.filter (fun t => t.2.decided && t.2.clusters.contains cl)).map (·.2)) ++ (s.taskOf cl).toList).foldl (fun b x => match b with
    | some h => if x.cls < h.cls then some x else some h
    | none => some x) none

/-- Macros of a task's object. -/
def State.macrosOf (s : State) (x : Task) : List Macro := ((SMap.find s.fw.objects x.handle).map (·.obj.macros)).getD []

/-- The placement on an empty package: what a waiting head reserves (R269). -/
def reservedPlacement (s : State) (x : Task) : List Nat :=
  match placeAll (s.macrosOf x) (fun _ => false) with
  | some os => placedClusters (s.macrosOf x) os
  | none => []

/-- The placement of a head: a cluster counts as taken when a task of an equal or higher class holds it. -/
def placementOf (s : State) (x : Task) : Option (List (Nat × Nat)) :=
  placeAll (s.macrosOf x) (fun cl => match holderOf s cl with
    | some h => decide (h.cls ≤ x.cls)
    | none => false)

/-- The ready heads with their queues, in the sequence of R269: the highest class first, then round-robin after the queue last
served. DEDUCED (log entry 34). -/
def readyHeads (s : State) : List (Nat × Nat × Task) :=
  (List.range 4).flatMap (fun k =>
    let start := (SMap.find s.fw.served k).map (fun q => q + 1)
    (List.range 4).filterMap (fun i =>
      let q := 4 * k + ((start.getD 0) + i) % 4
      (s.head q).bind (fun t => (s.task t).bind (fun x => if x.ready then some (q, t, x) else none))))

/-- A ready head that no placement exists for. -/
def waitingHead (s : State) (x : Task) : Bool := !x.decided && (placementOf s x).isNone

/-- Clusters that waiting heads above a class reserve. DEDUCED (log entry 34). -/
def reservedAbove (s : State) (cls : Nat) : List Nat :=
  (readyHeads s).flatMap (fun h => if h.2.2.cls < cls ∧ waitingHead s h.2.2 then reservedPlacement s h.2.2 else [])

/-! ## Pre-emption requested (R269) -/

/-- A pre-emption of a task is requested. -/
def requestYield (s : State) (t : Nat) : State := s.modTask t (fun x => if x.status = .running then { x with yielding := true } else x)

/-- The next victim of a class among the owners of clusters: of those of a lower class, the lowest first, and within a class the most
recently started (R269). -/
def nextVictim (s : State) (above : Nat) (cls : List Nat) : Option (Nat × Task) :=
  ((cls.filterMap (fun cl => (s.cluster cl).owner.bind (fun t => (s.task t).map (fun x => (t, x))))).filter (fun v => decide (above < v.2.cls))).foldl (fun b v => match b with
    | some w => if w.2.cls < v.2.cls ∨ (w.2.cls = v.2.cls ∧ w.2.started < v.2.started) then some v else b
    | none => some v) none

/-- The owners of clusters are pre-empted one after another: while one of them is on its way out, no other is asked. -/
def askVictim (s : State) (above : Nat) (cls : List Nat) : Option State :=
  if cls.any (fun cl => (s.taskOf cl).any (·.yielding)) then none else (nextVictim s above cls).map (fun v => requestYield s v.1)

/-! ## Dispatch (R257, R258, R269, R270) -/

/-- A cluster as a task receives it: victims' units keep their owners (R177). -/
def freshCluster (c : Cluster) (t : Nat) (x : Task) (k : Nat) (i : Nat) : Cluster :=
  { Cluster.reset with owner := some t, widDie := dieIndex x.origins (originDie (x.origins.getD k (0, 0))), widMacro := macroIndex x.origins k,
                       widCluster := i, claims := c.claims, lastIssue := c.lastIssue, spill := x.spill }

/-- The task takes its clusters. -/
def takeClusters (s : State) (t : Nat) (x : Task) (ms : List Macro) : State :=
  ((List.range ms.length).zip (ms.zip x.origins)).foldl (fun s m =>
    let area := m.2.1.area m.2.2
    ((List.range area.length).zip area).foldl (fun s a => s.setCluster a.2 (freshCluster (s.cluster a.2) t x m.1 a.1)) s) s

/-- Commits a placed stream; the first fault stays. -/
def commitStream (x : XObject) (m : Macro) (o : Nat × Nat) (r : Except Cause State) (ws : List Lane) : Except Cause State :=
  match r with
  | .error f => .error f
  | .ok s => match parseStream (placedStream o ws) with
    | .error f => .error f
    | .ok (h, fs) =>
      let cl := (m.area o).getD h.index 0
      match checkFields s cl (placedWrites x m o h.index fs) with
      | .error f => .error f
      | .ok p => .ok (s.setCluster cl { s.cluster cl with pending := some p })

/-- Every placed stream of a gang is committed, or the first fault. -/
def commitAll (s : State) (x : XObject) (os : List (Nat × Nat)) : Except Cause State :=
  (x.macros.zip os).foldl (fun r m => m.1.streams.foldl (commitStream x m.1 m.2) r) (.ok s)

/-- Hits in the relocated-configuration cache on entries below the fuse counter (R258): the cache without them, or none without a hit. -/
def relocStale (fw : Firmware) (objid : Nat) (at_ : Nat → Bool) : Option (List (Nat × Nat × Nat)) :=
  let old := fun (e : Nat × Nat × Nat) => e.1 == objid && at_ e.2.1 && decide (e.2.2 < fw.fuse)
  if fw.reloc.any old then some (fw.reloc.filter (fun e => !old e)) else none

/-- The relocated-configuration cache at a dispatch: a hit on an entry below the fuse counter is refused; the placements are kept. -/
def relocCheck (fw : Firmware) (objid svn : Nat) (os : List (Nat × Nat)) : Except (List (Nat × Nat × Nat)) (List (Nat × Nat × Nat)) :=
  let at_ := fun (k : Nat) => os.any (fun o => clusterAt o.1 o.2 == k)
  match relocStale fw objid at_ with
  | some l => .error l
  | none => .ok (fw.reloc.filter (fun e => !(e.1 == objid && at_ e.2.1)) ++ os.map (fun o => (objid, clusterAt o.1 o.2, svn)))

/-- A loaded object takes another's place. -/
def State.setObject (s : State) (h : Nat) (l : Loaded) : State := { s with fw := { s.fw with objects := SMap.set s.fw.objects h l } }

/-- The data and code of a task that starts are put in place, unless they stand there. -/
def placeObject (s : State) (x : Task) (ld : Loaded) : Except XFault State :=
  if ld.leased then .ok s
  else match install s x.root ld.obj with
    | .error f => .error f
    | .ok s1 => .ok (s1.setObject x.handle { ld with leased := true })

/-- A head whose clusters are free becomes a running task: its streams are committed, its data and code are in place, and the tags of its
adjoint frames cleared (R311), or it ends with the fault and nothing else has changed (R8). -/
def startTask (s : State) (q t : Nat) (x : Task) : State :=
  match SMap.find s.fw.objects x.handle with
  | none => refuseLaunch s q t Cause.fwCmd 0
  | some ld =>
    let s1 := (dequeue s q t).setTask t { x with status := .running, started := s.now }
    let s2 := { s1 with fw := { s1.fw with served := SMap.set s1.fw.served x.cls q } }
    match relocCheck s2.fw ld.obj.objid ld.obj.svn x.origins with
    | .error l => endTask { s2 with fw := { s2.fw with reloc := l } } t Cause.secVersion false
    | .ok l =>
      let s3 := takeClusters { s2 with fw := { s2.fw with reloc := l } } t x ld.obj.macros
      match commitAll s3 ld.obj x.origins with
      | .error f => endTask s3 t f false
      | .ok s4 => match placeObject s4 x ld with
        | .error f => (endTask s3 t f.cause false).modTask t (fun x => { x with refusal := f.where_ })
        | .ok s5 => clearTags s5 x

/-- The host may hold a line that the loader writes as a head starts. -/
def startHeld (s : State) (x : Task) : Bool :=
  match SMap.find s.fw.objects x.handle with
  | some ld => !ld.leased && installHeld s x.root ld.obj
  | none => false

/-- A placed head starts once its clusters are free and the host holds no line that the loader writes (R317); else its next victim is asked. -/
def goHead (s : State) (q t : Nat) (x : Task) : Option State :=
  if x.clusters.all (fun cl => (s.cluster cl).owner.isNone) then (if startHeld s x then none else some (startTask s q t x))
  else askVictim s x.cls x.clusters

/-- A cluster of a head's placement has gone to another task of an equal or higher class. -/
def displaced (s : State) (t : Nat) (x : Task) : Bool :=
  x.clusters.any (fun cl => (s.taskOf cl).any (fun h => decide (h.cls ≤ x.cls))
    || s.fw.tasks.any (fun h => h.1 != t && h.2.decided && decide (h.2.cls < x.cls) && h.2.clusters.contains cl))

/-- What a dispatch does with a head; none when it has to wait. A head whose placement has gone is placed anew. DEDUCED (log entry 34). -/
def tryHead (s : State) (h : Nat × Nat × Task) : Option State :=
  let (q, t, x) := h
  if x.decided && !displaced s t x then goHead s q t x
  else
    let x0 := { x with origins := [], clusters := [] }
    let s0 := s.setTask t x0
    match placementOf s0 x0 with
    | none => if x.decided then some s0 else none
    | some os =>
      let cls := placedClusters (s.macrosOf x) os
      if cls.any (reservedAbove s0 x.cls).contains then none
      else
        let y := { x0 with origins := os, clusters := cls }
        let s1 := s.setTask t y
        some ((goHead s1 q t y).getD s1)

/-- DISPATCH: the first ready head that can go, goes. DEDUCED (log entry 34). -/
def execDispatch (s : State) : Host.Outcome State Fault Refusal :=
  .next (((readyHeads s).findSome? (tryHead s)).getD s)

/-! ## Pre-emption (R272) -/

/-- A running command that stops at a beat boundary and is saved: a port stream, and an `mx.mma.*` with ASRC = 0 (R272). An `mx.ld` or `mx.st`
of a port is saved only while it waits on its channel. DEDUCED (log entry 15). -/
def stopsAtBeat (s : State) (cl : Nat) (r : Run) : Bool :=
  let c := s.cluster cl
  r.cmd.isPort || (r.cmd.cls == 3 && !r.done && (
    (decide (1 ≤ r.cmd.sub) && decide (r.cmd.sub ≤ 7) && !c.mxASrc)
      || (r.cmd.sub == 0 && !c.mxBSrc && (((c.chan (portKey 0x21 1)).map Chan.seen).getD []).isEmpty)
      || (r.cmd.sub == 8 && !r.cmd.toSpad && !s.hasFree cl (portKey 0x21 2) 1)))

/-- A running command that is saved as it stands: one that stops at a beat boundary; a barrier that waits for such a one; and a `cp.mx` whose
follow-on stands, or waits for its place, in the MX queue. DEDUCED (log entry 15). -/
def savableRun (s : State) (cl : Nat) (r : Run) : Bool :=
  let c := s.cluster cl
  stopsAtBeat s cl r
    || (r.cmd.cls == 1 && r.waits.any (fun id => match c.run id with | some y => !s.completed cl y && stopsAtBeat s cl y | none => false))
    || (r.cmd.cls == 2 && r.cmd.sub == 1 && !r.done &&
        ((r.aux == 2 && decide (Config.queueDepth ≤ (c.queue 3).length)) || (r.aux == 3 && !c.running.any (fun y => y.cmd.parent == some r.cmd.id))))

/-- No flit of the cluster is on the loops: of its accesses, of its commands, or of the items on their way to it. -/
def stillNet (s : State) (cl : Nat) : Bool :=
  s.net.all (fun f => match f.load with
    | .request k _ | .response k _ | .command k _ | .completion k _ | .item k _ => k != cl
    | _ => true)

/-- The cluster has reached the state in which its context is saved. DEDUCED (log entry 15). -/
def quietCluster (s : State) (cl : Nat) : Bool :=
  let c := s.cluster cl
  c.ctxs.all (fun f => quietFiring s cl f.1 f.2) && c.ces.all (fun e => e.2.pipe.isEmpty) && c.running.all (savableRun s cl) && stillNet s cl

/-- A blocked firing as it is saved: it starts its instruction again when it resumes. -/
def Firing.saved (f : Firing) : Firing := if f.suspended.isSome then f else { f with parked := true }

/-- The eager context of a cluster: the flits on their way to it are in its receive buffers. DEDUCED (log entry 15). -/
def contextOf (s : State) (cl : Nat) : Cluster :=
  let c := s.cluster cl
  let c1 := (s.flits.filter (fun f => f.toCl == cl)).foldl (fun c f =>
    { c with qbufs := SMap.set c.qbufs (4 * f.toSlot + f.qn) (SMap.get c.qbufs [] (4 * f.toSlot + f.qn) ++ [f.v]) }) c
  { c1 with ctxs := c1.ctxs.map (fun f => (f.1, f.2.saved)) }

/-- The contexts of a task's clusters are saved and the clusters are free; units it owns stay tagged (R177). DEDUCED (log entry 15). -/
def saveTask (s : State) (t : Nat) : State :=
  let cls := s.clustersOf t
  let saved := cls.map (fun cl => ({ task := t, cl := cl, ctx := contextOf s cl, since := s.now } : Saved))
  let s1 := { s with fw := { s.fw with saved := s.fw.saved ++ saved },
                     flits := s.flits.filter (fun f => !cls.contains f.toCl),
                     waiters := s.waiters.filter (fun w => !(cls.contains w.cl && w.queue.isNone)) }
  let s2 := cls.foldl (fun s cl =>
    let c := s.cluster cl
    s.setCluster cl { Cluster.reset with claims := c.claims, lastIssue := c.lastIssue }) s1
  s2.modTask t (fun x => { x with status := .preempted, yielding := false })

/-- PREEMPTION: a requested pre-emption reaches a cluster, whose elements stop and whose sequencer starts nothing; once every
cluster of the gang has come to rest, the contexts are saved. DEDUCED (log entry 15). -/
def execPreemption (task cl : Nat) (s : State) : Host.Outcome State Fault Refusal :=
  match s.task task with
  | none => .next s
  | some x =>
    if !x.yielding || x.aborting.isSome || (s.cluster cl).owner ≠ some task then .next s
    else if !(s.cluster cl).stopping then .next (s.modCluster cl (fun c => { c with stopping := true }))
    else if (s.clustersOf task).all (fun k => (s.cluster k).stopping && quietCluster s k) then .next (saveTask s task)
    else .next s

/-- CLAIM_UNIT: a unit of a victim that its cluster's task needs is saved, cleared and tagged to that task. The victim's copy
stands in its saved context. -/
def execClaimUnit (cl unit : Nat) (s : State) : Host.Outcome State Fault Refusal :=
  match (s.cluster cl).owner with
  | some t => if s.claimed cl unit then .next (s.modCluster cl (fun c => { c with
      claims := SMap.set c.claims unit t,
      -- the context engine had the grants of a bank while it saved it (R163)
      lastGrant := if unit < 32 then SMap.set c.lastGrant unit 11 else c.lastGrant })) else .next s
  | none => .next s

/-! ## Resumption (R178, R273) -/

/-- A saved firing goes on; the cycles it was away count against no budget. -/
def Firing.resumed (f : Firing) (away : Nat) : Firing :=
  { f with parked := false, started := f.started.map (· + away) }

/-- A cluster takes a saved context back: the pool blocks and the matrix array that the task owned at once (R178), a bank at the
first access to it. -/
def restoreCluster (s : State) (v : Saved) : State :=
  let c := s.cluster v.cl
  let back := v.ctx.claims.filter (fun u => decide (32 ≤ u.1) && u.2 == v.task)
  s.setCluster v.cl { v.ctx with claims := back.foldl (fun m u => SMap.set m u.1 u.2) c.claims, lastIssue := Nat.max c.lastIssue v.ctx.lastIssue, stopping := false, icache := [],
                                 ctxs := v.ctx.ctxs.map (fun f => (f.1, f.2.resumed (s.now - v.since))) }

/-- RESUME: the clusters of a pre-empted task are free of higher-class tasks; a lower-class task that holds one is pre-empted. -/
def execResume (task : Nat) (s : State) : Host.Outcome State Fault Refusal :=
  match s.task task with
  | none => .next s
  | some x =>
    if x.status ≠ .preempted then .next s
    else
      let held := x.clusters.filterMap (holderOf s)
      if held.isEmpty then
        let mine := s.fw.saved.filter (fun v => v.task == task)
        let s1 := mine.foldl restoreCluster { s with fw := { s.fw with saved := s.fw.saved.filter (fun v => v.task != task) } }
        .next (s1.modTask task (fun x => { x with status := .running }))
      else if held.all (fun h => decide (x.cls < h.cls) && !h.decided) then
        .next ((askVictim s x.cls x.clusters).getD s)
      else .next s

/-! ## The end of a task (R271) -/

/-- Everything of a cluster is at rest: its actors have exited, its phases have ended, its engines are empty. -/
def finishedCluster (c : Cluster) : Bool :=
  c.pending.isNone && c.ctxs.isEmpty && (List.range 16).all (fun m => !c.slotValid m || c.slotTrap m || (c.slot m).status == .exited)
    && c.chans.all (fun ch => !ch.2.live)
    && c.ces.all (fun e => e.2.pipe.isEmpty && e.2.skid0.isEmpty && e.2.skid1.isEmpty && e.2.parked.isEmpty && e.2.heldTok.isNone && !e.2.eos)
    && c.ags.all (fun g => g.2.phase.isNone) && c.running.isEmpty && c.queues.all (fun q => q.2.isEmpty) && c.portq.all (fun q => q.2.isEmpty)

/-- TASK_END: the task of a gang that has finished ends with cause 0. The pager waits for writes on their way to a window, and for the host where it holds a line of what is written back (R317); an error that it
meets in what it writes back aborts the gang (R242). DEDUCED (log entry 29). -/
def execTaskEnd (task : Nat) (s : State) : Host.Outcome State Fault Refusal :=
  match s.task task with
  | none => .next s
  | some x =>
    if x.status = .running ∧ x.aborting.isNone ∧ (s.clustersOf task).all (fun cl => finishedCluster (s.cluster cl))
        ∧ !(windowTiles x).any (fun e => frameBusy s e.2.2.frame) ∧ !windowsHeld s task x then
      match (windowTiles x).findSome? (fun e => tileFault s task x e.1 e.2.1 e.2.2.frame) with
      | some c => .next (gangError s (some task) c)
      | none => .next (endTask (closeWindows s task x) task 0#16 false)
    else .next s

/-! ## Gangs of the domain (R268) -/

/-- GANG_ANNOUNCE: another package tells of a dispatch or an end of a gang. -/
def execGangAnnounce (pkg : Nat) (key : Word) (objid : Lane) (rank : Nat) (ended : Bool) (s : State) : Host.Outcome State Fault Refusal :=
  if key = 0#64 ∨ pkg = Config.packageNumber then .next s
  else
    let g : Gang := { pkg := pkg, key := key, objid := objid, rank := rank, ended := ended }
    let others := s.fw.gangs.filter (fun x => !(x.pkg == pkg && x.key == key && x.objid == objid && x.rank == rank))
    .next { s with fw := { s.fw with gangs := others ++ [g] } }

end Sys2Proof.Machine
end

