-- ==== Sys2Proof/Machine/System.lean ====
section
/-! DEFINITION. System instructions (R79, R245, R263, R278 to R285), the faults of a fetch and of the budget, and the
sequencer's own steps: starting a firing, filling the instruction cache, delivering a flit (R91, R92, R95, R97, R98, R275). -/

namespace Sys2Proof.Machine

/-! ## `trap`, `tkill`, `nop`, `ldtsc` -/

/-- `trap` (R279): the record has AUX = rd(a) and EPC at the next instruction. -/
def execTrap (a : Reg) (s : State) : Host.Outcome State Fault Refusal :=
  instr 4 (fun cl ctx s => (rd cl ctx a s).bind (fun v s =>
    .ok .gone (takeTrap s cl ctx { cause := Cause.seqTrap, addr := 0#64, aux := v, level := 0 } (pcOf cl ctx s + 4#64)))) s

/-- `tkill` (R284). -/
def execTkill (a : Reg) (s : State) : Host.Outcome State Fault Refusal :=
  instr 4 (fun cl ctx s => (rd cl ctx a s).bind (fun v s =>
    let c : Cause := v.setWidth 16
    .ok .gone (killAt s cl ctx (if c = 0#16 then Cause.killed else c)))) s

/-- `nop` (R285). -/
def execNop (s : State) : Host.Outcome State Fault Refusal := instr 4 (fun _ _ s => .ok .seq s) s

/-- `ldtsc` (R282): nothing of the firing issues before d is written, two cycles after issue. -/
def execLdtsc (d : Reg) (s : State) : Host.Outcome State Fault Refusal :=
  instr 4 (fun cl ctx s => (wr cl ctx d (BitVec.ofNat 64 s.tsc) s).bind (fun _ s => .ok .seq (s.holdNext cl ctx 2))) s

/-! ## Control registers (Table 4.13, R281) -/

/-- The value of a control register in a firing; none for a number the table lacks. -/
def csrValue (s : State) (cl : Nat) (f : Firing) (n : Nat) : Option Word :=
  let c := s.cluster cl
  match n with
  | 0x00 => some f.wid
  | 0x01 => some (BitVec.ofNat 64 s.tsc)
  | 0x02 => some (BitVec.ofNat 64 c.dmode)
  | 0x03 => some (BitVec.ofNat 64 c.tapeptr)
  | 0x04 => some (BitVec.ofNat 64 c.tapelim)
  | 0x05 => some c.lscale
  | 0x06 => some c.lsepoch
  | 0x08 => some (match f.handling with | some r => zx r.cause | none => 0#64)
  | 0x09 => some (match f.handling with | some r => zx r.src | none => 0#64)
  | 0x0A => some (match f.handling with | some r => r.addr | none => 0#64)
  | 0x0B => some (if f.handling.isSome then f.epc else 0#64)
  | 0x0C => some (zx c.flags)
  | 0x10 => some (BitVec.ofNat 64 c.spbase)
  | 0x11 => some (BitVec.ofNat 64 Config.spadBytes)
  | _ => none

/-- `csrr`. -/
def execCsrr (d : Reg) (n : BitVec 6) (s : State) : Host.Outcome State Fault Refusal :=
  instr 4 (fun cl ctx s => match s.firing cl ctx with
    | none => .stall
    | some f => match csrValue s cl f n.toNat with
      | none => .trap (trapOf Cause.seqIll 0#64)
      | some v => (wr cl ctx d v s).bind (fun _ s => .ok .seq s)) s

/-- A loss scale: a positive normal power of two (R310). -/
def lscaleOk (v : Word) : Bool :=
  bitsAt v.toNat 32 32 == 0 && !bitAt v.toNat 31 && bitsAt v.toNat 0 23 == 0 && decide (1 ≤ bitsAt v.toNat 23 8)
    && decide (bitsAt v.toNat 23 8 ≤ 254)

/-- `csrw`: `lscale` waits as a pending value, `epc` is the handler's, a one clears a flag. -/
def execCsrw (a : Reg) (n : BitVec 6) (s : State) : Host.Outcome State Fault Refusal :=
  instr 4 (fun cl ctx s =>
    if n.toNat = 0x05 then
      (rd cl ctx a s).bind (fun v s => if lscaleOk v then .ok .seq (s.modCluster cl (fun c => { c with lpend := some v }))
        else tapeFault s cl Cause.tapeLscale v)
    else if n.toNat = 0x0B then
      (rd cl ctx a s).bind (fun v s => match s.firing cl ctx with
        | some f => if f.handling.isSome then .ok .seq (s.setFiring cl ctx { f with epc := v }) else .ok .seq s
        | none => .stall)
    else if n.toNat = 0x0C then
      (rd cl ctx a s).bind (fun v s => .ok .seq (s.modCluster cl (fun c => c.clearFlags s.now (v.setWidth 5))))
    else .trap (trapOf Cause.seqIll 0#64)) s

/-! ## Invalidation (R245, R263, R283) -/

/-- Instruction-cache lines of an object that meet [lo, hi) go, in every cluster of the package that runs it. -/
def dropCode (s : State) (handle lo hi : Nat) : State :=
  { s with clusters := s.clusters.map (fun (k, c) =>
      if (c.owner.bind s.task).any (fun t => t.handle == handle) then
        (k, { c with icache := c.icache.filter (fun l => !(decide (lo < hi) && decide (128 * l.1 < hi) && decide (lo < 128 * l.1 + 128))) })
      else (k, c)) }

/-- `icinv`. -/
def execIcinv (a b : Reg) (s : State) : Host.Outcome State Fault Refusal :=
  instr 4 (fun cl ctx s => (rd2 cl ctx a b s).bind (fun (x, y) s =>
    match s.taskOf cl with
    | none => .ok .seq s
    | some t => .ok .seq (dropCode s t.handle x.toNat (Nat.min (x.toNat + y.toNat) t.csize)))) s

/-- The storage of a tile table meets [lo, hi). -/
def Task.tableMeets (t : Task) (n lo hi : Nat) : Bool :=
  decide (lo < hi) && meets (t.tableStore n) ((t.tableLayout n).tiles * 65536) lo (hi - lo)

/-- `tlbinv`: the walk caches and the tile-entry caches lose what maps its range (R245). -/
def execTlbinv (a b : Reg) (s : State) : Host.Outcome State Fault Refusal :=
  instr 4 (fun cl ctx s => (rd2 cl ctx a b s).bind (fun (x, y) s =>
    match s.taskOf cl with
    | none => .ok .seq s
    | some t =>
      let hi := Nat.min (x.toNat + y.toNat) 144115188075855872
      .ok .seq (dropTiles (dropWalks s t.root x.toNat hi) ((s.cluster cl).owner.getD 0) (fun k => t.tableMeets (k / 4294967296) x.toNat hi)))) s

/-! ## Faults without an instruction (R78, R95, R138) -/

/-- SEQ_ILL_WORD: the word at the program counter is no instruction. -/
def execSeqIllWord (_w : Lane) (s : State) : Host.Outcome State Fault Refusal :=
  instr 4 (fun _ _ _ => .trap (trapOf Cause.seqIll 0#64)) s

/-- SEQ_PC_FALL_THROUGH: the program counter stands outside the code. -/
def execSeqPcFallThrough (s : State) : Host.Outcome State Fault Refusal :=
  instr 4 (fun cl ctx s => .trap (trapOf Cause.seqPc (pcOf cl ctx s))) s

/-- SEQ_BUDGET: a firing that will have used its budget by its next issue is suspended before its next instruction, in the cycle in which
the budget ends; one whose load is still on its way at that load, with the registers as they were (R95). -/
def execSeqBudget (cl ctx : Nat) (s : State) : Host.Outcome State Fault Refusal :=
  match s.firing cl ctx with
  | none => .next s
  | some f =>
    let c := s.cluster cl
    if f.ready && s.overBudget cl ctx f then
      let s1 := s.upTo (f.started.getD 0 + c.budget)
      let (s2, epc) := match if s.rides cl ctx then f.back else none with
        | some b => ((s1.setFiring cl ctx { f with s := b.s, sp := b.sp }).modCluster cl (fun c => c.setSlot f.slot { c.slot f.slot with k := b.k }), b.pc)
        | none => (s1, f.pc)
      .next (takeTrap s2 cl ctx (trapOf Cause.seqBudget 0#64) epc)
    else .next s

/-! ## Starting a firing (R92, R275) -/

/-- A cluster whose sequencer may start firings. -/
def State.fires (s : State) (cl : Nat) : Bool :=
  let c := s.cluster cl
  bitAt (c.fieldN 0x20 0) 0 && (s.taskOf cl).isSome && !c.stopping && (s.abortingAt cl).isNone

/-- The lowest free firing context. -/
def Cluster.freeCtx (c : Cluster) : Option Nat := (List.range 4).find? (fun k => (SMap.find c.ctxs k).isNone)

/-- The idle trap actor, when a trap is pending. -/
def Cluster.trapDue (c : Cluster) : Option Nat :=
  if c.traps.isEmpty then none else c.trapSlot.bind (fun m => if (c.slot m).status = .idle then some m else none)

/-- The next fireable actor: the oldest ready time, then the lowest slot. -/
def Cluster.nextActor (c : Cluster) : Option Nat :=
  (List.range 16).foldl (fun best m =>
    if (c.slot m).status = .fireable then
      match best with
      | some b => if (c.slot m).ready < (c.slot b).ready then some m else some b
      | none => some m
    else best) none

/-- The dwords of a trap record (Table 19.3). -/
def TrapRec.dwords (r : TrapRec) : List Word :=
  [BitVec.ofNat 64 (r.src.toNat * 4294967296 + (if r.r then 65536 else 0) + r.cause.toNat), r.tsc, r.wid, r.epc, r.addr, r.aux,
   BitVec.ofNat 64 (r.ctx * 256 + r.slot * 16 + r.level), r.seqno]

/-- A firing of an actor at its entry, with the registers of R92. -/
def firingOf (t : Task) (c : Cluster) (m : Nat) (r : Option TrapRec) : Firing :=
  let sl := c.slot m
  let wid := widOf t c m sl.firing
  let low := [0#64, wid, sl.firing, t.arg] ++ (match r with | some x => x.dwords | none => [])
  { slot := m, wid := wid, s := Vector.ofFn (fun (i : Fin 32) => low.getD i.val 0#64), sp := 0#64, pc := BitVec.ofNat 64 (c.slotEntry m),
    adv := [], pub := [], written := [], started := none, suspended := none, handling := r,
    epc := (match r with | some x => x.epc | none => 0#64), parked := false, evicting := false, waiting := false, saw := [], late := [], resumeAt := 0, back := none }

/-- A firing starts in a context; its entry may be one whose successors the prefetcher fetches (R259). -/
def startFiring (s : State) (cl ctx m : Nat) (t : Task) (r : Option TrapRec) : State :=
  let f := firingOf t (s.cluster cl) m r
  prefetch ((s.setFiring cl ctx f).modCluster cl (fun c => c.setSlot m { c.slot m with status := .running })) cl ((s.cluster cl).slotEntry m)

/-- FIRING_START: a free context takes the next fireable actor. A pending trap goes first, and a sequencer about to change starts no
firing (R62) but one of its trap actor, on which a firing in flight may wait. DEDUCED (log entry 32). -/
def execFiringStart (cl : Nat) (s0 : State) : Host.Outcome State Fault Refusal :=
  let s := refresh s0 cl
  let c := s.cluster cl
  if s0.fires cl && c.trapDue.isNone && !s0.settling cl 0x20 then
    match c.freeCtx, c.nextActor, s.taskOf cl with
    | some ctx, some m, some t => .next (startFiring s cl ctx m t none)
    | _, _, _ => .next s0
  else .next s0

/-- TRAP_ACTOR_FIRE: the trap actor takes the first pending trap. -/
def execTrapActorFire (cl : Nat) (s : State) : Host.Outcome State Fault Refusal :=
  let c := s.cluster cl
  if s.fires cl then
    match c.trapDue, c.freeCtx, c.traps, s.taskOf cl with
    | some m, some ctx, r :: rest, some t => .next (startFiring (s.modCluster cl (fun c => { c with traps := rest })) cl ctx m t (some r))
    | _, _, _, _ => .next s
  else .next s

/-! ## The instruction cache (R98, R263) -/

/-- Reads code at a virtual address as the SQ path would. Code is checked against no lease: R250 does not list a fetch. DEDUCED (log entry 9). -/
def codeRead (cl : Nat) (t : Task) (va n : Nat) (s : State) : Res (List Byte) :=
  Res.each (pieces va n) [] s (fun acc p s =>
    match translate s (dieOf cl) t.root p.1 false with
    | .error f => .trap { cause := f.cause, addr := BitVec.ofNat 64 p.1, aux := BitVec.ofNat 64 f.epa, level := f.level }
    | .ok x => (sqRead cl 4 x.pa p.2 x.ms p.1 x.s).bind (fun v s => .ok (acc ++ bytesOfNat p.2 v) s))

/-- A line of code enters a cluster's instruction cache. -/
def fillCode (s : State) (cl line : Nat) : Res Unit :=
  match s.taskOf cl with
  | none => .stall
  | some t => (codeRead cl t (t.codeVA + 128 * line) 128 s).bind (fun bs s =>
      .ok () (s.modCluster cl (fun c => c.cacheCode line (Beat.ofBytes bs))))

/-- ICACHE_FILL: the line a firing waits for arrives, and it waits no longer. A fetch that does not translate suspends the firing. -/
def execIcacheFill (cl ctx : Nat) (s : State) : Host.Outcome State Fault Refusal :=
  match s.firing cl ctx with
  | none => .next s
  | some f =>
    let pc := f.pc.toNat
    let line := if (icacheWord (s.cluster cl) pc).isNone then pc / 128 else (pc + 4) / 128
    if f.ready && peek s cl f.pc == .miss then
      match fillCode s cl line with
      | .ok _ s1 => .next (s1.setFiring cl ctx { f with waiting := false })
      | .stall => .next s
      | .stallIn s1 => .next s1
      | .trap t => .next (takeTrap s cl ctx t f.pc)
      | .kill c => .next (killAt s cl ctx c)
      | .abort c => .next (abortAt s cl ctx c)
      | .cut _ => .next s
    else .next s

/-- The call-graph prefetcher fills a line ahead of need (R259); what it cannot read it leaves. -/
def prefetchCode (s : State) (cl line : Nat) : State :=
  if 128 * line < codeSize s cl ∧ (SMap.find (s.cluster cl).icache line).isNone then
    match fillCode s cl line with
    | .ok _ s1 => s1
    | _ => s
  else s

/-! ## Flits (R97) -/

/-- QUEUE_FLIT_ARRIVE: a flit reaches its receive buffer; those of one sender to one queue keep their sequence. -/
def execQueueFlitArrive (k : Nat) (s : State) : Host.Outcome State Fault Refusal :=
  match s.flits[k]? with
  | none => .next s
  | some f =>
    let before := s.flits.take k
    if before.any (fun g => g.fromCl == f.fromCl && g.fromSlot == f.fromSlot && g.toCl == f.toCl && g.toSlot == f.toSlot && g.qn == f.qn)
    then .next s
    else .next (({ s with flits := s.flits.eraseIdx k }).modCluster f.toCl (fun c =>
      { c with qbufs := SMap.set c.qbufs (4 * f.toSlot + f.qn) (SMap.get c.qbufs [] (4 * f.toSlot + f.qn) ++ [f.v]) }))

end Sys2Proof.Machine
end

