-- ==== Sys2Proof/Machine/Firmware.lean ====
section
/-! DEFINITION. Power-on (R266), the device registers and the Bolenol commands (R250, R258, R260 to R264, R268, R269, R274,
R287). -/

namespace Sys2Proof.Machine

/-! ## Registers and the end of a command (R262) -/

/-- Dword k of the command block. -/
def State.arg (s : State) (k : Nat) : Nat := (s.fw.block.getD k 0#64).toNat

/-- A command finishes: status word, completion count, BUSY, and MSI-X vector 0 under IE. -/
def finish (s : State) (c : Cause) (result : Nat) : State :=
  { s with fw := { s.fw with busy := false, status := BitVec.ofNat 64 (result % 281474976710656 * 65536 + c.toNat),
                             count := s.fw.count + 1#64, msix := if s.fw.ie then s.fw.msix + 1 else s.fw.msix } }

/-- The command in the block runs: BUSY is set and the block holds its code. -/
def command (code : Nat) (s : State) (run : State → State) : Host.Outcome State Fault Refusal :=
  .next (if s.fw.busy && s.arg 0 == code then run s else s)

/-- What a host read of a location at the start of the device registers returns (R262); zero elsewhere. -/
def hostRegRead (s : State) (off : Nat) : Word :=
  let fw := s.fw
  if off % 8 ≠ 0 then 0#64
  else if off < 0x40 then fw.block.getD (off / 8) 0#64
  else if off = 0x40 then (if fw.busy then 1#64 else 0#64)
  else if off = 0x48 then fw.status
  else if off = 0x50 then fw.count
  else if off = 0x58 then (if fw.ie then 1#64 else 0#64)
  else 0#64

/-- HOST_REG_WRITE: the block and the doorbell while no command runs, and interrupt control; any other place keeps its value.
A doorbell with a code that no command has is refused with FW.CMD. -/
def execHostRegWrite (off : Nat) (data : Word) (s : State) : Host.Outcome State Fault Refusal :=
  let fw := s.fw
  if off % 8 ≠ 0 then .next s
  else if off < 0x40 then
    .next (if fw.busy then s else { s with fw := { fw with block := fw.block.set (off / 8) data } })
  else if off = 0x40 then
    if fw.busy || !bitAt data.toNat 0 then .next s
    else
      let s1 := { s with fw := { fw with busy := true } }
      .next (if 13 < s.arg 0 then finish s1 Cause.fwCmd 0 else s1)
  else if off = 0x58 then .next { s with fw := { fw with ie := bitAt data.toNat 0 } }
  else .next s

/-! ## Power-on and RESET (R266, R325) -/

/-- RESET binds the namespaces with a 4,096-byte LBA format to handles 0 upward (R325). -/
def Hub.enumerated (h : Hub) : SMap Nvme :=
  let ns := (h.devices.filter (fun d => d.1 == 4096)).map (·.2)
  (List.range ns.length).zip ns

/-- POWER_ON: every field at its Reset value. The fuses, what lies outside the package, and the model's own fields stay. A part
with a defect reports FW.BIST. -/
def execPowerOn (defect : Bool) (s : State) : Host.Outcome State Fault Refusal :=
  let r := State.reset
  .next { r with agenda := s.agenda, cur := s.cur, freeCtr := s.freeCtr, nextId := s.nextId,
                 hub := { r.hub with devices := s.hub.devices },
                 fw := { r.fw with fuse := s.fw.fuse, bistOk := !defect, defect := defect, images := s.fw.images,
                                   status := if defect then zx Cause.fwBist else 0#64 } }

/-- Tasks that have not ended end with KILLED. -/
def killAll (s : State) : State :=
  s.fw.tasks.foldl (fun s t => if t.2.status = .ended then s else killTask s t.1 Cause.killed) s

/-- RESET: every task is killed, every queue emptied, every field at its Reset value, and the self-test runs again, so that a defect that has
arisen reports FW.BIST (R266), and the storage it reaches is bound (R325). Memory, the fuses, the completion count and the record of ended tasks stay. -/
def execReset (s : State) : Host.Outcome State Fault Refusal :=
  command 0 s (fun s =>
    let k := killAll s
    let r := State.reset
    finish { r with now := k.now, tscBase := k.tscBase, mem := k.mem, poison := k.poison, stamps := [], inflight := k.inflight,
                    nmops := k.nmops, held := k.held, adjTags := k.adjTags, agenda := k.agenda, cur := k.cur,
                    freeCtr := k.freeCtr, nextId := k.nextId,
                    dies := k.dies.map (fun d => (d.1, { Die.reset with scrubbed := d.2.scrubbed })),
                    hub := { r.hub with devices := k.hub.devices, namespaces := k.hub.enumerated },
                    fw := { r.fw with count := k.fw.count, fuse := k.fw.fuse, bistOk := !k.fw.defect, defect := k.fw.defect,
                                      images := k.fw.images, tasks := k.fw.tasks, nextTask := k.fw.nextTask } }
      (if k.fw.defect then Cause.fwBist else 0#16) 0)

/-! ## QUERY -/

/-- A task's status with its end cause: the status in [3:0], the end cause in [31:16] (DESIGN CHOICE, log entry 28). -/
def Task.report (x : Task) : Nat :=
  (match x.status with
    | .queued => 0
    | .running => 1
    | .preempted => 2
    | .ended => 3) + x.endCause.toNat * 65536

/-- HBM left for leases (R242): what neither a reservation nor the expert pool takes. DESIGN CHOICE (log entry 28). -/
def leasableBytes (s : State) : Nat := Config.hbmLimit - 8 * reservedBytes - s.hub.poolSize

/-- QUERY: item 0 the HBM left for leases, 1 the fuse counter, 2 the status of the task in dword 2, 3 one more than the bound handle of the
place in dword 2, 0 past the last (R325), 4 the draw limit,
which a nonzero dword 2 sets first (R267), 5 what the refusal of the task in dword 2 reported: level and entry PA, or the tensor (R248,
R250). The manual numbers no item (DESIGN CHOICE, log entry 28); any other figure is a free value. -/
def execQuery (s : State) : Host.Outcome State Fault Refusal :=
  command 1 s (fun s =>
    match s.arg 1 with
    | 0 => finish s 0#16 (leasableBytes s)
    | 1 => finish s 0#16 s.fw.fuse
    | 2 => match s.task (s.arg 2) with
      | some x => finish s 0#16 x.report
      | none => finish s Cause.fwCmd 0
    | 3 => finish s 0#16 (match s.hub.namespaces[s.arg 2]? with | some n => n.1 + 1 | none => 0)
    | 4 =>
      let w := if s.arg 2 = 0 then s.fw.drawLimit else s.arg 2
      finish { s with fw := { s.fw with drawLimit := w } } 0#16 w
    | 5 => match s.task (s.arg 2) with
      | some x => finish s 0#16 x.refusal
      | none => finish s Cause.fwCmd 0
    | _ => let (v, s1) := s.free; finish s1 0#16 v.toNat)

/-! ## Objects: LOAD, UNLOAD, LEASE, UNLEASE, MAP -/

/-- A task of an object that has not ended. -/
def objectBusy (s : State) (h : Nat) : Bool := s.fw.tasks.any (fun t => t.2.handle == h && t.2.status != .ended)

/-- The loaded object with an identifier. -/
def loadedAs (s : State) (objid : Nat) : Option (Nat × Loaded) := s.fw.objects.find? (fun e => e.2.obj.objid == objid)

/-- A lease range without the bytes of [lo, hi). -/
def Lease.without (l : Lease) (lo hi : Nat) : List Lease :=
  if hi ≤ l.base ∨ l.base + l.size ≤ lo then [l]
  else [{ l with size := lo - l.base }, { l with base := hi, size := l.base + l.size - hi }].filter (fun x => x.size != 0 && (decide (l.base ≤ x.base)))

/-- The lease ranges of an object: its code pages form one more with CW = 1, and lie in none with CW = 0 (R255). -/
def XObject.allLeases (o : XObject) : List Lease :=
  let n := ceilDiv o.csize 4096 * 4096
  if o.cw then o.leases ++ [{ base := o.codeBase, size := n, window := 0 }]
  else o.leases.flatMap (fun l => l.without o.codeBase (o.codeBase + n))

/-- A loaded object with the header and the code of another. -/
def XObject.withCode (x o : XObject) : XObject := { x with header := o.header, code := o.code, relocs := o.relocs, succs := o.succs }

/-- PATCH = 1: the code of a loaded object is replaced, in memory where it has been placed, its pages writable or not as CW now says and its
leases with them, and every copy of it goes. Code that would not fit where the old code stands is refused. A page that the new code no longer covers keeps its W. DEDUCED (log entry 13). -/
def patchObject (s : State) (h : Nat) (ld : Loaded) (o : XObject) : Except XFault State :=
  let obj := ld.obj.withCode o
  let root := ld.root.getD 0
  match (if ld.leased then (match fwWrite s root obj.codeBase obj.codeBytes with
    | .error f => .error f
    | .ok s1 => mapCode s1 root obj) else Except.ok s) with
  | .error f => .error f
  | .ok s1 =>
    let s2 := s1.setObject h { ld with obj := obj }
    let s3 := { s2 with fw := { s2.fw with tasks := s2.fw.tasks.map (fun t =>
        (t.1, if t.2.handle = h then { t.2 with csize := obj.csize, succs := obj.succs, leases := obj.allLeases } else t.2)) } }
    .ok (dropCode s3 h 0 16777216)

/-- LOAD, which waits while the host may hold a line that it writes (R317): the object at the PA in dword 1 is checked and given a handle, with no stale entry of its OBJID in the relocated-configuration
cache (R258), or replaces the code of the loaded object of its OBJID
with PATCH = 1 in dword 2. DESIGN CHOICE (log entry 7). DEDUCED (log entry 24). -/
def execLoad (s : State) : Host.Outcome State Fault Refusal :=
  command 2 s (fun s =>
    if !s.fw.bistOk then finish s Cause.fwBist 0
    else match SMap.find s.fw.images (s.arg 1) with
    | none => finish s Cause.loadFormat 0
    | some o => match loadFault s.fw o with
      | some f => finish s f 0
      | none => match relocStale s.fw o.objid (fun _ => true) with
      | some l => finish { s with fw := { s.fw with reloc := l } } Cause.secVersion 0
      | none =>
        if s.arg 2 = 1 then match loadedAs s o.objid with
          | some (h, ld) =>
            let obj := ld.obj.withCode o
            if obj.codeBase ≠ ld.obj.codeBase then finish s Cause.loadFormat 0
            else if ld.leased && (rangeHeld s (ld.root.getD 0) obj.codeBase obj.codeBytes.length || entriesHeld s (ld.root.getD 0) obj) then s
            else match patchObject s h ld o with
            | .error f => finish s f.cause f.where_
            | .ok s1 => finish s1 0#16 h
          | none => finish s Cause.fwCmd 0
        else
          let h := s.fw.nextHandle
          let s1 := s.setObject h { obj := o, root := none, leased := false }
          finish { s1 with fw := { s1.fw with nextHandle := h + 1 } } 0#16 h)

/-- UNLOAD. DEDUCED (log entry 24). -/
def execUnload (s : State) : Host.Outcome State Fault Refusal :=
  command 3 s (fun s =>
    let h := s.arg 1
    match SMap.find s.fw.objects h with
    | none => finish s Cause.fwCmd 0
    | some _ =>
      if objectBusy s h then finish s Cause.leaseBusy 0
      else finish { s with fw := { s.fw with objects := SMap.del s.fw.objects h } } 0#16 0)

/-- LEASE: the ranges are made resident and pinned, data and code put in place, once the host holds no line of them (R317). Before MAP has named a root there is nothing to
walk: the pager then does it all before the launch becomes ready. DEDUCED (log entry 13). DEDUCED (log entry 24). -/
def execLease (s : State) : Host.Outcome State Fault Refusal :=
  command 4 s (fun s =>
    let h := s.arg 1
    match SMap.find s.fw.objects h with
    | none => finish s Cause.fwCmd 0
    | some ld =>
      match ld.root with
      | none => finish s 0#16 0
      | some root =>
        if ld.leased then finish s 0#16 0
        else if installHeld s root ld.obj then s
        else match leasesFault s root ld.obj.allLeases with
        | some f => finish s f.cause f.where_
        | none => match install s root ld.obj with
          | .error f => finish s f.cause f.where_
          | .ok s1 => finish (s1.setObject h { ld with leased := true }) 0#16 0)

/-- A task of the object holds its lease (R250). -/
def leaseHeld (s : State) (h : Nat) : Bool := s.fw.tasks.any (fun t => t.2.handle == h && t.2.status != .ended && t.2.ready)

/-- UNLEASE: refused while a task of the object holds the lease; the walk caches lose the root's entries. DEDUCED (log entry 24). -/
def execUnlease (s : State) : Host.Outcome State Fault Refusal :=
  command 5 s (fun s =>
    let h := s.arg 1
    match SMap.find s.fw.objects h with
    | none => finish s Cause.fwCmd 0
    | some ld =>
      if leaseHeld s h then finish s Cause.leaseBusy 0
      else finish (dropWalks (s.setObject h { ld with leased := false }) (ld.root.getD 0) 0 144115188075855872) 0#16 0)

/-- MAP: the root table of the object's tasks; one that would change a leased translation is refused. -/
def execMap (s : State) : Host.Outcome State Fault Refusal :=
  command 6 s (fun s =>
    let h := s.arg 1
    let root := s.arg 2
    match SMap.find s.fw.objects h with
    | none => finish s Cause.fwCmd 0
    | some ld =>
      if leaseHeld s h && ld.root != some root then finish s Cause.leaseBusy 0
      else if root % 4096 ≠ 0 ∨ Config.hbmLimit ≤ root then finish s Cause.xlatePa 0
      else
        let s1 := dropWalks s (ld.root.getD 0) 0 144115188075855872
        let s2 := { s1 with fw := { s1.fw with tasks := s1.fw.tasks.map (fun t =>
            (t.1, if t.2.handle = h ∧ t.2.status = .queued then { t.2 with root := root } else t.2)) } }
        finish ((dropWalks s2 root 0 144115188075855872).setObject h
          { ld with root := some root, leased := ld.leased && ld.root == some root }) 0#16 0)

/-! ## LAUNCH, PREEMPT, KILL, TRAPRPT -/

/-- The entry that the loader builds from a declared one (R246): TTB and ADJ name tile tables by addresses of their own, above every
program's, and the storages that the declaration names stand behind the entry. DESIGN CHOICE (log entry 7). -/
def Tensor.built (id : Nat) (x : Tensor) : Tensor :=
  let table := fun (adj : Bool) => BitVec.ofNat 64 (72057594037927936 + 1099511627776 * tableOf id adj)
  let d := fun k => x.getD k 0#64
  (List.range 4).map d ++ [if x.expert then d 4 else table false, if x.diff then table true else d 5, d 6, d 7, d 4, d 5]

/-- A queued task of an object. DESIGN CHOICE (log entry 7). -/
def newTask (h : Nat) (ld : Loaded) (rank : Nat) (key : Word) : Task :=
  let o := ld.obj
  { handle := h, status := .queued, endCause := 0#16, cls := o.cls, rank := rank, key := key, origins := [], clusters := [],
    root := ld.root.getD 0, leases := o.allLeases, tensors := o.tensors.foldl (fun m t => SMap.set m t.1 (t.2.built t.1)) [], readOnly := [],
    tiles := [], tags := [], widths := o.widths, arg := BitVec.ofNat 64 (o.hw 1), spill := o.spill, csize := o.csize,
    codeVA := o.codeBase, succs := o.succs, ring := [], seqno := 0, aborting := none, started := 0, objid := BitVec.ofNat 32 o.objid,
    collectives := [], refusal := 0, ready := false, yielding := false, sema := o.hw 4,
    semt := BitVec.ofNat 64 (o.hw 5) }

/-- The refusals of LAUNCH (R258, R268, R270). -/
def launchFault (s : State) (ld : Loaded) (q rank : Nat) : Option Cause :=
  let o := ld.obj
  let w5 := o.widths.getD 5 0
  if o.svn < s.fw.fuse then some Cause.secVersion
  else if 16 ≤ q ∨ q / 4 ≠ o.cls ∨ 512 ≤ rank ∨ (0 < w5 ∧ 2 ^ w5 ≤ rank) then some Cause.fwQueue
  else match placeAll o.macros (fun _ => false) with
  | none => some Cause.loadPlace
  | some os => if widBad o os then some Cause.loadPlace else none

/-- The number of the next task: one that no task holds which has not ended. -/
def State.taskNumber (s : State) : Nat :=
  (((List.range (s.fw.tasks.length + 1)).map (fun k => (s.fw.nextTask + k) % 65536)).find? (fun t =>
    !(s.task t).any (fun x => x.status != .ended))).getD (s.fw.nextTask % 65536)

/-- LAUNCH: handle, queue, rank and domain key in dwords 1 to 4. -/
def execLaunch (s : State) : Host.Outcome State Fault Refusal :=
  command 7 s (fun s =>
    match SMap.find s.fw.objects (s.arg 1) with
    | none => finish s Cause.fwCmd 0
    | some ld => match launchFault s ld (s.arg 2) (s.arg 3) with
      | some f => finish s f 0
      | none => match relocStale s.fw ld.obj.objid
          (fun k => ((placeAll ld.obj.macros (fun _ => false)).getD []).any (fun p => clusterAt p.1 p.2 == k)) with
      | some l => finish { s with fw := { s.fw with reloc := l } } Cause.secVersion 0
      | none =>
        let t := s.taskNumber
        let s1 := s.setTask t (newTask (s.arg 1) ld (s.arg 3) (s.fw.block.getD 4 0#64))
        finish { s1 with fw := { s1.fw with nextTask := t + 1,
                                            queues := SMap.set s1.fw.queues (s.arg 2) (SMap.get s1.fw.queues [] (s.arg 2) ++ [t]) } } 0#16 t)

/-- A cluster of the task lies in the reserved placement of a waiting head of an equal or higher class. -/
def preemptDenied (s : State) (t : Nat) (x : Task) : Bool :=
  (readyHeads s).any (fun h => decide (h.2.2.cls ≤ x.cls) && waitingHead s h.2.2 &&
    (s.clustersOf t).any (reservedPlacement s h.2.2).contains)

/-- PREEMPT. -/
def execPreempt (s : State) : Host.Outcome State Fault Refusal :=
  command 8 s (fun s =>
    let t := s.arg 1
    match s.task t with
    | none => finish s Cause.fwCmd 0
    | some x =>
      if x.status ≠ .running then finish s 0#16 x.report
      else if preemptDenied s t x then finish s Cause.preDenied 0
      else finish (requestYield s t) 0#16 0)

/-- A queued launch leaves its queue. -/
def dequeueAll (s : State) (t : Nat) : State := (List.range 16).foldl (fun s q =>
  if (SMap.get s.fw.queues [] q).contains t then dequeue s q t else s) s

/-- KILL: a task that has ended stays as it is. -/
def execKill (s : State) : Host.Outcome State Fault Refusal :=
  command 9 s (fun s =>
    match s.task (s.arg 1) with
    | none => finish s Cause.fwCmd 0
    | some x =>
      if x.status = .ended then finish s 0#16 0
      else finish (killTask (dequeueAll s (s.arg 1)) (s.arg 1) Cause.killed) 0#16 0)

/-- TRAPRPT: the task's last trap record, left in the eight dwords of the block (DESIGN CHOICE, log entry 28). -/
def execTrapRpt (s : State) : Host.Outcome State Fault Refusal :=
  command 10 s (fun s =>
    match s.task (s.arg 1) with
    | none => finish s Cause.fwCmd 0
    | some x => finish { s with fw := { s.fw with block := match x.ring.getLast? with
        | some r => r.dwords
        | none => List.replicate 8 0#64 } } 0#16 0)

/-! ## ERTCFG (R287), MONITOR (R264), FUSEADV (R261) -/

/-- An entry of Table 20.1 in an array at a PA: its key and its fields as ERTCFG takes them. -/
def ertEntryAt (m : Memory) (pa : Nat) : Nat × Ert :=
  let d0 := m.read 8 pa
  let d1 := m.read 8 (pa + 8)
  let d2 := m.read 8 (pa + 16)
  (bitsAt d0 32 32,
   { state := 0, failed := false, nsl := bitsAt d0 16 8, pre := 0, pfx := bitsAt d0 0 8, pin := 0, slb := bitsAt d1 40 8, pool := 0,
     sk := bitAt d2 63, src := bitsAt d2 0 63, last := 0 })

/-- An entry that breaks Table 20.1: a reserved bit, NSL, SLB or PFX, or a source. -/
def ertEntryBad (m : Memory) (pa : Nat) : Bool :=
  let d0 := m.read 8 pa
  let d1 := m.read 8 (pa + 8)
  let e := (ertEntryAt m pa).2
  bitsAt d0 24 4 != 0 || bitsAt d1 36 4 != 0 || e.nsl == 0 || e.slb == 0 || e.pfx == 0 || decide (e.nsl < e.pfx)
    || (!e.sk && (bitsAt e.src 52 11 != 0 || regionOf e.src != 2 || e.src % 65536 != 0))

/-- The entries of the array, none twice. -/
def ertEntries (m : Memory) (base n : Nat) : Option (SMap Ert) :=
  (List.range n).foldl (fun r k => r.bind (fun t =>
    let (key, e) := ertEntryAt m (base + 32 * k)
    if ertEntryBad m (base + 32 * k) || (SMap.find t key).isSome then none else some (SMap.set t key e))) (some [])

/-- The pool lies outside HBM, or meets a reservation, or is not in whole frames. DESIGN CHOICE (log entry 26). -/
def poolBad (base size : Nat) : Bool :=
  regionOf base != 0 || base % 65536 != 0 || size % 65536 != 0 || decide (Config.hbmLimit < base + size)
    || (List.range 8).any (fun k => meets base size (Config.stackBytes * (k + 1) - reservedBytes) reservedBytes)

/-- A task that declares an expert tensor has not ended. -/
def expertTask (s : State) : Bool :=
  s.fw.tasks.any (fun t => t.2.status != .ended && t.2.tensors.any (fun e => e.2.valid && e.2.expert))

/-- ERTCFG: no copy of an entry of the old table stays in an ERT cache. -/
def execErtcfg (s : State) : Host.Outcome State Fault Refusal :=
  command 11 s (fun s =>
    if expertTask s then finish s Cause.leaseBusy 0
    else if s.arg 2 = 0 ∨ 65536 < s.arg 2 ∨ poolBad (s.arg 3) (s.arg 4) then finish s Cause.ertCfg 0
    else match ertEntries s.mem (s.arg 1) (s.arg 2) with
    | none => finish s Cause.ertCfg 0
    | some t =>
      let reads := s.hub.qpairs.filter (fun p => decide (4 ≤ p.1))
      finish { s with hub := { s.hub with ert := t, poolBase := s.arg 3, poolSize := s.arg 4, pool := [], fetches := [], qpairs := reads },
                                dies := s.dies.map (fun d => (d.1, { d.2 with ertCache := [] })) } 0#16 0)

/-- What the dies have counted in a unit, together. -/
def mergedMonitor (s : State) (u e : Nat) : Monitor :=
  (List.range 4).foldl (fun m d => match SMap.find (s.die d).monitors u with
    | some x =>
      let one := if m.empty then x else if x.empty then m else { m with lo := Nat.min m.lo x.lo, hi := Nat.max m.hi x.hi }
      { one with bins := m.bins.zipWith (fun a b => Nat.min (a + b) 4294967295) x.bins }
    | none => m) (Monitor.cleared e)

/-- MONITOR: the first call binds the unit in dword 1 to the event in dword 2, on every die; a later one reads and clears it: the result
holds the minimum in [23:0] and the maximum in [47:24], the block the bins, two to a dword (DESIGN CHOICE, log entries 11 and 28). -/
def execMonitor (s : State) : Host.Outcome State Fault Refusal :=
  command 12 s (fun s =>
    let u := s.arg 1
    let e := s.arg 2
    if 64 ≤ u ∨ 8 ≤ e then finish s Cause.monArg 0
    else
      let bind := (List.range 4).foldl (fun s d => s.modDie d (fun x => { x with monitors := SMap.set x.monitors u (Monitor.cleared e) })) s
      match SMap.find (s.die 0).monitors u with
      | none => finish bind 0#16 0
      | some _ =>
        let m := mergedMonitor s u e
        let words := (List.range 8).map (fun k => BitVec.ofNat 64 (m.bins.getD (2 * k) 0 + 4294967296 * m.bins.getD (2 * k + 1) 0))
        finish { bind with fw := { bind.fw with block := words } } 0#16
          (Nat.min m.lo 16777215 + 16777216 * Nat.min m.hi 16777215))

/-- FUSEADV. -/
def execFuseadv (s : State) : Host.Outcome State Fault Refusal :=
  command 13 s (fun s =>
    if s.arg 1 ≤ s.fw.fuse ∨ 255 < s.arg 1 then finish s Cause.secFuse 0
    else finish { s with fw := { s.fw with fuse := s.arg 1 } } 0#16 0)

end Sys2Proof.Machine
end

