-- ==== Sys2Proof/Machine/Store.lean ====
section
/-! DEFINITION. Medlar stores and spill rings at work (R53, R54, R171): STORE_ACCEPT, STORE_ISSUE, STORE_ABORT, RING_SPILL and
RING_REFILL. -/

namespace Sys2Proof.Machine

/-! ## Periods -/

/-- Beats of a period: T, or what its BOUND names. -/
def Period.limit (o : Order) (p : Period) : Nat :=
  match p.blocks with
  | some n => if o.rag then n * o.block else o.t
  | none => o.t

/-- The period whose beats still arrive. -/
def Store.open? (st : Store) : Option Period :=
  match st.periods.getLast? with
  | some p => if p.closed then none else some p
  | none => none

/-- The store with its last period replaced. -/
def Store.setLast (st : Store) (p : Period) : Store := { st with periods := st.periods.dropLast ++ [p] }

/-- A period without beats. -/
def Period.empty : Period := { beats := [], blocks := none, pre := [], post := [], closed := false }

/-- Takes a producer beat. -/
def Store.addBeat (o : Order) (st : Store) (it : Item) : Store :=
  let grow := fun (p : Period) => { p with beats := p.beats ++ [it], closed := decide (p.limit o ≤ p.beats.length + 1) }
  let st1 := match st.open? with
    | some p => st.setLast (grow p)
    | none => { st with periods := st.periods ++ [grow Period.empty] }
  { st1 with a := st.a + 1 }

/-- A token behind the last period. -/
def Store.addPost (st : Store) (it : Item) : Store :=
  match st.periods.getLast? with
  | some p => st.setLast { p with post := p.post ++ [it], closed := true }
  | none => { st with periods := [{ Period.empty with post := [it], closed := true }] }

/-- A period boundary: no period is open, or a BOUND has opened one and no beat has come; with `blocks` a block boundary of a ragged
order will do (R54). -/
def Store.boundary (o : Order) (st : Store) (blocks : Bool) : Bool :=
  match st.open? with
  | none => true
  | some p => p.beats.isEmpty || (blocks && o.rag && p.beats.length % o.block == 0)

/-- A token that may stand where it does (R54); beats may stand anywhere. -/
def Store.allows (o : Order) (st : Store) (it : Item) : Bool :=
  match it with
  | .eos => st.boundary o true
  | .eor => st.boundary o true
  | .eok => st.boundary o false
  | .bound n => st.boundary o false && (!o.rag || decide (n ≤ o.nmax))
  | .abort _ => false
  | _ => true

/-- EOR and EOK: before the first beat of a period that a BOUND has opened they keep their place behind it; elsewhere they stand
behind the last period, which EOR cuts short at a block boundary. -/
def Store.addMark (st : Store) (it : Item) : Store :=
  match st.open? with
  | some p => if p.beats.isEmpty then st.setLast { p with pre := p.pre ++ [it] } else st.addPost it
  | none => st.addPost it

/-- A BOUND opens a period, or replaces the length of one that has no beat yet. -/
def Store.addBound (o : Order) (st : Store) (n : Nat) : Store :=
  match st.open? with
  | some p => st.setLast { p with blocks := some n, pre := p.pre ++ [.bound n], closed := o.rag && n == 0 }
  | none => { st with periods := st.periods ++ [{ Period.empty with blocks := some n, pre := [.bound n], closed := o.rag && n == 0 }] }

/-- Takes an item that may stand where it does. -/
def Store.accept (o : Order) (st : Store) (it : Item) : Store :=
  match it with
  | .eos => match st.open? with
    | some p => { st.setLast { p with closed := true } with ended := true }
    | none => { st with ended := true }
  | .bound n => st.addBound o n
  | .eor => st.addMark it
  | .eok => st.addMark it
  | _ => st.addBeat o it

/-! ## STORE_ACCEPT -/

/-- A channel changes within itself: a slot it frees counts as free from the next cycle on (R86), and an actor at either end may become
fireable. -/
def State.moveIn (s : State) (cl key : Nat) (f : Chan → Chan) : State := lookAround (s.modChan cl key (fun ch => (f ch).since s.now ch)) cl key

/-- The channel's oldest item leaves its tracks for the store. -/
def Chan.dropFront (ch : Chan) : Chan := { ch with items := ch.items.drop 1 }

/-- STORE_ACCEPT: a beat while a < c + δ, a token at once; the rest of a discarded phase goes. While a block of the pool is
still a victim's, the access waits (R177). -/
def execStoreAccept (cl port : Nat) (s : State) : Host.Outcome State Fault Refusal :=
  match (s.cluster cl).chan port with
  | none => .next s
  | some ch =>
    match ch.store, ch.items with
    | some st, it :: _ =>
      let set := fun (st : Store) => .next (s.moveIn cl port (fun ch => { ch.dropFront with store := some st }))
      if st.discard then set { st with discard := !it.ends }
      else if (s.cluster cl).poolBlocks.any (fun b => s.claimed cl (32 + b)) then .next s
      else if st.ended || !st.allows ch.op it then .next s
      else if !it.token && decide (st.c + st.delta ≤ st.a) then .next s
      else set (st.accept ch.op it)
    | _, _ => .next s

/-! ## STORE_ISSUE -/

/-- The value and the origin of an element of consumer beat t: none where it came from a DROP beat. -/
def periodElem (ch : Chan) (p : Period) (t l sub : Nat) : Option Nat :=
  let q := ch.op.pos (ch.oc.coords t l sub)
  match p.beats[q.t]? with
  | some (.data b) => some (beatElem b ch.op.ty q.l q.s)
  | _ => none

/-- Consumer beat t of a period: a DROP beat when every element came from one; elements from DROP beats are +0. -/
def periodBeat (ch : Chan) (p : Period) (t : Nat) : Item :=
  let es := ch.oc.cells.map (fun x => (x.1, x.2, periodElem ch p t x.1 x.2))
  let b := beatOf ch.oc.ty (es.map (fun e => (e.1, e.2.1, e.2.2.getD 0)))
  if es.all (fun e => e.2.2.isNone) then .drop b else .data b

/-- The period's beats may issue without waiting for a ≥ c + δ: the span has drained, after EOS or at a period that EOR cuts short
(R53). A period that its BOUND makes short and no EOR follows waits as any other does. DEDUCED (log entry 32). -/
def Store.drained (o : Order) (st : Store) (p : Period) : Bool :=
  st.ended || (p.closed && decide (p.beats.length < o.t) && p.post.contains .eor)

/-- Periods that are wholly out go. -/
def Store.trim (st : Store) : Store :=
  match st.periods with
  | p :: ps => if p.closed ∧ p.pre = [] ∧ p.post = [] ∧ p.beats.length ≤ st.issued then { st with periods := ps, issued := 0 } else st
  | [] => st

/-- The next item of a store, and the store without it. -/
def Store.next (ch : Chan) (st : Store) : Option (Item × Store) :=
  match st.periods with
  | [] => if st.ended then some (.eos, { st with a := 0, c := 0, issued := 0, ended := false }) else none
  | p :: ps =>
    match p.pre with
    | it :: rest => some (it, { st with periods := { p with pre := rest } :: ps })
    | [] =>
      if st.issued < p.beats.length ∨ !p.closed then
        if (decide (st.c + st.delta ≤ st.a) && decide (st.issued < (if p.closed then p.beats.length else ch.op.t))) || (st.drained ch.op p && decide (st.issued < p.beats.length)) then
          some (periodBeat ch p st.issued, { st with c := st.c + 1, issued := st.issued + 1 })
        else none
      else match p.post with
        | it :: rest => some (it, { st with periods := { p with post := rest } :: ps })
        | [] => none

/-- STORE_ISSUE: the next consumer beat or token, into a free slot of the consumer's end. DEDUCED (log entry 32). -/
def execStoreIssue (cl port : Nat) (s : State) : Host.Outcome State Fault Refusal :=
  match (s.cluster cl).chan port with
  | none => .next s
  | some ch =>
    match ch.store with
    | none => .next s
    | some st =>
      if Config.hopItems ≤ ch.out.length then .next s
      else match st.trim.next ch with
      | none => .next s
      | some (it, st1) => .next (s.moveIn cl port (fun ch => Chan.arrive { ch with store := some st1.trim } it))

/-- STORE_ABORT: an abort token, or a token out of place or a BOUND above the maximum, ends the phase: the store discards what
it holds and the rest of the phase, and emits one abort token. An abort token that arrives is itself the end of its phase, so nothing
behind it belongs to that phase. DEDUCED (log entry 32). -/
def execStoreAbort (cl port : Nat) (s : State) : Host.Outcome State Fault Refusal :=
  match (s.cluster cl).chan port with
  | none => .next s
  | some ch =>
    match ch.store, ch.items with
    | some st, it :: _ =>
      if st.discard || st.ended || st.allows ch.op it || decide (Config.hopItems ≤ ch.out.length) then .next s
      else
        let status := match it with
          | .abort c => c
          | _ => Cause.ordStream
        let st1 : Store := { st with periods := [], a := 0, c := 0, issued := 0, ended := false, discard := !it.ends }
        .next (s.moveIn cl port (fun ch => Chan.arrive { ch.dropFront with store := some st1 } (.abort status)))
    | _, _ => .next s

/-! ## The spill ring (R171) -/

/-- RING_SPILL: an item reaches the ring. -/
def execRingSpill (cl port : Nat) (s : State) : Host.Outcome State Fault Refusal :=
  .next (s.modChan cl port (fun ch => match ch.spilling with
    | it :: rest => if ch.ring.length < ch.ringSize then { ch with spilling := rest, ring := ch.ring ++ [it.2] } else ch
    | [] => ch))

/-- RING_REFILL: the oldest item of the ring takes a free track slot. -/
def execRingRefill (cl port : Nat) (s : State) : Host.Outcome State Fault Refusal :=
  .next (s.moveIn cl port (fun ch => match ch.ring with
    | it :: rest =>
      if ch.inTrack < ch.depth then
        Chan.refill { ch with ring := rest } it
      else ch
    | [] => ch))

end Sys2Proof.Machine
end

