-- ==== Sys2Proof/Machine/Tape.lean ====
section
/-! DEFINITION. The differentiable instructions of major $38 (R308 to R310). -/

namespace Sys2Proof.Machine

/-- A stream command on a differentiable tensor (R308). -/
def diffStream (s : State) (cl : Nat) (x : Cmd) : Bool := x.isPort && onDiff s cl x.gen

/-- What a switch of the mode waits for (R308); every earlier write of the sequencer with it. DEDUCED (log entry 38). -/
def switchReady (s : State) (cl : Nat) : Bool :=
  let c := s.cluster cl
  !c.running.any (fun r => diffStream s cl r.cmd) && !(c.queue 0).any (fun x => diffStream s cl x)
    && !c.portq.any (fun q => q.2.any (fun x => diffStream s cl x)) && !s.nmops.any (fun o => o.cl == cl)

/-- `dmode`: at the switch the cells to which the cluster has contributed take every contribution held for them (R306). DEDUCED (log
entry 38). -/
def execDmode (a : Reg) (s : State) : Host.Outcome State Fault Refusal :=
  instr 4 (fun cl ctx s => (rd cl ctx a s).bind (fun m s1 =>
    if 2 < m.toNat then tapeFault s1 cl Cause.tapeArg m
    else match releaseBy cl ctx true false s1 with
      | (s2, ok) =>
        let mine := fun (h : Held) => s2.held.any (fun g => g.cl == cl && g.pa == h.pa)
        if ok && switchReady s2 cl then
          match s2.heldError mine with
          | some c => .abort c
          | none => .ok .seq ((applyHeld s2 mine).modCluster cl (fun c => { c with dmode := m.toNat }))
        else .stallIn (if ok then s else (releaseBy cl ctx true false s).1))) s

/-- Every append, pop and restore of the cluster is performed. -/
def tapeIdle (s : State) (cl : Nat) : Bool :=
  !s.nmops.any (fun o => o.cl == cl && (match o.kind with | .taped .. => true | .mark .. => true | .restore .. => true | _ => false))

/-- `tape.base` links a segment. -/
def execTapeBase (a b : Reg) (s : State) : Host.Outcome State Fault Refusal :=
  instr 4 (fun cl ctx s => (rd2 cl ctx a b s).bind (fun (x, n) s =>
    (faultIf (decide (x.toNat % 128 ≠ 0)) Cause.seqAlign x.toNat s).bind (fun _ s =>
      if (s.cluster cl).lim < n.toNat then tapeFault s cl Cause.tapeArg x
      else if tapeIdle s cl then .ok .seq (s.modCluster cl (fun c => { c with tapebase := some x, tapeptr := n.toNat }))
      else .stall))) s

/-- `tape.lim`. -/
def execTapeLim (a : Reg) (s : State) : Host.Outcome State Fault Refusal :=
  instr 4 (fun cl ctx s => (rd cl ctx a s).bind (fun v s =>
    if v = 0#64 ∨ 4096 < v.toNat then tapeFault s cl Cause.tapeArg v
    else .ok .seq (s.modCluster cl (fun c => { c with tapelim := v.toNat })))) s

/-- A pending loss scale takes force with a new epoch; one equal to the scale in force is discarded (R310). -/
def applyScale (c : Cluster) : Cluster :=
  match c.lpend with
  | none => c
  | some v => if v = c.lscale then { c with lpend := none } else { c with lscale := v, lsepoch := c.lsepoch + 1#64, lpend := none }

/-- The header of record i: its PA, translated and checked. -/
def headerAt (cl i : Nat) (write : Bool) (s : State) : Res Nat :=
  (sqAddress cl (((s.cluster cl).tapebase.getD 0#64).toNat + 16 * i) 16 write s).bind (fun h s => .ok h.1 s)

/-- `tape.mark` in FWD: a mark record is appended, and a pending loss scale applied. -/
def markForward (cl ctx : Nat) (d : Reg) (v : Word) (s : State) : Res Next :=
  let c := s.cluster cl
  if c.tapebase.isNone then tapeFault s cl Cause.tapeArg v
  else if c.lim ≤ c.tapeptr then tapeFault s cl Cause.tapeFull v
  else (storeRoom cl ctx s).bind (fun _ s => (headerAt cl c.tapeptr true s).bind (fun h s =>
    (wr cl ctx d (BitVec.ofNat 64 c.tapeptr) s).bind (fun _ s =>
      let seq := (c.tapeseq + 1) % 16777216
      let s1 := s.modCluster cl (fun c => applyScale { c with tapeptr := c.tapeptr + 1, tapeseq := c.tapeseq + 1 })
      .ok .seq (postNm cl none (some ctx) h (.mark (markHeader (v.toNat % 4294967296) seq)) s1))))

/-- `tape.mark` in REV and REV.DET: the mark is popped and its tag read. -/
def markReverse (cl ctx : Nat) (d : Reg) (v : Word) (s : State) : Res Next :=
  let c := s.cluster cl
  if c.tapeptr = 0 then tapeFault s cl Cause.tapeEmpty v
  else (headerAt cl (c.tapeptr - 1) false s).bind (fun h s =>
    if !recordDone s cl h then .stall
    else (sqRead cl ctx h 16 true v.toNat s).bind (fun r s =>
      if headerKind r ≠ 1 then tapeFault s cl Cause.tapeOrder v
      else (wr cl ctx d (BitVec.ofNat 64 (headerTag r % 4294967296)) s).bind (fun _ s =>
        .ok .seq (s.modCluster cl (fun c => { c with tapeptr := c.tapeptr - 1 })))))

/-- `tape.mark`. DEDUCED (log entry 38). -/
def execTapeMark (d a : Reg) (s : State) : Host.Outcome State Fault Refusal :=
  instr 4 (fun cl ctx s => (illegalIf (isQueue d) s).bind (fun _ s => (rd cl ctx a s).bind (fun v s =>
    if (s.cluster cl).dmode = 0 then markForward cl ctx d v s else markReverse cl ctx d v s))) s

/-- `tape.rd` reads a dword of a header. -/
def execTapeRd (d a : Reg) (s : State) : Host.Outcome State Fault Refusal :=
  instr 4 (fun cl ctx s0 => (illegalIf (isQueue d) s0).bind (fun _ s => (rd cl ctx a s).bind (fun v s =>
    let k := v.toNat / 2
    let ptr := (s.cluster cl).tapeptr
    if !tapeIdle s cl then .stall
    else if ptr ≤ k then (wr cl ctx d 0#64 s).bind (fun _ s => .ok .seq s)
    else (headerAt cl (ptr - 1 - k) false s).bind (fun h s =>
      (sqRead cl ctx (h + 8 * (v.toNat % 2)) 8 true v.toNat s).bind (fun x s =>
        (wr cl ctx d (BitVec.ofNat 64 x) s).bind (fun _ s => .ok .seq (s0.keepBack cl ctx [d, a] s))))))) s

end Sys2Proof.Machine
end

