-- ==== Sys2Proof/Machine/Dispatch.lean ====
section
/-! DEFINITION. The meaning of every instruction and step: one arm per constructor of Instr. -/

namespace Sys2Proof.Machine

/-- The meaning of every instruction and step. -/
def exec (i : Instr) (s : State) : Host.Outcome State Fault Refusal :=
  match i with
  | .add d a b => Sys2Proof.Machine.execAdd d a b s
  | .sub d a b => Sys2Proof.Machine.execSub d a b s
  | .mul d a b => Sys2Proof.Machine.execMul d a b s
  | .mulh d a b => Sys2Proof.Machine.execMulh d a b s
  | .mulhu d a b => Sys2Proof.Machine.execMulhu d a b s
  | .div d a b => Sys2Proof.Machine.execDiv d a b s
  | .divu d a b => Sys2Proof.Machine.execDivu d a b s
  | .rem d a b => Sys2Proof.Machine.execRem d a b s
  | .remu d a b => Sys2Proof.Machine.execRemu d a b s
  | .and d a b => Sys2Proof.Machine.execAnd d a b s
  | .or d a b => Sys2Proof.Machine.execOr d a b s
  | .xor d a b => Sys2Proof.Machine.execXor d a b s
  | .andn d a b => Sys2Proof.Machine.execAndn d a b s
  | .shl d a b => Sys2Proof.Machine.execShl d a b s
  | .shr d a b => Sys2Proof.Machine.execShr d a b s
  | .sar d a b => Sys2Proof.Machine.execSar d a b s
  | .rol d a b => Sys2Proof.Machine.execRol d a b s
  | .min d a b => Sys2Proof.Machine.execMin d a b s
  | .minu d a b => Sys2Proof.Machine.execMinu d a b s
  | .max d a b => Sys2Proof.Machine.execMax d a b s
  | .maxu d a b => Sys2Proof.Machine.execMaxu d a b s
  | .slt d a b => Sys2Proof.Machine.execSlt d a b s
  | .sltu d a b => Sys2Proof.Machine.execSltu d a b s
  | .seq d a b => Sys2Proof.Machine.execSeq d a b s
  | .sne d a b => Sys2Proof.Machine.execSne d a b s
  | .clz d a => Sys2Proof.Machine.execClz d a s
  | .ctz d a => Sys2Proof.Machine.execCtz d a s
  | .popc d a => Sys2Proof.Machine.execPopc d a s
  | .sel d a b => Sys2Proof.Machine.execSel d a b s
  | .mov d a => Sys2Proof.Machine.execMov d a s
  | .neg d a => Sys2Proof.Machine.execNeg d a s
  | .addi d a imm => Sys2Proof.Machine.execAddi d a imm s
  | .andi d a imm => Sys2Proof.Machine.execAndi d a imm s
  | .ori d a imm => Sys2Proof.Machine.execOri d a imm s
  | .xori d a imm => Sys2Proof.Machine.execXori d a imm s
  | .shli d a sh => Sys2Proof.Machine.execShli d a sh s
  | .shri d a sh => Sys2Proof.Machine.execShri d a sh s
  | .sari d a sh => Sys2Proof.Machine.execSari d a sh s
  | .slti d a imm => Sys2Proof.Machine.execSlti d a imm s
  | .sltiu d a imm => Sys2Proof.Machine.execSltiu d a imm s
  | .lui d imm => Sys2Proof.Machine.execLui d imm s
  | .bfx d a x l p => Sys2Proof.Machine.execBfx d a x l p s
  | .bfi d a l p => Sys2Proof.Machine.execBfi d a l p s
  | .beq a b o => Sys2Proof.Machine.execBeq a b o s
  | .bne a b o => Sys2Proof.Machine.execBne a b o s
  | .blt a b o => Sys2Proof.Machine.execBlt a b o s
  | .bge a b o => Sys2Proof.Machine.execBge a b o s
  | .bltu a b o => Sys2Proof.Machine.execBltu a b o s
  | .bgeu a b o => Sys2Proof.Machine.execBgeu a b o s
  | .loop a o => Sys2Proof.Machine.execLoop a o s
  | .jmp o => Sys2Proof.Machine.execJmp o s
  | .jal o => Sys2Proof.Machine.execJal o s
  | .jr d a => Sys2Proof.Machine.execJr d a s
  | .fend => Sys2Proof.Machine.execFend s
  | .aexit => Sys2Proof.Machine.execAexit s
  | .ldb d a imm => Sys2Proof.Machine.execLdb d a imm s
  | .ldh d a imm => Sys2Proof.Machine.execLdh d a imm s
  | .ldw d a imm => Sys2Proof.Machine.execLdw d a imm s
  | .ldd d a imm => Sys2Proof.Machine.execLdd d a imm s
  | .stb d a imm => Sys2Proof.Machine.execStb d a imm s
  | .sth d a imm => Sys2Proof.Machine.execSth d a imm s
  | .stw d a imm => Sys2Proof.Machine.execStw d a imm s
  | .std d a imm => Sys2Proof.Machine.execStd d a imm s
  | .lds d a imm => Sys2Proof.Machine.execLds d a imm s
  | .sts d a imm => Sys2Proof.Machine.execSts d a imm s
  | .ldt d a b => Sys2Proof.Machine.execLdt d a b s
  | .pushm d a => Sys2Proof.Machine.execPushm d a s
  | .popm d a => Sys2Proof.Machine.execPopm d a s
  | .pf a imm => Sys2Proof.Machine.execPf a imm s
  | .cbw d h n => Sys2Proof.Machine.execCbw d h n s
  | .cbf d h n => Sys2Proof.Machine.execCbf d h n s
  | .cbadv h n => Sys2Proof.Machine.execCbadv h n s
  | .cbpub h n => Sys2Proof.Machine.execCbpub h n s
  | .cbld d h imm j => Sys2Proof.Machine.execCbld d h imm j s
  | .cbst d h imm j => Sys2Proof.Machine.execCbst d h imm j s
  | .tokEos h k => Sys2Proof.Machine.execTokEos h k s
  | .tokBnd d h => Sys2Proof.Machine.execTokBnd d h s
  | .tokCtl k a => Sys2Proof.Machine.execTokCtl k a s
  | .qbind q n => Sys2Proof.Machine.execQbind q n s
  | .fenceScope sh => Sys2Proof.Machine.execFenceScope sh s
  | .xfence p sh => Sys2Proof.Machine.execXfence p sh s
  | .semSig a b => Sys2Proof.Machine.execSemSig a b s
  | .semWge a b => Sys2Proof.Machine.execSemWge a b s
  | .semRd d a => Sys2Proof.Machine.execSemRd d a s
  | .gbarArr d a b => Sys2Proof.Machine.execGbarArr d a b s
  | .gbarWait a b => Sys2Proof.Machine.execGbarWait a b s
  | .gbarDrop a => Sys2Proof.Machine.execGbarDrop a s
  | .amo d a b o t => Sys2Proof.Machine.execAmo d a b o t s
  | .red a b o t => Sys2Proof.Machine.execRed a b o t s
  | .cas d a b t => Sys2Proof.Machine.execCas d a b t s
  | .pst d a b => Sys2Proof.Machine.execPst d a b s
  | .dmode a => Sys2Proof.Machine.execDmode a s
  | .tapeBase a b => Sys2Proof.Machine.execTapeBase a b s
  | .tapeLim a => Sys2Proof.Machine.execTapeLim a s
  | .tapeMark d a => Sys2Proof.Machine.execTapeMark d a s
  | .tapeRd d a => Sys2Proof.Machine.execTapeRd d a s
  | .ertQ d a => Sys2Proof.Machine.execErtQ d a s
  | .ertPin a => Sys2Proof.Machine.execErtPin a s
  | .ertUnpin a => Sys2Proof.Machine.execErtUnpin a s
  | .ertFetch a b => Sys2Proof.Machine.execErtFetch a b s
  | .ertEvict a => Sys2Proof.Machine.execErtEvict a s
  | .trap a => Sys2Proof.Machine.execTrap a s
  | .eret => Sys2Proof.Machine.execEret s
  | .csrr d c => Sys2Proof.Machine.execCsrr d c s
  | .csrw a c => Sys2Proof.Machine.execCsrw a c s
  | .icinv a b => Sys2Proof.Machine.execIcinv a b s
  | .tlbinv a b => Sys2Proof.Machine.execTlbinv a b s
  | .ldtsc d => Sys2Proof.Machine.execLdtsc d s
  | .tkill a => Sys2Proof.Machine.execTkill a s
  | .nop => Sys2Proof.Machine.execNop s
  | .halt => Sys2Proof.Machine.execHalt s
  | .li d c => Sys2Proof.Machine.execLi d c s
  | .lih d imm => Sys2Proof.Machine.execLih d imm s
  | .addli d c => Sys2Proof.Machine.execAddli d c s
  | .strM2s e => Sys2Proof.Machine.execStrM2s e s
  | .strS2p e => Sys2Proof.Machine.execStrS2p e s
  | .strM2p e => Sys2Proof.Machine.execStrM2p e s
  | .strP2m e => Sys2Proof.Machine.execStrP2m e s
  | .strP2s e => Sys2Proof.Machine.execStrP2s e s
  | .strS2m e => Sys2Proof.Machine.execStrS2m e s
  | .strM2pBm e => Sys2Proof.Machine.execStrM2pBm e s
  | .strP2mBm e => Sys2Proof.Machine.execStrP2mBm e s
  | .strInd e => Sys2Proof.Machine.execStrInd e s
  | .strSct e => Sys2Proof.Machine.execStrSct e s
  | .strCst e => Sys2Proof.Machine.execStrCst e s
  | .strRec e => Sys2Proof.Machine.execStrRec e s
  | .sbarSr e => Sys2Proof.Machine.execSbarSr e s
  | .sbarSw e => Sys2Proof.Machine.execSbarSw e s
  | .sbarM e => Sys2Proof.Machine.execSbarM e s
  | .sbarAll e => Sys2Proof.Machine.execSbarAll e s
  | .cp e => Sys2Proof.Machine.execCp e s
  | .cpMx e => Sys2Proof.Machine.execCpMx e s
  | .cpS e => Sys2Proof.Machine.execCpS e s
  | .mxLd e => Sys2Proof.Machine.execMxLd e s
  | .mxMmaBf16 e => Sys2Proof.Machine.execMxMmaBf16 e s
  | .mxMmaF16 e => Sys2Proof.Machine.execMxMmaF16 e s
  | .mxMmaE4m3 e => Sys2Proof.Machine.execMxMmaE4m3 e s
  | .mxMmaE5m2 e => Sys2Proof.Machine.execMxMmaE5m2 e s
  | .mxMmaE2m1 e => Sys2Proof.Machine.execMxMmaE2m1 e s
  | .mxMmaI8 e => Sys2Proof.Machine.execMxMmaI8 e s
  | .mxMmaI16 e => Sys2Proof.Machine.execMxMmaI16 e s
  | .mxSt e => Sys2Proof.Machine.execMxSt e s
  | .mxZero e => Sys2Proof.Machine.execMxZero e s
  | .coA2a e => Sys2Proof.Machine.execCoA2a e s
  | .coAg e => Sys2Proof.Machine.execCoAg e s
  | .coRs e => Sys2Proof.Machine.execCoRs e s
  | .coAr e => Sys2Proof.Machine.execCoAr e s
  | .coPut e => Sys2Proof.Machine.execCoPut e s
  | .coGet e => Sys2Proof.Machine.execCoGet e s
  | .coSig e => Sys2Proof.Machine.execCoSig e s
  | .dxInflate e => Sys2Proof.Machine.execDxInflate e s
  | .dxZstd e => Sys2Proof.Machine.execDxZstd e s
  | .dxLz4 e => Sys2Proof.Machine.execDxLz4 e s
  | .stoRd e => Sys2Proof.Machine.execStoRd e s
  | .configCommit cl ws => Sys2Proof.Machine.execConfigCommit cl ws s
  | .configFieldsApply cl => Sys2Proof.Machine.execConfigFieldsApply cl s
  | .storeRelease cl port => Sys2Proof.Machine.execStoreRelease cl port s
  | .ceFire cl ce => Sys2Proof.Machine.execCeFire cl ce s
  | .ceToken cl ce => Sys2Proof.Machine.execCeToken cl ce s
  | .ceEosEmit cl ce => Sys2Proof.Machine.execCeEosEmit cl ce s
  | .pipelineExit cl ce => Sys2Proof.Machine.execPipelineExit cl ce s
  | .skidDrain cl ce out => Sys2Proof.Machine.execSkidDrain cl ce out s
  | .storeAccept cl port => Sys2Proof.Machine.execStoreAccept cl port s
  | .storeIssue cl port => Sys2Proof.Machine.execStoreIssue cl port s
  | .storeAbort cl port => Sys2Proof.Machine.execStoreAbort cl port s
  | .ringSpill cl port => Sys2Proof.Machine.execRingSpill cl port s
  | .ringRefill cl port => Sys2Proof.Machine.execRingRefill cl port s
  | .firingStart cl => Sys2Proof.Machine.execFiringStart cl s
  | .icacheFill cl ctx => Sys2Proof.Machine.execIcacheFill cl ctx s
  | .seqBudget cl ctx => Sys2Proof.Machine.execSeqBudget cl ctx s
  | .trapActorFire cl => Sys2Proof.Machine.execTrapActorFire cl s
  | .queueFlitArrive k => Sys2Proof.Machine.execQueueFlitArrive k s
  | .agPhaseStart cl ag => Sys2Proof.Machine.execAgPhaseStart cl ag s
  | .agBeat cl ag => Sys2Proof.Machine.execAgBeat cl ag s
  | .bankGrant cl bank => Sys2Proof.Machine.execBankGrant cl bank s
  | .bankHandoff cl bank => Sys2Proof.Machine.execBankHandoff cl bank s
  | .controlTokenDeliver cl k => Sys2Proof.Machine.execControlTokenDeliver cl k s
  | .scoreboardRetire cl k => Sys2Proof.Machine.execScoreboardRetire cl k s
  | .engineStart cl q => Sys2Proof.Machine.execEngineStart cl q s
  | .completionPost cl id => Sys2Proof.Machine.execCompletionPost cl id s
  | .followOnEnqueue cl id => Sys2Proof.Machine.execFollowOnEnqueue cl id s
  | .loopFlitRetransmit k eh lo hi ec => Sys2Proof.Machine.execLoopFlitRetransmit k eh lo hi ec s
  | .qosFrameBoundary => Sys2Proof.Machine.execQosFrameBoundary s
  | .batchClose die => Sys2Proof.Machine.execBatchClose die s
  | .noticeSend die n => Sys2Proof.Machine.execNoticeSend die n s
  | .noticeApply die k => Sys2Proof.Machine.execNoticeApply die k s
  | .nmUpdate k => Sys2Proof.Machine.execNmUpdate k s
  | .semFrameReread stack => Sys2Proof.Machine.execSemFrameReread stack s
  | .semPollRetry cl ctx => Sys2Proof.Machine.execSemPollRetry cl ctx s
  | .hbmScrub stack bad => Sys2Proof.Machine.execHbmScrub stack bad s
  | .windowMove task tensor => Sys2Proof.Machine.execWindowMove task tensor s
  | .launchReady q => Sys2Proof.Machine.execLaunchReady q s
  | .dispatch => Sys2Proof.Machine.execDispatch s
  | .gangAnnounce pkg key objid rank ended => Sys2Proof.Machine.execGangAnnounce pkg key objid rank ended s
  | .preemption task cl => Sys2Proof.Machine.execPreemption task cl s
  | .claimUnit cl unit => Sys2Proof.Machine.execClaimUnit cl unit s
  | .resume task => Sys2Proof.Machine.execResume task s
  | .taskEnd task => Sys2Proof.Machine.execTaskEnd task s
  | .gangAbort task cause => Sys2Proof.Machine.execGangAbort task cause s
  | .expertFetch key => Sys2Proof.Machine.execExpertFetch key s
  | .poolAllocRetry key => Sys2Proof.Machine.execPoolAllocRetry key s
  | .sliceLanded key => Sys2Proof.Machine.execSliceLanded key s
  | .fetchFail key => Sys2Proof.Machine.execFetchFail key s
  | .brambleRelease die key => Sys2Proof.Machine.execBrambleRelease die key s
  | .useReport die => Sys2Proof.Machine.execUseReport die s
  | .linkRetry port good => Sys2Proof.Machine.execLinkRetry port good s
  | .hostSnoop pa => Sys2Proof.Machine.execHostSnoop pa s
  | .hostHdmAccess pa data => Sys2Proof.Machine.execHostHdmAccess pa data s
  | .powerOn defect => Sys2Proof.Machine.execPowerOn defect s
  | .throttle m => Sys2Proof.Machine.execThrottle m s
  | .hostRegWrite off data => Sys2Proof.Machine.execHostRegWrite off data s
  | .reset => Sys2Proof.Machine.execReset s
  | .query => Sys2Proof.Machine.execQuery s
  | .load => Sys2Proof.Machine.execLoad s
  | .unload => Sys2Proof.Machine.execUnload s
  | .lease => Sys2Proof.Machine.execLease s
  | .unlease => Sys2Proof.Machine.execUnlease s
  | .map => Sys2Proof.Machine.execMap s
  | .launch => Sys2Proof.Machine.execLaunch s
  | .preempt => Sys2Proof.Machine.execPreempt s
  | .kill => Sys2Proof.Machine.execKill s
  | .trapRpt => Sys2Proof.Machine.execTrapRpt s
  | .ertcfg => Sys2Proof.Machine.execErtcfg s
  | .monitor => Sys2Proof.Machine.execMonitor s
  | .fuseadv => Sys2Proof.Machine.execFuseadv s
  | .seqIllWord w => Sys2Proof.Machine.execSeqIllWord w s
  | .seqPcFallThrough => Sys2Proof.Machine.execSeqPcFallThrough s
  | .appliedAtHome k => Sys2Proof.Machine.execAppliedAtHome k s
  | .remotePackageAccess pkg pa op => Sys2Proof.Machine.execRemotePackageAccess pkg pa op s

end Sys2Proof.Machine
end

