-- ==== Sys2Proof/Machine/Step.lean ====
section
/-! DEFINITION. One step of the package: the agent that State.agenda names moves, or the sequencer at the cursor issues. -/

namespace Sys2Proof.Machine

/-- The sequencer of a cluster issues from a context, once the latencies of what the instruction reads have passed (R92, R138). -/
def stepIssue (s : State) (cl ctx : Nat) : Host.Outcome State Fault Refusal :=
  let due := fun (_ : Unit) => { s.upTo (s.readyAt cl ctx) with cur := (cl, ctx) }
  match fetch s cl ctx with
  | .idle => .next s
  | .budget => exec (.seqBudget cl ctx) s
  | .miss => .next (blockedOnMiss s cl ctx)
  | .illegal w => exec (.seqIllWord w) (due ())
  | .off => exec .seqPcFallThrough (due ())
  | .instr i => exec i (due ())

/-- The agent of a turn moves. What only a fetch executes is no turn of its own. DESIGN CHOICE (log entry 1). -/
def stepTurn (s : State) : Turn → Host.Outcome State Fault Refusal
  | .event i => if i.ofFetch then .next s else exec i s
  | .issue cl ctx => stepIssue s cl ctx
  | .engine cl id unit => .next (engineUnit s cl id unit)
  | .evictLine die line => .next (evictLine s die line)
  | .evictWalk die ptr k => .next (evictWalk s die ptr k)
  | .spoilLine line l2 => .next (spoilLine s line l2)
  | .evictCode cl line => .next (evictCode s cl line)
  | .prefetch cl line => .next (prefetchCode s cl line)
  | .inject load => .next (inject s load)
  | .link die l pos => .next (moveLink s die l pos)
  | .cross die b idx => .next (crossBridge s die b idx)
  | .fromHub die idx => .next (crossFromHub s die idx)
  | .land cl key => .next (landItem s cl key)
  | .hubSnoop line => .next (hubSnoop s line)
  | .hostAnswer line data => .next (hostAnswer s line data)
  | .sample die unit => .next (sampleUnit s die unit)
  | .softError e => .next (softError s e)
  | .devices ds => .next { s with hub := { s.hub with devices := ds } }
  | .defect => .next { s with fw := { s.fw with defect := true } }
  | .wait n => .next (s.upTo (s.now + n))

/-- One step. DESIGN CHOICE (log entry 1). -/
def step (s : State) : Host.Outcome State Fault Refusal :=
  match s.agenda with
  | [] => stepIssue s s.cur.1 s.cur.2
  | t :: rest => stepTurn { s with agenda := rest } t

/-- The state with an instruction stored where step fetches its next instruction. DESIGN CHOICE (log entry 14). -/
def State.withFetchWord (s : State) (nbits w : Nat) : State := placeWord s nbits w

end Sys2Proof.Machine
end

