-- ==== Sys2Proof/Safety.lean ====
section
/-! DEFINITION. What a safe step is, and the terms the statements use: a firing that may issue, what an instruction leaves
alone, the bytes that are on their way to memory, and the arithmetic of R139 and R140 as the manual's tables give it. -/

namespace Sys2Proof.Machine

/-! ## A safe step -/

/-- The step has a next state: the run ends in no fault and no refusal. -/
def State.steps (s : State) : Prop := ∃ t, step s = .next t

/-! ## A firing that may issue -/

/-- In `s` the firing `f`, in context `ctx` of cluster `cl`, may execute its next instruction, which executes in `s1`: its issue
slot has passed, and its budget runs from its first issue (R92, R95). -/
def Issues (s : State) (cl ctx : Nat) (f : Firing) (s1 : State) : Prop :=
  s.cur = (cl, ctx) ∧ s.firing cl ctx = some f ∧ f.ready = true ∧ s1 = issueState s cl ctx

/-- The firing goes on at a code address. -/
def State.pcTo (s : State) (cl ctx : Nat) (pc : Word) : State :=
  match s.firing cl ctx with
  | some f => s.setFiring cl ctx { f with pc := pc, waiting := false }
  | none => s

/-- The firing goes on at the target of a taken branch or a jump; its next instruction issues no earlier than two cycles later (R138). -/
def State.jumpTo (s : State) (cl ctx : Nat) (pc : Word) : State :=
  match s.firing cl ctx with
  | some f => s.setFiring cl ctx { f with pc := pc, waiting := false, resumeAt := s.now + 2 }
  | none => s

/-- The firing goes on past an instruction of `n` bytes. -/
def State.past (s : State) (cl ctx n : Nat) : State := s.pcTo cl ctx (pcOf cl ctx s + BitVec.ofNat 64 n)

/-- A register that a read neither empties nor waits for: every code of Table 4.9 but the message queues and the reserved ones. -/
def plainReg (r : Reg) : Bool := decide (r.toNat < 48) || r == 52#6

/-- What a read of a register gives, when it gives something. -/
def regValue (cl ctx : Nat) (r : Reg) (s : State) : Option Word :=
  match rd cl ctx r s with
  | .ok v _ => some v
  | _ => none

/-! ## What an instruction leaves alone -/

/-- The registers of a firing outside a list: s0 to s31, sp, and the keep registers of its slot. -/
def SameRegs (rs : List Reg) (s t : State) (cl : Nat) (f g : Firing) : Prop :=
  (∀ n, n < 32 → BitVec.ofNat 6 n ∉ rs → g.s[n]? = f.s[n]?) ∧ (52#6 ∉ rs → g.sp = f.sp) ∧
  (∀ n, n < 16 → BitVec.ofNat 6 (32 + n) ∉ rs → ((t.cluster cl).slot f.slot).k[n]? = ((s.cluster cl).slot f.slot).k[n]?)

/-- The firing keeps its slot, its WID, the trap it handles, and what it has done on its handles. -/
def SameFiring (f g : Firing) : Prop :=
  g.slot = f.slot ∧ g.wid = f.wid ∧ g.handling = f.handling ∧ g.epc = f.epc ∧ g.adv = f.adv ∧ g.pub = f.pub ∧ g.written = f.written

/-- The sticky flags of every element and of the matrix array (R41). -/
def SameFlags (c d : Cluster) : Prop :=
  d.flags = c.flags ∧ (∀ n, (d.ce n).flags = (c.ce n).flags) ∧ d.mx.flags = c.mx.flags

/-- The control registers and the registers behind them, the tape's pointer and sequence number apart: mode, tape segment, loss
scale, spill region and the indices of the WID. -/
def SameModes (c d : Cluster) : Prop :=
  d.dmode = c.dmode ∧ d.tapelim = c.tapelim ∧ d.tapebase = c.tapebase ∧ d.lscale = c.lscale ∧ d.lpend = c.lpend ∧
  d.lsepoch = c.lsepoch ∧ d.spill = c.spill ∧ d.owner = c.owner ∧ d.widDie = c.widDie ∧ d.widMacro = c.widMacro ∧
  d.widCluster = c.widCluster

/-- The same with the tape's pointer and sequence number. -/
def SameSpecial (c d : Cluster) : Prop := SameModes c d ∧ d.tapeptr = c.tapeptr ∧ d.tapeseq = c.tapeseq

/-- The other units of a cluster: configuration and its fault report, channels and pool blocks, elements, generators, tokens, scratchpad,
matrix array with its accumulators, and the engines. -/
def SameUnits (c d : Cluster) : Prop :=
  d.cfg = c.cfg ∧ d.pending = c.pending ∧ d.chans = c.chans ∧ d.ces = c.ces ∧ d.ags = c.ags ∧ d.tokens = c.tokens ∧
  d.spad = c.spad ∧ d.board = c.board ∧ d.mx = c.mx ∧ d.queues = c.queues ∧ d.portq = c.portq ∧ d.running = c.running ∧
  d.ctlFly = c.ctlFly ∧ d.starts = c.starts ∧ d.report = c.report ∧ d.poolBlocks = c.poolBlocks ∧ d.portEnd = c.portEnd ∧
  d.agMode = c.agMode ∧ d.handoffs = c.handoffs ∧ d.looping = c.looping

/-- What lies outside the clusters and the dies: memory, what is on its way there, barriers, the hub. -/
def SamePackage (s t : State) : Prop :=
  t.mem = s.mem ∧ t.poison = s.poison ∧ t.ecc = s.ecc ∧ t.net = s.net ∧ t.cancels = s.cancels ∧ t.settled = s.settled ∧
  t.stamps = s.stamps ∧ t.writers = s.writers ∧ t.hostLines = s.hostLines ∧ t.snoops = s.snoops ∧ t.inflight = s.inflight ∧ t.nmops = s.nmops ∧
  t.barriers = s.barriers ∧ t.adjTags = s.adjTags ∧ t.held = s.held ∧ t.bounce = s.bounce ∧ t.windows = s.windows ∧
  t.hub = s.hub ∧ t.peers = s.peers

/-- Every channel of the package. -/
def SameChans (s t : State) : Prop := ∀ k key, (t.cluster k).chan key = (s.cluster k).chan key

/-- Every other cluster. -/
def SameOthers (s t : State) (cl : Nat) : Prop := ∀ k, k ≠ cl → t.cluster k = s.cluster k

/-! ## What a firing's end moves (R93, R155) -/

/-- What a firing's end takes and publishes on the rate handles of its slot: each incoming handle advances to its rate and stops before EOS or
an abort token, each outgoing one publishes the slots up to its rate, one that was not written as zero. -/
def handlesMoved (s : State) (cl : Nat) (f : Firing) : State :=
  let c := s.cluster cl
  (c.rateHandles f.slot true).foldl (fun s h => sendItems s cl (portKey 0x20 h)
      ((List.range (c.slotRate f.slot h - f.pubOf h)).map (fun i => .data ((f.writtenAt h (f.pubOf h + i)).getD 0#1024))))
    ((c.rateHandles f.slot false).foldl (fun s h => takeItems s cl (portKey 0x20 h)
      (Nat.min (c.slotRate f.slot h - f.advOf h) (untilEnd ((s.cluster cl).handleItems h)))) s)

/-- What an actor's exit does on its rate handles: EOS leaves on every outgoing one, each incoming one discards up to EOS or an abort token. -/
def Exits (s t : State) (cl slot : Nat) : Prop :=
  ∃ u, SameChans (((s.cluster cl).rateHandles slot true).foldl (fun s h => sendItem s cl (portKey 0x20 h) .eos) s) u ∧
    SameChans (((s.cluster cl).rateHandles slot false).foldl (fun s h => discardPhase s cl (portKey 0x20 h)) u) t

/-- The drops of some actors at the barriers they have joined need not wait: none has joined one, or the release before them is complete. -/
def DropsReady (s : State) (cl ctx : Nat) (slots : List Nat) : Prop :=
  (∀ m ∈ slots, ((s.cluster cl).slot m).joins = []) ∨ (s.unseen cl ctx = [] ∧ (releaseBy cl ctx true false s).2 = true)

/-- The drops of an actor at every barrier it has joined, each with what its die has released. -/
def Dropped (s t : State) (cl slot : Nat) : Prop :=
  ∀ idx group last, SMap.find ((s.cluster cl).slot slot).joins idx = some (group, last) →
    t.barrier ((s.cluster cl).owner.getD 0, idx, group) =
      ({ s.barrier ((s.cluster cl).owner.getD 0, idx, group) with
        clock := clockMax (s.barrier ((s.cluster cl).owner.getD 0, idx, group)).clock ((s.die (dieOf cl)).releases (dieOf cl)) } : Barrier).drop last

/-- The firing `g` in context `k`, whose trap the firing `f` in context `ctx` handles, has ended with it: both contexts are free, both
firings counted, and what the first moved stands in `u`. -/
def TrappedEnds (s s1 t u : State) (cl ctx k : Nat) (f g : Firing) : Prop :=
  t.firing cl ctx = none ∧ t.firing cl k = none ∧ t.mem = s.mem ∧
  ((t.cluster cl).slot f.slot).firing = ((s.cluster cl).slot f.slot).firing + 1#64 ∧
  ((t.cluster cl).slot g.slot).firing = ((s.cluster cl).slot g.slot).firing + 1#64 ∧
  (((s.cluster cl).slot g.slot).ending = false → SameChans (handlesMoved s1 cl g) u ∧
    (((t.cluster cl).slot g.slot).status = .idle ∨ ((t.cluster cl).slot g.slot).status = .fireable)) ∧
  (((s.cluster cl).slot g.slot).ending = true → ((t.cluster cl).slot g.slot).status = .exited ∧
    ∃ w, SameChans (handlesMoved s1 cl g) w ∧ Exits w u cl g.slot)

/-! ## What an instruction writes -/

/-- Instructions that act on registers alone, with their destination registers. A `q` register as a destination sends a flit, and as
a source takes one. -/
def regOnly : Instr → Option (List Reg)
  | .add d _ _ | .sub d _ _ | .mul d _ _ | .mulh d _ _ | .mulhu d _ _ | .div d _ _ | .divu d _ _ | .rem d _ _ | .remu d _ _ => some [d]
  | .and d _ _ | .or d _ _ | .xor d _ _ | .andn d _ _ | .shl d _ _ | .shr d _ _ | .sar d _ _ | .rol d _ _ | .min d _ _ => some [d]
  | .minu d _ _ | .max d _ _ | .maxu d _ _ | .slt d _ _ | .sltu d _ _ | .seq d _ _ | .sne d _ _ | .sel d _ _ => some [d]
  | .clz d _ | .ctz d _ | .popc d _ | .mov d _ | .neg d _ => some [d]
  | .addi d _ _ | .andi d _ _ | .ori d _ _ | .xori d _ _ | .slti d _ _ | .sltiu d _ _ => some [d]
  | .shli d _ _ | .shri d _ _ | .sari d _ _ | .lui d _ | .bfx d _ _ _ _ | .bfi d _ _ _ => some [d]
  | .li d _ | .lih d _ | .addli d _ => some [d]
  | .beq .. | .bne .. | .blt .. | .bge .. | .bltu .. | .bgeu .. | .jmp _ => some []
  | .loop a _ => some [a]
  | .jr d _ => some [d]
  | .ldtsc d | .csrr d _ | .cbw d _ _ | .cbf d _ _ | .cbld d _ _ _ | .ertQ d _ => some [d]
  | .nop | .trap _ | .gbarWait .. | .fenceScope _ | .xfence .. | .qbind .. => some []
  | _ => none

/-- The registers d to a, and sp. -/
def poppedRegs (d a : Reg) : List Reg :=
  52#6 :: (List.range 48).filterMap (fun n => if d.toNat ≤ n ∧ n ≤ a.toNat then some (BitVec.ofNat 6 n) else none)

/-- Instructions that read memory or scratchpad and store nothing there, with their destination registers. -/
def loads : Instr → Option (List Reg)
  | .ldb d _ _ | .ldh d _ _ | .ldw d _ _ | .ldd d _ _ | .ldt d _ _ | .lds d _ _ | .semRd d _ | .tapeRd d _ => some [d]
  | .popm d a => some (poppedRegs d a)
  | .jal _ => some [31#6]
  | .pf .. | .semWge .. => some []
  | _ => none

/-- Instructions that change state beside the registers and store to no byte of memory in their step, with their destination
registers: channels, tokens, posted near-memory operations, barriers, experts and engine commands. -/
def posts (i : Instr) : Option (List Reg) :=
  match i with
  | .cbadv .. | .cbpub .. | .cbst .. | .tokEos .. | .tokBnd .. | .tokCtl .. => some []
  | .semSig .. | .gbarDrop _ | .red .. | .pst .. | .ertPin _ | .ertUnpin _ | .ertFetch .. | .ertEvict _ => some []
  | .icinv .. | .tlbinv .. => some []
  | .gbarArr d _ _ => some [d]
  | i => (commandCode i).map (fun _ => [])

/-! ## Bytes on their way to memory -/

/-- A byte of a posted write. -/
def MemReq.covers (r : MemReq) (a : Nat) : Bool := decide (r.pa ≤ a) && decide (a < r.pa + r.bytes.length)

/-- A byte that a near-memory operation may change: a taped write changes the bytes it names of its line, and an accumulate may scale
its whole frame (R311). -/
def NmOp.covers (o : NmOp) (a : Nat) : Bool :=
  match o.kind with
  | .taped bs h p _ => bs.any (fun b => o.pa + b.1 == a) || (decide (h ≤ a) && decide (a < h + 16)) || (decide (p ≤ a) && decide (a < p + 128))
  | .acc .. => o.pa / 65536 == a / 65536 || (decide (o.pa ≤ a) && decide (a < o.pa + 4))
  | _ => o.ranges.any (fun r => decide (r.1 ≤ a) && decide (a < r.1 + r.2))

/-- A byte that a held contribution may change. -/
def Held.covers (h : Held) (a : Nat) : Bool := h.pa / 65536 == a / 65536 || (decide (h.pa ≤ a) && decide (a < h.pa + 4))

/-- A byte that waits for a posted write, a near-memory operation or a held contribution of the package: reading may perform
what waits, and changes no other byte. -/
def State.awaits (s : State) (a : Nat) : Bool :=
  s.inflight.any (fun r => r.covers a) || s.nmops.any (fun o => o.covers a) || s.held.any (fun h => h.covers a)

/-! ## Firmware -/

/-- A command of the firmware has finished with a cause: BUSY is clear, the completion count has risen and the status word holds
the cause (R262). -/
def Finished (s t : State) (c : Cause) : Prop :=
  t.fw.busy = false ∧ t.fw.count = s.fw.count + 1#64 ∧ t.fw.status.extractLsb' 0 16 = c

/-- The state in which the streams of a dispatched task are committed: it has left its queue, runs, and has its clusters. -/
def beforeCommit (s : State) (q t : Nat) (x : Task) (ld : Loaded) (l : List (Nat × Nat × Nat)) : State :=
  let s1 := (dequeue s q t).setTask t { x with status := .running, started := s.now }
  takeClusters { s1 with fw := { s1.fw with served := SMap.set s1.fw.served x.cls q, reloc := l } } t x ld.obj.macros

/-- A task that an uncorrectable error is ending, or has ended. -/
def Aborted (t : State) (task : Nat) (c : Cause) : Prop :=
  ∃ y, t.task task = some y ∧ (y.aborting = some c ∨ (y.status = .ended ∧ y.endCause = c))

/-! ## The manual's arithmetic (R139, R140) -/

/-- The latency of the instructions that R138 makes slower than one cycle: of the result of a multiplication, and of a division. -/
def latency : Instr → Nat
  | .mul .. | .mulh .. | .mulhu .. => 4
  | .div .. | .divu .. | .rem .. | .remu .. => 66
  | _ => 1

/-- v of the three-operand rows of R139, as the manual words it. -/
def aluTable : List ((Reg → Reg → Reg → Instr) × (Word → Word → Word)) :=
  [(.add, fun x y => x + y), (.sub, fun x y => x - y), (.mul, fun x y => x * y),
   (.mulh, fun x y => (x.signExtend 128 * y.signExtend 128).extractLsb' 64 64),
   (.mulhu, fun x y => (x.zeroExtend 128 * y.zeroExtend 128).extractLsb' 64 64),
   (.div, fun x y => if y = 0#64 then BitVec.allOnes 64 else x.sdiv y),
   (.divu, fun x y => if y = 0#64 then BitVec.allOnes 64 else x.udiv y),
   (.rem, fun x y => if y = 0#64 then x else x.srem y), (.remu, fun x y => if y = 0#64 then x else x.umod y),
   (.and, fun x y => x &&& y), (.or, fun x y => x ||| y), (.xor, fun x y => x ^^^ y), (.andn, fun x y => x &&& ~~~y),
   (.shl, fun x y => x <<< (y &&& 63#64)), (.shr, fun x y => x >>> (y &&& 63#64)),
   (.sar, fun x y => x.sshiftRight' (y &&& 63#64)),
   (.rol, fun x y => (x <<< (y &&& 63#64)) ||| (x >>> (64#64 - (y &&& 63#64)))),
   (.min, fun x y => if x.slt y then x else y), (.minu, fun x y => if x.ult y then x else y),
   (.max, fun x y => if x.slt y then y else x), (.maxu, fun x y => if x.ult y then y else x),
   (.slt, fun x y => if x.slt y then 1#64 else 0#64), (.sltu, fun x y => if x.ult y then 1#64 else 0#64),
   (.seq, fun x y => if x = y then 1#64 else 0#64), (.sne, fun x y => if x = y then 0#64 else 1#64)]

/-! ## The stage operations (R19, R28 to R30, R102, R120, R123, R124) -/

/-- Operations of Tables 7.1 and 7.2 that read and write whole lanes: opcode, and result from a, b and c. -/
def wholeLaneTable : List (Nat × (Lane → Lane → Lane → Lane)) :=
  [(0x40, fun a b _ => a + b), (0x41, fun a b _ => a - b), (0x42, fun a b _ => a * b), (0x43, fun a b c => a * b + c),
   (0x44, fun a b _ => (a.signExtend 64 * b.signExtend 64).extractLsb' 32 32), (0x45, fun a b _ => if a.slt b then a else b),
   (0x46, fun a b _ => if a.slt b then b else a), (0x47, fun a b _ => if a.ult b then a else b), (0x48, fun a b _ => if a.ult b then b else a),
   (0x49, fun a _ _ => if a.slt 0#32 then 0#32 - a else a), (0x80, fun a b _ => a &&& b), (0x81, fun a b _ => a ||| b),
   (0x82, fun a b _ => a ^^^ b), (0x83, fun a b _ => a &&& ~~~b), (0x84, fun a _ _ => ~~~a), (0x85, fun a b _ => a <<< (b &&& 31#32)),
   (0x86, fun a b _ => a >>> (b &&& 31#32)), (0x87, fun a b _ => a.sshiftRight' (b &&& 31#32)),
   (0x88, fun a b _ => a.rotateLeft (b.toNat % 32)), (0x89, fun a b c => if c.getLsbD 0 then a else b),
   (0x8A, fun a b _ => if a = b then 1#32 else 0#32), (0x8B, fun a b _ => if a.slt b then 1#32 else 0#32),
   (0x8C, fun a b _ => if a.ult b then 1#32 else 0#32), (0x8E, fun a _ _ => a.clz), (0x91, fun a _ _ => a)]

/-- Operations of Table 7.1 on two subwords of 16 bits, each on its own. -/
def halfLaneTable : List (Nat × (BitVec 16 → BitVec 16 → BitVec 16 → BitVec 16)) :=
  [(0x4A, fun a b _ => a + b), (0x4D, fun a b _ => a * b), (0x4E, fun a b c => a * b + c),
   (0x50, fun a b c => let m := if a.slt b then b else a; if c.slt m then c else m),
   (0x51, fun a b _ => if a.ult b then a else b), (0x52, fun a b _ => if a.ult b then b else a)]

/-- Operations of Table 7.1 on four subwords of 8 bits, each on its own. -/
def byteLaneTable : List (Nat × (BitVec 8 → BitVec 8 → BitVec 8)) :=
  [(0x53, fun a b => a + b), (0x56, fun a b => ((a.zeroExtend 9 + b.zeroExtend 9 + 1#9) >>> 1).truncate 8)]

/-- The saturating operations on signed subwords of 16 bits, and on unsigned ones of 8: the exact result. -/
def satHalfTable : List (Nat × (Int → Int → Int → Int)) :=
  [(0x4B, fun a b _ => a + b), (0x4C, fun a b _ => a - b), (0x4F, fun a b c => a * b + c)]

def satByteTable : List (Nat × (Int → Int → Int)) := [(0x54, fun a b => a + b), (0x55, fun a b => a - b)]

/-- The exact forms of R102, each of which is rounded once. -/
def floatLaneTable : List (Nat × (Mode → Nat → FVal → FVal → FVal → Rounded)) :=
  [(0x01, fun m u x y _ => fadd Fmt.f32 m u x y), (0x02, fun m u x y _ => fadd Fmt.f32 m u x y.neg),
   (0x03, fun m u x y _ => fmul Fmt.f32 m u x y), (0x04, fun m u x y z => ffma Fmt.f32 m u x y z),
   (0x05, fun m u x y z => ffma Fmt.f32 m u x y z.neg), (0x06, fun m u x y z => ffma Fmt.f32 m u x.neg y z)]

/-- The six formats of Table 2.2. -/
def formats : List Fmt := [Fmt.f32, Fmt.bf16, Fmt.f16, Fmt.e5m2, Fmt.e4m3, Fmt.e2m1]

/-- 2^(bias + fraction bits) times the magnitude of an encoding without its sign (R19), as if the exponent had no upper bound. -/
def Fmt.mag (f : Fmt) (m : Nat) : Nat :=
  if m < 2 ^ f.fbits then 2 * m else (2 ^ f.fbits + m % 2 ^ f.fbits) * 2 ^ (m / 2 ^ f.fbits)

/-- Which of the neighbours m and m + 1 a magnitude takes, of which `v`, `lo` and `hi` are multiples: of itself and of the two (R28, R29). -/
def roundedNear (mode : Mode) (u : Nat) (neg : Bool) (m v lo hi : Nat) : Nat :=
  if v = lo then m else match mode % 8 with
    | 0 => if 2 * v < lo + hi then m else if lo + hi < 2 * v then m + 1 else if m % 2 = 0 then m else m + 1
    | 1 => m
    | 2 => if neg then m + 1 else m
    | 3 => if neg then m else m + 1
    | _ => if u * (hi - lo) < (v - lo) * 2 ^ 32 then m + 1 else m

/-- What an overflow gives (R30). -/
def overflowed (f : Fmt) (mode : Mode) (neg : Bool) : Nat :=
  let sign := if neg then 2 ^ (f.ebits + f.fbits) else 0
  let top := sign + f.maxBits
  let inf := if f.hasInf then sign + (2 ^ f.ebits - 1) * 2 ^ f.fbits else f.qnan
  if 8 ≤ mode % 16 ∨ f.hasNan = false then top
  else match mode % 8, neg with
    | 1, _ => top
    | 2, false => top
    | 3, true => top
    | _, _ => inf

/-- The number N · 2^E rounded once to a format: the nearer neighbour as the mode has it, inexact where it is not the number itself; beyond the
largest magnitude an overflow (R28 to R30). An exact zero has the sign given. -/
def RoundsTo (f : Fmt) (mode : Mode) (u : Nat) (zneg : Bool) (N E : Int) (r : Rounded) : Prop :=
  (N = 0 → r = { bits := if zneg then 2 ^ (f.ebits + f.fbits) else 0, flags := Flag.none }) ∧
  (N ≠ 0 → ∀ m k v lo hi, v = N.natAbs * 2 ^ E.toNat * 2 ^ (f.bias + f.fbits) → lo = f.mag m * 2 ^ (-E).toNat →
    hi = f.mag (m + 1) * 2 ^ (-E).toNat → lo ≤ v → v < hi → k = roundedNear mode u (decide (N < 0)) m v lo hi →
    (k ≤ f.maxBits → r.bits = (if N < 0 then 2 ^ (f.ebits + f.fbits) else 0) + k ∧ (v = lo → r.flags = Flag.none) ∧
      (v ≠ lo → r.flags &&& ~~~Flag.uf = Flag.ix)) ∧
    (f.maxBits < k → r.bits = overflowed f mode (decide (N < 0)) ∧ r.flags = Flag.of ||| Flag.ix))

/-- The ones of a word. -/
def ones (x : Word) : Nat := ((List.range 64).filter (fun k => x.getLsbD k)).length

/-- v of the unary rows. -/
def aluUnary : List ((Reg → Reg → Instr) × (Word → Word)) :=
  [(.clz, fun x => x.clz), (.ctz, fun x => x.ctz), (.popc, fun x => BitVec.ofNat 64 (ones x)),
   (.mov, fun x => x), (.neg, fun x => 0#64 - x)]

/-- The immediate instructions of Table 8.2 with a 14-bit immediate; i is sign-extended in each. -/
def immTable : List ((Reg → Reg → BitVec 14 → Instr) × (Word → Word → Word)) :=
  [(.addi, fun x i => x + i), (.andi, fun x i => x &&& i), (.ori, fun x i => x ||| i), (.xori, fun x i => x ^^^ i),
   (.slti, fun x i => if x.slt i then 1#64 else 0#64), (.sltiu, fun x i => if x.ult i then 1#64 else 0#64)]

/-- The immediate shifts. -/
def shiftTable : List ((Reg → Reg → BitVec 6 → Instr) × (Word → Nat → Word)) :=
  [(.shli, fun x n => x <<< n), (.shri, fun x n => x >>> n), (.sari, fun x n => x.sshiftRight n)]

/-- The conditions of R141. -/
def branchTable : List ((Reg → Reg → BitVec 14 → Instr) × (Word → Word → Bool) × BitVec 6) :=
  [(.beq, fun x y => x == y, 0x10#6), (.bne, fun x y => x != y, 0x11#6), (.blt, fun x y => x.slt y, 0x12#6),
   (.bge, fun x y => y.sle x, 0x13#6), (.bltu, fun x y => x.ult y, 0x14#6), (.bgeu, fun x y => y.ule x, 0x15#6)]

/-- Loads and stores of R146: the bytes each moves. -/
def loadTable : List ((Reg → Reg → BitVec 14 → Instr) × Nat) := [(.ldb, 1), (.ldh, 2), (.ldw, 4), (.ldd, 8)]
def storeTable : List ((Reg → Reg → BitVec 14 → Instr) × Nat) := [(.stb, 1), (.sth, 2), (.stw, 4), (.std, 8)]

/-! ## What an engine moves in one turn (R186, R192 to R199, R321 to R327) -/

/-- The state in which a unit of an engine's work begins, in a turn of its own. -/
def State.atWork (s : State) : State := { s with agenda := [], asked := none }

/-- The next turn moves unit u of the running command `r` of a cluster. -/
def AtWork (s : State) (cl id u : Nat) (r : Run) : Prop :=
  s.agenda = [.engine cl id u] ∧ (s.cluster cl).run id = some r ∧ r.done = false ∧ s.rides cl (4 + id) = false

/-- Memory, what is on its way there, and the cluster's scratchpad and matrix array are the same. -/
def SameData (s t : State) (cl : Nat) : Prop :=
  t.mem = s.mem ∧ t.inflight = s.inflight ∧ t.nmops = s.nmops ∧ t.bounce = s.bounce ∧
  (t.cluster cl).spad = (s.cluster cl).spad ∧ (t.cluster cl).mx = (s.cluster cl).mx

/-- The step leaves the data as in `v`, and unit u of n bytes counts as moved; after the last one `last` holds of the command. -/
def UnitMoved (s v : State) (cl id u n : Nat) (r : Run) (last : Run → Prop) : Prop :=
  ∃ t, step s = .next t ∧ SameData v t cl ∧ ∀ r0, (v.cluster cl).run id = some r0 → ∃ r1, (t.cluster cl).run id = some r1 ∧
    r1.did = r.did ++ [u] ∧ (r.did.length + 1 < r.n → r1.done = false ∧ r1.count = r.count + n) ∧ (r.n ≤ r.did.length + 1 → last r1)

/-- The step ends the command with a status, and moves no byte. -/
def UnitFails (s : State) (cl id : Nat) (r : Run) (c : Cause) : Prop :=
  ∃ t r1, step s = .next t ∧ SameData s t cl ∧ (t.cluster cl).run id = some r1 ∧ r1.done = true ∧ r1.status = c ∧ r1.count = r.count

/-- Engine accesses: the pieces of a range are its bytes in sequence, each within a line; a piece is translated, then read at its place; and a
piece to be written that no windowed tensor takes is posted there for its command (R183, R250). -/
def EngineAccess : Prop :=
  (∀ a n : Nat, (pieces a n).flatMap (fun p => (List.range p.2).map (p.1 + ·)) = (List.range n).map (a + ·) ∧
    ∀ p ∈ pieces a n, p.1 % 128 + p.2 ≤ 128) ∧
  (∀ (s s1 s2 : State) (cl va n : Nat) (x : Nat × Bool) (bs : List Byte), 0 < n → va % 128 + n ≤ 128 → sqAddress cl va n false s = .ok x s1 →
    lineRead cl x.1 n x.2 s1 = .ok bs s2 → engRead cl va n s = .ok bs s2) ∧
  (∀ (s s1 : State) (cl cls id va : Nat) (bytes : List Byte) (x : Nat × Bool), bytes ≠ [] → va % 128 + bytes.length ≤ 128 →
    sqAddress cl va bytes.length true s = .ok x s1 →
    ((cls ≠ 2 ∧ cls ≠ 4) ∨ ∀ t, s.taskOf cl = some t → t.inWindow va bytes.length = false) →
    ∃ s2 r, engWrite cl cls id va bytes s = .ok () s2 ∧ s2.mem = s1.mem ∧ s2.inflight = s1.inflight ++ [r] ∧ r.pa = x.1 ∧ r.bytes = bytes ∧
      r.cl = cl ∧ r.cmd = some id)

/-- R186, R192: a beat of a bulk read goes from memory to scratchpad, one of a bulk write from scratchpad to memory, and `str.cst` writes its
pattern; a fault ends the command once all before it has moved; a barrier completes with the commands it waits for. -/
def StreamMoves : Prop :=
  ∀ (s : State) (cl id u : Nat) (r : Run), AtWork s cl id u r →
    (r.cmd.cls = 0 → u ∉ r.did → u < r.n →
      (r.cmd.sub = 0 →
        (∀ bs s1 s2, engRead cl (r.cmd.a.toNat + 128 * u) 128 s.atWork = .ok bs s1 →
          s1.ask cl streamUnit (r.cmd.b.toNat + 128 * u) 128 s1.nextId id 0#64 = (s2, true) →
          UnitMoved s (spadWrite s2 cl (r.cmd.b.toNat + 128 * u) bs) cl id u 128 r (fun q => q.done = true ∧ q.status = r.status)) ∧
        (∀ f, engRead cl (r.cmd.a.toNat + 128 * u) 128 s.atWork = .trap f → r.upTo u = true → UnitFails s cl id r f.cause)) ∧
      (r.cmd.sub = 5 → ∀ s1 s2, s.atWork.ask cl streamUnit (r.cmd.b.toNat + 128 * u) 128 s.nextId id 0#64 = (s1, true) →
        engWrite cl 0 id (r.cmd.a.toNat + 128 * u) ((s1.cluster cl).spad.readBytes 128 (r.cmd.b.toNat + 128 * u)) s1 = .ok () s2 →
        UnitMoved s s2 cl id u 128 r (fun q => q.done = true ∧ q.status = r.status)) ∧
      (r.cmd.sub = 10 → bitAt r.cmd.cs 0 = true → ∀ s1, s.atWork.ask cl streamUnit (r.cmd.a.toNat + 128 * u) 128 s.nextId id 0#64 = (s1, true) →
        UnitMoved s (spadWrite s1 cl (r.cmd.a.toNat + 128 * u) (List.replicate 16 (bytesOfNat 8 r.cmd.b.toNat)).flatten) cl id u 128 r
          (fun q => q.done = true ∧ q.status = r.status)) ∧
      (r.cmd.sub = 10 → bitAt r.cmd.cs 0 = false → ∀ s1,
        engWrite cl 0 id (r.cmd.a.toNat + 128 * u) (List.replicate 16 (bytesOfNat 8 r.cmd.b.toNat)).flatten s.atWork = .ok () s1 →
        UnitMoved s s1 cl id u 128 r (fun q => q.done = true ∧ q.status = r.status))) ∧
    (r.cmd.cls = 1 →
      ((∃ w ∈ r.waits, ∃ y, (s.cluster cl).run w = some y ∧ s.completed cl y = false) → step s = .next s.atWork) ∧
      ((∀ w ∈ r.waits, ∀ y, (s.cluster cl).run w = some y → s.completed cl y = true) →
        ∃ t r1, step s = .next t ∧ (t.cluster cl).run id = some r1 ∧ r1.done = true ∧ r1.status = 0#16 ∧ SameData s t cl))

/-- The stream engine takes part in no round of R163: a bank that the scoreboard does not hold, and that is its task's own or free, is open to
it. Asking for scratchpad changes neither memory nor scratchpad. -/
def StreamGrant : Prop :=
  ∀ (s t : State) (cl unit a n made id : Nat) (pc : Word) (ok : Bool), s.ask cl unit a n made id pc = (t, ok) →
    SameData s t cl ∧ (unit = streamUnit → (s.cluster cl).wants = [] → ok = spadOpen s cl a n made)

/-- R194, R195: a piece of a `cp` goes from its source to its destination, and where the two overlap the pieces go from the end that the
destination lies beyond; a beat of a `cp.s`, or of the copy of a `cp.mx`, goes from memory into scratchpad. -/
def CopyMoves : Prop :=
  (∀ (s : State) (cl id u : Nat) (r : Run), AtWork s cl id u r → r.cmd.cls = 2 → u ∉ r.did →
    (∀ lo n, r.cmd.sub = 0 → (cpPieces r.cmd)[u]? = some (lo, n) →
      (∀ bs s1 s2, cpNext r = none ∨ cpNext r = some u → engRead cl (r.cmd.a.toNat + (lo - r.cmd.b.toNat)) n s.atWork = .ok bs s1 →
        engWrite cl 2 id lo bs s1 = .ok () s2 → UnitMoved s s2 cl id u n r (fun q => q.done = true ∧ q.status = r.status)) ∧
      (∀ k, cpNext r = some k → k ≠ u → step s = .next s.atWork)) ∧
    (u < r.n → ∀ src, (r.cmd.sub = 2 ∧ src = r.cmd.a.toNat) ∨ (r.cmd.sub = 1 ∧ r.aux = 1 ∧ src = entrySrc (natOfBytes r.buf)) →
      ∀ bs s1 s2, engRead cl (src + 128 * u) 128 s.atWork = .ok bs s1 →
        s1.ask cl copyUnit (r.cmd.b.toNat + 128 * u) 128 ((s.cluster cl).boardTime id s.nextId) id 0#64 = (s2, true) →
        UnitMoved s (spadWrite s2 cl (r.cmd.b.toNat + 128 * u) bs) cl id u 128 r
          (fun q => if r.cmd.sub = 2 then q.done = true ∧ q.status = 0#16 ∧ q.count = r.cmd.c.toNat else q.done = false ∧ q.aux = 2))) ∧
  (∀ (r : Run) (k : Nat), cpNext r = some k → k < r.n ∧ k ∉ r.did ∧
    ∀ j, j < r.n → j ∉ r.did → if r.cmd.a.toNat < r.cmd.b.toNat then j ≤ k else k ≤ j)

/-- Half k mod 2 of row k/2 of the buffer that an `mx.ld` fills is a beat; its other half, and its other rows, are as they were; with the last
half the buffer has the command's type (R197). -/
def LdHalf (m n : Mx) (r : Run) (b : Beat) : Prop :=
  let row := fun (m : Mx) j => SMap.get (m.buf (decide (r.aux = 1))).rows 0#2048 j
  (row n (r.k / 2)).extractLsb' (1024 * (r.k % 2)) 1024 = b ∧
  (row n (r.k / 2)).extractLsb' (1024 * (1 - r.k % 2)) 1024 = (row m (r.k / 2)).extractLsb' (1024 * (1 - r.k % 2)) 1024 ∧
  (∀ j, j ≠ r.k / 2 → row n j = row m j) ∧ n.acc = m.acc ∧ n.buf (!decide (r.aux = 1)) = m.buf (!decide (r.aux = 1)) ∧
  (r.k + 1 = r.n → (n.buf (decide (r.aux = 1))).ty = some r.cmd.mxTy)

/-- A row of A has been accumulated in its tile: each of its 128 elements is that of the sum with its column, on +0 where ZA begins a tile;
every other element is as it was, but for the +0 of ZA (R198). -/
def RowAccumulated (m n : Mx) (r : Run) (row sa : Nat) : Prop :=
  let x := r.cmd
  let w := m.buf m.active
  let old := fun k i j => if x.za && r.k % 128 == 0 && k == x.mxT + r.k / 128 then 0#32 else m.at k i j
  ∀ k i j, i < 128 → j < 128 → n.at k i j =
    if k = x.mxT + r.k / 128 ∧ i = r.k % 128 then
      (accElem x.mxTy row (SMap.get w.rows 0#2048 j).toNat x.kdim sa (SMap.get w.scales 0#512 j).toNat (old k i j)).1
    else old k i j

/-- R197 to R199: what a unit of `mx.ld`, `mx.mma.*` and `mx.st` moves: rows of B into a stationary buffer, rows of A into a tile, and beats of a
tile to port C or scratchpad. -/
def MatrixMoves : Prop :=
  ∀ (s : State) (cl id u : Nat) (r : Run) (c : Cluster), c = s.cluster cl → AtWork s cl id u r → r.cmd.cls = 3 →
    (r.cmd.sub = 0 →
      (∀ b, r.cmd.fetched c = false → (c.chan (portKey 0x21 1)).bind (fun ch => ch.seen.head?) = some (.data b) →
        ∃ t, step s = .next t ∧ LdHalf c.mx (t.cluster cl).mx r b ∧ SameChans (takeItems s cl (portKey 0x21 1) 1) t) ∧
      (∀ s1, r.cmd.fetched c = true → r.cmd.fromSpad = true →
        s.atWork.ask cl fetchUnit (r.cmd.b.toNat + 128 * r.k) 128 s.nextId id 0#64 = (s1, true) →
        ∃ t, step s = .next t ∧
          LdHalf (s1.cluster cl).mx (t.cluster cl).mx r (Beat.ofBytes ((s1.cluster cl).spad.readBytes 128 (r.cmd.b.toNat + 128 * r.k)))) ∧
      (∀ row s1, r.cmd.fetched c = true → r.cmd.fromSpad = false → r.cmd.mxTy ≠ 5 →
        tensorRow cl id r.cmd.tensorId r.cmd.k0 (r.cmd.n0 + r.k / 2) (kmax r.cmd.mxTy) s.atWork = .ok row s1 →
        ∃ t, step s = .next t ∧ SMap.get ((t.cluster cl).mx.buf (decide (r.aux = 1))).rows 0#2048 (r.k / 2) = BitVec.ofNat 2048 row ∧
          (t.cluster cl).mx.acc = (s1.cluster cl).mx.acc ∧ t.mem = s1.mem)) ∧
    (1 ≤ r.cmd.sub → r.cmd.sub ≤ 7 → r.aux ≠ 1 →
      (∀ b bs, r.cmd.fetched c = false → r.buf = bs → bs ≠ [] →
        (c.chan (portKey 0x21 0)).bind (fun ch => ch.seen.head?) = some (.data b) →
        ∃ t, step s = .next t ∧ RowAccumulated c.mx (t.cluster cl).mx r (natOfBytes bs + b.toNat * 2 ^ 1024) 0) ∧
      (∀ s1 bs, r.cmd.fetched c = true → r.cmd.fromSpad = true → r.buf = bs → bs ≠ [] →
        s.atWork.ask cl fetchUnit (r.cmd.b.toNat + 256 * r.k + 128) 128 s.nextId id 0#64 = (s1, true) →
        ∃ t, step s = .next t ∧ RowAccumulated (s1.cluster cl).mx (t.cluster cl).mx r
          (natOfBytes bs + (Beat.ofBytes ((s1.cluster cl).spad.readBytes 128 (r.cmd.b.toNat + 256 * r.k + 128))).toNat * 2 ^ 1024) 0) ∧
      (∀ row s1, r.cmd.fetched c = true → r.cmd.fromSpad = false →
        tensorRow cl id r.cmd.tensorId r.cmd.k0 (r.cmd.n0 + r.k) r.cmd.kdim s.atWork = .ok row s1 →
        (r.cmd.sub ≠ 5 → ∃ t, step s = .next t ∧ RowAccumulated (s1.cluster cl).mx (t.cluster cl).mx r row 0) ∧
        (∀ sc s2, r.cmd.sub = 5 → rowScales cl r.cmd.tensorId r.cmd.k0 (r.cmd.n0 + r.k) s1 = .ok sc s2 →
          ∃ t, step s = .next t ∧ RowAccumulated (s2.cluster cl).mx (t.cluster cl).mx r row sc))) ∧
    (r.cmd.sub = 8 → ∀ b per, per = rowBytes r.cmd.dst / 128 → b = (storeBeat c.mx r.cmd.mxT r.cmd.dst (r.k / per) (r.k % per)).1 →
      (∀ s1, r.cmd.toSpad = true → s.atWork.ask cl fetchUnit (r.cmd.b.toNat + 128 * r.k) 128 s.nextId id 0#64 = (s1, true) →
        ∃ t, step s = .next t ∧ (t.cluster cl).spad = (s1.cluster cl).spad.writeBytes (r.cmd.b.toNat + 128 * r.k) (Beat.toBytes b)) ∧
      (r.cmd.toSpad = false → s.hasFree cl (portKey 0x21 2) 1 = true →
        (r.k < r.n → ∃ t, step s = .next t ∧ SameChans (sendItem s.atWork cl (portKey 0x21 2) (.data b)) t) ∧
        (r.n ≤ r.k → ∃ t, step s = .next t ∧ SameChans (sendItem s.atWork cl (portKey 0x21 2) .eos) t ∧
          (∀ i j, r.cmd.swap = true → i < 128 → j < 128 → (t.cluster cl).mx.at r.cmd.mxT i j = 0#32))))

/-- R36 to R38, R199: the sum of a row and a column: of integers the exact sum, wrapped; of floats one group after another, each the exact sum of
its finite products rounded once and added with one rounding. A stored element is its accumulator times its band scales, rounded once; DST 8
stores it as it is. -/
def MatrixSums : Prop :=
  (∀ (ty row col kdim sa sb : Nat) (acc : Lane), ty = 6 ∨ ty = 7 → (accElem ty row col kdim sa sb acc).1 =
    BitVec.ofInt 32 (acc.toInt + ((List.range kdim).map (fun k =>
      asSigned (rowElem ty row k) (tyBits ty) * asSigned (rowElem ty col k) (tyBits ty))).sum)) ∧
  (∀ (ty row col n e sa sb : Nat) (acc : Lane), ty ∈ [1, 2, 3, 4] → 0 < e → e ≤ mxGroup ty → (accElem ty row col 0 sa sb acc).1 = acc ∧
    (accElem ty row col (mxGroup ty * n + e) sa sb acc).1 = BitVec.ofNat 32
      (fadd Fmt.f32 Mode.rne 0 (Fmt.f32.read (accElem ty row col (mxGroup ty * n) sa sb acc).1.toNat)
        (Fmt.f32.read (groupSum ty row col (mxGroup ty * n + e) (mxGroup ty * n)).bits)).bits) ∧
  (∀ (ty row col n e : Nat) (d : Dyad), ty ∈ [1, 2, 3, 4] → 0 < e → e ≤ mxGroup ty →
    (∀ k, mxGroup ty * n ≤ k → k < mxGroup ty * n + e → (∃ g m x, (mxFmt ty).read (rowElem ty row k) = .fin g m x) ∧
      ∃ g m x, (mxFmt ty).read (rowElem ty col k) = .fin g m x) →
    d = (List.range (mxGroup ty)).foldl (fun d k => Dyad.add d (if k < e then Dyad.mul ((mxFmt ty).read (rowElem ty row (mxGroup ty * n + k))).value
      ((mxFmt ty).read (rowElem ty col (mxGroup ty * n + k))).value else { n := 0, e := 0 })) { n := 0, e := 0 } →
    ∃ zneg, RoundsTo Fmt.f32 Mode.rne 0 zneg d.n d.e (groupSum ty row col (mxGroup ty * n + e) (mxGroup ty * n))) ∧
  (∀ (m : Mx) (tile i q j : Nat), j < 32 → (storeBeat m tile 8 i q).1.lane j = m.at tile i (32 * q + j) ∧
    (m.band.getD tile none = none →
      (storeBeat m tile 0 i q).1.lane j = BitVec.ofNat 32 (storeElem Fmt.f32 [] (m.at tile i (32 * q + j)).toNat).bits)) ∧
  (∀ (f : Fmt) (v : Nat) (bands : List Nat) (bs : List Dyad) (g : Bool) (k : Nat) (e : Int) (d : Dyad), f ∈ formats →
    Fmt.f32.read v = .fin g k e → (bands.filter (· != noBand)).mapM bandValue = some bs →
    d = Dyad.mul (dyad g k e) (bs.foldl Dyad.mul { n := 1, e := 0 }) → ∃ zneg, RoundsTo f Mode.rne 0 zneg d.n d.e (storeElem f bands v))

/-- R321 to R324: a block of a collective is built from what its members hold and written at its destination; a piece of a one-sided transfer
within the package is read and written, a record to every die that it names; `co.sig` adds to its semaphore. Reductions of INT32 are the wrapped
sum, and the greatest and the least. -/
def CollectiveMoves : Prop :=
  (∀ (s : State) (cl id u : Nat) (r : Run) (t : Task), AtWork s cl id u r → r.cmd.cls = 4 → s.taskOf cl = some t →
    (∀ c tid bs s1 s2, r.cmd.sub ≤ 3 → (s.cluster cl).owner = some tid → r.aux = 2 → r.coll t = some c →
      (c.others = [] ∨ s.hub.linkDown.length < 16) → u ∉ r.did → u < r.n →
      collBlock cl t c r.cmd (r.waits.headD 0) u s.atWork = .ok bs s1 → engWrite cl 4 id (r.cmd.c.toNat + 128 * u) bs s1 = .ok () s2 →
      UnitMoved s s2 cl id u 128 r (fun q => q.done = true ∧ q.status = r.status)) ∧
    (∀ off n bs s1 s2, (r.cmd.sub = 4 ∨ r.cmd.sub = 5) → r.aux = 1 → u ∉ r.did → (sidedPieces r.cmd)[u]? = some (off, n) →
      engRead cl (r.cmd.a.toNat + off) n s.atWork = .ok bs s1 →
      (if r.cmd.repl = true then Res.each (replPlaces (r.cmd.b.toNat + off) bs) () s1 (fun _ va s => engWrite cl 4 id va bs s)
        else engWrite cl 4 id (r.cmd.b.toNat + off) bs s1) = .ok () s2 →
      UnitMoved s s2 cl id u n r (fun q => q.done = true ∧ q.status = r.status)) ∧
    (∀ pa s1 s2, r.cmd.sub = 6 → coTarget s t r.cmd.coF5 = .own → nmAddress cl r.cmd.a.toNat 8 true s.atWork = .ok pa s1 →
      nmLine cl 4 none r.cmd.a.toNat pa 8 s1 = .ok () s2 →
      ∃ v o, step s = .next v ∧ o ∈ v.nmops ∧ o.pa = pa ∧ o.kind = .sig r.cmd.b ∧ v.mem = s2.mem)) ∧
  (∀ (s : State) (cl : Nat) (t : Task) (c : Coll) (x : Cmd) (k u : Nat) (bs : List Byte) (s1 : State),
    (∀ i, i = 128 * u / c.s → (x.sub = 0 ∨ x.sub = 1) → i = c.rank →
      engRead cl (x.b.toNat + ((if x.sub = 0 then c.rank * c.s else 0) + 128 * u % c.s)) 128 s = .ok bs s1 → collBlock cl t c x k u s = .ok bs s1) ∧
    (∀ i p, i = 128 * u / c.s → (x.sub = 0 ∨ x.sub = 1) → i ≠ c.rank → peerOf s t c k i = some p →
      bs = (p.src.drop ((if x.sub = 0 then c.rank * c.s else 0) + 128 * u % c.s)).take 128 → bs.length = 128 →
      collBlock cl t c x k u s = .ok bs s)) ∧
  (∀ (xs : List Nat), xs ≠ [] → (∀ x ∈ xs, x < 2 ^ 32) → reduceElem 8 0 xs = xs.sum % 2 ^ 32 ∧
    reduceElem 8 1 xs ∈ xs ∧ reduceElem 8 2 xs ∈ xs ∧
    ∀ x ∈ xs, asSigned x 32 ≤ asSigned (reduceElem 8 1 xs) 32 ∧ asSigned (reduceElem 8 2 xs) 32 ≤ asSigned x 32) ∧
  (∀ (va place : Nat) (bs : List Byte), place ∈ replPlaces va bs ↔
    ∃ d, d < 4 ∧ (natOfBytes (bs.take 8) / 2 ^ (16 * d)) % 65536 ≠ 0 ∧ place = va + 16777216 * d)

/-- R325 to R327: `sto.rd` brings 128 bytes of its blocks to its destination, or keeps them for the command that its chain feeds; a `dx.*` reads
its input piece by piece, decompresses it once it is whole, and writes its output piece by piece. -/
def StorageMoves : Prop :=
  (∀ (s : State) (cl id u : Nat) (r : Run), AtWork s cl id u r → r.cmd.cls = 5 →
    (r.cmd.sub = 3 → u < r.n →
      (∀ v, r.cmd.chain = false → u ∉ r.did → dxWrite cl r (r.cmd.a.toNat + 128 * u) (blockBytes s r.cmd u) s.atWork = .ok () v →
        UnitMoved s v cl id u 128 r (fun q => q.done = true ∧ q.status = 0#16)) ∧
      (r.cmd.chain = true → r.aux = 0 → u = r.did.length → ∃ t q, step s = .next t ∧ (t.cluster cl).run id = some q ∧
        q.buf = r.buf ++ blockBytes s r.cmd u ∧ q.did = r.did ++ [u] ∧ q.aux = (if r.n ≤ r.did.length + 1 then 2 else 0) ∧ SameData s t cl)) ∧
    (r.cmd.sub < 3 →
      (∀ a n bs s1, r.aux = 0 → (pieces r.cmd.a.toNat r.cmd.dxLen)[r.k]? = some (a, n) → engRead cl a n s.atWork = .ok bs s1 →
        ∃ t, step s = .next t ∧ SameData s1 t cl ∧ ∀ q, (s1.cluster cl).run id = some q →
          (t.cluster cl).run id = some { q with k := q.k + 1, buf := q.buf ++ bs }) ∧
      (∀ out st, r.aux = 0 → (pieces r.cmd.a.toNat r.cmd.dxLen)[r.k]? = none →
        decompress r.cmd.sub r.cmd.zlib r.buf r.cmd.dxCap = (out, st) →
        ∃ t, step s = .next t ∧ SameData s t cl ∧
          (t.cluster cl).run id = some { r with aux := 1, k := 0, n := out.length, buf := out, waits := [st.toNat], did := [] }) ∧
      (∀ n v, r.aux = 1 → r.k < r.n → n = Nat.min (r.n - r.k) (128 - (r.cmd.dxDst + r.k) % 128) →
        dxWrite cl r (r.cmd.dxDst + r.k) ((r.buf.drop r.k).take n) s.atWork = .ok () v →
        ∃ t, step s = .next t ∧ SameData v t cl ∧ ∀ q, (v.cluster cl).run id = some q → (t.cluster cl).run id = some { q with k := q.k + n }) ∧
      (∀ st, r.aux = 1 → r.n ≤ r.k → r.waits = [st] → ∃ t q, step s = .next t ∧ SameData s t cl ∧ (t.cluster cl).run id = some q ∧
        q.done = true ∧ q.status = BitVec.ofNat 16 st ∧ q.count = r.k))) ∧
  (∀ (s s1 : State) (cl : Nat) (r : Run) (va : Nat) (bs : List Byte),
    (r.cmd.dxSpad = true → s.ask cl copyUnit va bs.length ((s.cluster cl).boardTime r.cmd.id s.nextId) r.cmd.id 0#64 = (s1, true) →
      dxWrite cl r va bs s = .ok () (spadWrite s1 cl va bs)) ∧
    (r.cmd.dxSpad = false → dxWrite cl r va bs s = engWrite cl 5 r.cmd.id va bs s)) ∧
  (∀ (s : State) (x : Cmd) (u : Nat) (ns : Nvme), SMap.find s.hub.namespaces x.nsHandle = some ns →
    blockBytes s x u = ns.data.readBytes 128 (4096 * x.lba + 128 * u))

end Sys2Proof.Machine
end

