-- ==== Sys2Proof/Certificates/Slice0/Obligations.lean ====
section
/-! DEFINITION. The statements for the provers. A statement about an instruction of the sequencer reads its operands with `rd` and
writes its result with `wr`, so that it holds for every register code: `RegisterRead` and `RegisterWrite` say what those do. -/

open Sys2Proof Sys2Proof.Machine

/-! ## Decoding and the step -/

/-- R78, R138, and the package as a whole: every step has a next state. No instruction, no event and no data end a run. That an agent
with nothing to do leaves the state as it is, and who moves next, are the model's choices (log entries 1 and 5). -/
def Obligations.EveryStepGoesOn : Prop := ∀ s : State, s.steps

/-- R92, R98, R138: the step of an issue turn executes the instruction that the bytes at the program counter decode to, and the step of a
machine with an empty agenda is the issue of the context at the cursor; time has gone on to the cycle from which that instruction may issue.
A miss, a word that is no instruction, a program counter outside the code and a spent budget are the other outcomes of a fetch. The agenda and
the cursor are the model's (log entries 1 and 14). A fetch finds an instruction where the firing may issue, no other firing's turn comes first,
and its budget lasts or it is a `gbar.arr` that has begun to act. R138: no instruction issues before the cycle in which each register that it
reads has what a slower instruction wrote, nor within two cycles after a taken branch or a jump; `slow` and `jumpTo` are what those leave. -/
def Obligations.StepRunsDecoded : Prop :=
  (∀ s cl ctx rest i, s.agenda = .issue cl ctx :: rest → fetch { s with agenda := rest } cl ctx = .instr i →
    step s = exec i { ({ s with agenda := rest } : State).upTo (({ s with agenda := rest } : State).readyAt cl ctx) with cur := (cl, ctx) }) ∧
  (∀ s cl ctx i, s.agenda = [] → s.cur = (cl, ctx) → fetch s cl ctx = .instr i → step s = exec i (s.upTo (s.readyAt cl ctx))) ∧
  (∀ s i rest, s.agenda = .event i :: rest → i.ofFetch = false → step s = exec i { s with agenda := rest }) ∧
  (∀ s cl ctx f bs i more, s.firing cl ctx = some f → f.ready = true → inTurn s cl ctx (s.nextIssue cl ctx) = true →
    s.rides cl ctx = false → (f.spent (s.nextIssue cl ctx) (s.cluster cl).budget = false ∨ (s.cluster cl).acting ctx = true) →
    pcOk s cl f.pc = true → icacheWord (s.cluster cl) f.pc.toNat = some bs → bs.length = 4 → decode bs = .ok (i, more) →
    fetch s cl ctx = .instr i) ∧
  (∀ s cl ctx f b0 b1 b2 b3 second i more, s.firing cl ctx = some f → f.ready = true →
    inTurn s cl ctx (s.nextIssue cl ctx) = true → s.rides cl ctx = false →
    (f.spent (s.nextIssue cl ctx) (s.cluster cl).budget = false ∨ (s.cluster cl).acting ctx = true) →
    pcOk s cl f.pc = true → pcOk s cl (f.pc + 4#64) = true →
    icacheWord (s.cluster cl) f.pc.toNat = some [b0, b1, b2, b3] → hasTwoWords (word32 b0 b1 b2 b3) = true →
    icacheWord (s.cluster cl) (f.pc.toNat + 4) = some second → decode (b0 :: b1 :: b2 :: b3 :: second) = .ok (i, more) →
    fetch s cl ctx = .instr i) ∧
  (∀ s cl ctx f i, s.firing cl ctx = some f → peek s cl f.pc = .instr i → s.slotTime cl ≤ s.nextIssue cl ctx ∧
    f.resumeAt ≤ s.nextIssue cl ctx ∧ (∀ r ∈ Instr.sources i, SMap.get f.late 0 r.toNat ≤ s.nextIssue cl ctx)) ∧
  (∀ (s : State) (cl ctx : Nat) (f : Firing) (d : Reg) (n : Nat), s.firing cl ctx = some f → 1 < n → plainReg d = true → d ≠ 0#6 →
    ∃ g, (s.slow cl ctx d n).firing cl ctx = some g ∧ SMap.get g.late 0 d.toNat = s.now + n ∧ g.s = f.s ∧ g.pc = f.pc) ∧
  (∀ (s : State) (cl ctx : Nat) (f : Firing) (pc : Word), s.firing cl ctx = some f →
    ∃ g, (s.jumpTo cl ctx pc).firing cl ctx = some g ∧ g.resumeAt = s.now + 2 ∧ g.pc = pc)

/-- Words written out from the encodings of spec/04_formats.md and spec/08_sequencer.md, with the instructions they stand for. -/
def Obligations.DecodeWords : Prop :=
  decodeTableWord 32 0x00304200 = some (.add 3#6 1#6 2#6) ∧
  decodeTableWord 32 0x04517FFF = some (.addi 5#6 5#6 0x3FFF#14) ∧
  decodeTableWord 32 0x58903FFD = some (.loop 9#6 0x3FFD#14) ∧
  decodeTableWord 32 0x88414010 = some (.ldw 4#6 5#6 16#14) ∧
  decodeTableWord 32 0xA8414600 = some (.ldt 4#6 5#6 6#6) ∧
  decodeTableWord 32 0xAC41C000 = some (.pushm 4#6 7#6) ∧
  decodeTableWord 32 0xC0700200 = some (.cbw 7#6 0#4 2#8) ∧
  decodeTableWord 32 0xC0001808 = some (.tokCtl false 24#5) ∧
  decodeTableWord 32 0x68000000 = some .fend ∧
  decodeTableWord 32 0xE8030007 = some (.tkill 12#6) ∧
  decodeTableWord 64 0x3456789AFC400012 = some (.li 4#6 0x123456789A#44) ∧
  decodeTableWord 32 0xFC000000 = some (.li 0#6 0#44) ∧
  decodeTableWord 32 0x00304201 = some (.sub 3#6 1#6 2#6) ∧
  decodeTableWord 32 0x003D4200 = none

/-- R73 to R78, R180: for every instruction that a word may hold, decoding its bytes gives the instruction back, whatever follows
them. -/
def Obligations.DecodeEncode : Prop :=
  ∀ (i : Instr) (rest : List Byte), i.wf = true → encode i ≠ [] → decode (encodeBytes i ++ rest) = .ok (i, rest)

/-- R73 to R78: the other direction. What the decoder accepts is well formed, and its encoding is the bytes that were read. -/
def Obligations.EncodeDecode : Prop :=
  ∀ (bs rest : List Byte) (i : Instr), decode bs = .ok (i, rest) → i.wf = true ∧ bs = encodeBytes i ++ rest

/-! ## Memory -/

/-- Log entry 3, R241: the memory of the package keeps its canonical form over every step, so that equal memories are equal
data. -/
def Obligations.MemoryStaysCanonical : Prop :=
  ∀ s t : State, s.mem.wf = true → step s = .next t → t.mem.wf = true

/-- The canonical form holds after reset. What an unlisted address reads as is the model's choice (log entry 3). -/
def Obligations.ResetMemoryCanonical : Prop := State.reset.mem.wf = true

/-! ## Registers (R74, R97) -/

/-- Table 4.9, the Read column. s0 reads as zero; the other s, k and sp registers read as their values and change nothing; a message
queue gives its oldest flit, blocks while it has none, and raises SEQ.QUEUE while it is not bound; the reserved codes raise
SEQ.ILL. -/
def Obligations.RegisterRead : Prop :=
  ∀ (s : State) (cl ctx : Nat) (f : Firing) (r : Reg), s.firing cl ctx = some f →
    (r = 0#6 → rd cl ctx r s = .ok 0#64 s) ∧
    (0 < r.toNat ∧ r.toNat < 32 → rd cl ctx r s = .ok ((f.s[r.toNat]?).getD 0#64) s) ∧
    (32 ≤ r.toNat ∧ r.toNat < 48 → rd cl ctx r s = .ok (((((s.cluster cl).slot f.slot).k)[r.toNat - 32]?).getD 0#64) s) ∧
    (r = 52#6 → rd cl ctx r s = .ok f.sp s) ∧
    (53 ≤ r.toNat → rd cl ctx r s = .trap (trapOf Cause.seqIll 0#64)) ∧
    (48 ≤ r.toNat ∧ r.toNat < 52 →
      (SMap.find ((s.cluster cl).slot f.slot).binds (r.toNat - 48) = none → rd cl ctx r s = .trap (trapOf Cause.seqQueue 0#64)) ∧
      (∀ b, SMap.find ((s.cluster cl).slot f.slot).binds (r.toNat - 48) = some b →
        (SMap.get (s.cluster cl).qbufs [] (4 * f.slot + (r.toNat - 48)) = [] → rd cl ctx r s = .stall) ∧
        (∀ v rest, SMap.get (s.cluster cl).qbufs [] (4 * f.slot + (r.toNat - 48)) = v :: rest →
          ∃ t, rd cl ctx r s = .ok v t ∧ SMap.get (t.cluster cl).qbufs [] (4 * f.slot + (r.toNat - 48)) = rest ∧
            t.flits = s.flits ∧ SamePackage s t ∧ SameOthers s t cl ∧ SameUnits (s.cluster cl) (t.cluster cl) ∧
            (t.cluster cl).claims = (s.cluster cl).claims ∧ SameSpecial (s.cluster cl) (t.cluster cl) ∧ t.firing cl ctx = some f ∧
            (∀ m, (t.cluster cl).slot m = (s.cluster cl).slot m))))

/-- Table 4.9, the Write column, for the codes that hold a value: the register takes it, every other register keeps its own, and
nothing else changes. A write to s0 is discarded. A write to a message queue sends one flit to where it is bound, blocks while
four wait there, and raises SEQ.QUEUE while it is not bound; the reserved codes raise SEQ.ILL. That the four are those in the receive buffer
and those on their way to it is log entry 48: R97 says nothing of flits on their way. -/
def Obligations.RegisterWrite : Prop :=
  ∀ (s : State) (cl ctx : Nat) (f : Firing) (r : Reg) (v : Word), s.firing cl ctx = some f →
    (r = 0#6 → wr cl ctx r v s = .ok () s) ∧
    (plainReg r = true ∧ r ≠ 0#6 → ∃ t g, wr cl ctx r v s = .ok () t ∧ t.firing cl ctx = some g ∧ regValue cl ctx r t = some v ∧
      SameRegs [r] s t cl f g ∧ SameFiring f g ∧ g.pc = f.pc ∧ SamePackage s t ∧ SameOthers s t cl ∧
      SameUnits (s.cluster cl) (t.cluster cl) ∧ (t.cluster cl).claims = (s.cluster cl).claims ∧
      SameSpecial (s.cluster cl) (t.cluster cl) ∧ t.flits = s.flits) ∧
    (53 ≤ r.toNat → wr cl ctx r v s = .trap (trapOf Cause.seqIll 0#64)) ∧
    (48 ≤ r.toNat ∧ r.toNat < 52 →
      (SMap.find ((s.cluster cl).slot f.slot).binds (r.toNat - 48) = none → wr cl ctx r v s = .trap (trapOf Cause.seqQueue 0#64)) ∧
      (∀ b, SMap.find ((s.cluster cl).slot f.slot).binds (r.toNat - 48) = some b →
        (4 ≤ s.queued b → wr cl ctx r v s = .stall) ∧
        (s.queued b < 4 → wr cl ctx r v s = .ok () { s with flits := s.flits ++
          [{ fromCl := cl, fromSlot := f.slot, toCl := b.cl, toSlot := b.slot, qn := b.qn, v := v }] })))

/-! ## Scalar arithmetic (R139, R140, R160) -/

/-- R139: once its sources are read and its result is written, an ALU instruction goes on at pc + 4; v is the row's value. What reads the
result of a multiplication issues four cycles later at the earliest, of a division 66 (R138). `sel` reads d as well, and raises SEQ.ILL where d is a message queue. -/
def Obligations.AluResult : Prop :=
  (∀ p ∈ aluTable, ∀ (s : State) (cl ctx : Nat) (f : Firing) (s1 s2 s3 : State) (d a b : Reg) (x y : Word),
    Issues s cl ctx f s1 → rd2 cl ctx a b s1 = .ok (x, y) s2 → wr cl ctx d (p.2 x y) s2 = .ok () s3 →
    exec (p.1 d a b) s = .next ((s3.slow cl ctx d (latency (p.1 d a b))).past cl ctx 4)) ∧
  (∀ p ∈ aluUnary, ∀ (s : State) (cl ctx : Nat) (f : Firing) (s1 s2 s3 : State) (d a : Reg) (x : Word),
    Issues s cl ctx f s1 → rd cl ctx a s1 = .ok x s2 → wr cl ctx d (p.2 x) s2 = .ok () s3 →
    exec (p.1 d a) s = .next (s3.past cl ctx 4)) ∧
  (∀ (s : State) (cl ctx : Nat) (f : Firing) (s1 s2 s3 s4 : State) (d a b : Reg) (x y z : Word),
    Issues s cl ctx f s1 → isQueue d = false → rd2 cl ctx a b s1 = .ok (x, y) s2 → rd cl ctx d s2 = .ok z s3 →
    wr cl ctx d (if z.getLsbD 0 then x else y) s3 = .ok () s4 → exec (.sel d a b) s = .next (s4.past cl ctx 4)) ∧
  (∀ (s : State) (cl ctx : Nat) (f : Firing) (s1 : State) (d a b : Reg), Issues s cl ctx f s1 → isQueue d = true →
    exec (.sel d a b) s = .next (takeTrap s1 cl ctx (trapOf Cause.seqIll 0#64) (pcOf cl ctx s1)))

/-- R140: the immediate forms. A bit field that passes bit 63 raises SEQ.ILL, and `bfi` does where d is a message queue. -/
def Obligations.ImmediateResult : Prop :=
  (∀ p ∈ immTable, ∀ (s : State) (cl ctx : Nat) (f : Firing) (s1 s2 s3 : State) (d a : Reg) (i : BitVec 14) (x : Word),
    Issues s cl ctx f s1 → rd cl ctx a s1 = .ok x s2 → wr cl ctx d (p.2 x (i.signExtend 64)) s2 = .ok () s3 →
    exec (p.1 d a i) s = .next (s3.past cl ctx 4)) ∧
  (∀ p ∈ shiftTable, ∀ (s : State) (cl ctx : Nat) (f : Firing) (s1 s2 s3 : State) (d a : Reg) (n : BitVec 6) (x : Word),
    Issues s cl ctx f s1 → rd cl ctx a s1 = .ok x s2 → wr cl ctx d (p.2 x n.toNat) s2 = .ok () s3 →
    exec (p.1 d a n) s = .next (s3.past cl ctx 4)) ∧
  (∀ (s : State) (cl ctx : Nat) (f : Firing) (s1 s2 : State) (d : Reg) (i : BitVec 14),
    Issues s cl ctx f s1 → wr cl ctx d (i.signExtend 64 * 16384#64) s1 = .ok () s2 → exec (.lui d i) s = .next (s2.past cl ctx 4)) ∧
  (∀ (s : State) (cl ctx : Nat) (f : Firing) (s1 s2 s3 : State) (d a : Reg) (sx : Bool) (len pos : BitVec 6) (x v : Word),
    Issues s cl ctx f s1 → pos.toNat + (len.toNat + 1) ≤ 64 → rd cl ctx a s1 = .ok x s2 →
    (∀ k, k < 64 → v.getLsbD k = if k ≤ len.toNat then x.getLsbD (pos.toNat + k) else (sx && x.getLsbD (pos.toNat + len.toNat))) →
    wr cl ctx d v s2 = .ok () s3 → exec (.bfx d a sx len pos) s = .next (s3.past cl ctx 4)) ∧
  (∀ (s : State) (cl ctx : Nat) (f : Firing) (s1 s2 s3 s4 : State) (d a : Reg) (len pos : BitVec 6) (x z v : Word),
    Issues s cl ctx f s1 → pos.toNat + (len.toNat + 1) ≤ 64 → isQueue d = false → rd cl ctx a s1 = .ok x s2 →
    rd cl ctx d s2 = .ok z s3 →
    (∀ k, k < 64 → v.getLsbD k = if pos.toNat ≤ k ∧ k ≤ pos.toNat + len.toNat then x.getLsbD (k - pos.toNat) else z.getLsbD k) →
    wr cl ctx d v s3 = .ok () s4 → exec (.bfi d a len pos) s = .next (s4.past cl ctx 4)) ∧
  (∀ (s : State) (cl ctx : Nat) (f : Firing) (s1 : State) (d a : Reg) (sx : Bool) (len pos : BitVec 6), Issues s cl ctx f s1 →
    64 < pos.toNat + (len.toNat + 1) →
    exec (.bfx d a sx len pos) s = .next (takeTrap s1 cl ctx (trapOf Cause.seqIll 0#64) (pcOf cl ctx s1)) ∧
    exec (.bfi d a len pos) s = .next (takeTrap s1 cl ctx (trapOf Cause.seqIll 0#64) (pcOf cl ctx s1))) ∧
  (∀ (s : State) (cl ctx : Nat) (f : Firing) (s1 : State) (d a : Reg) (len pos : BitVec 6), Issues s cl ctx f s1 → isQueue d = true →
    exec (.bfi d a len pos) s = .next (takeTrap s1 cl ctx (trapOf Cause.seqIll 0#64) (pcOf cl ctx s1)))

/-- R160: the long immediates, whose two words the L-form gives. -/
def Obligations.LongImmediateResult : Prop :=
  (∀ (s : State) (cl ctx : Nat) (f : Firing) (s1 s2 : State) (d : Reg) (c : BitVec 44), Issues s cl ctx f s1 →
    wr cl ctx d (c.signExtend 64) s1 = .ok () s2 → exec (.li d c) s = .next (s2.past cl ctx 8)) ∧
  (∀ (s : State) (cl ctx : Nat) (f : Firing) (s1 s2 s3 : State) (d : Reg) (i : BitVec 20) (z : Word), Issues s cl ctx f s1 →
    isQueue d = false → rd cl ctx d s1 = .ok z s2 → wr cl ctx d (i ++ z.extractLsb' 0 44) s2 = .ok () s3 →
    exec (.lih d i) s = .next (s3.past cl ctx 8)) ∧
  (∀ (s : State) (cl ctx : Nat) (f : Firing) (s1 s2 s3 : State) (d : Reg) (c : BitVec 44) (z : Word), Issues s cl ctx f s1 →
    isQueue d = false → rd cl ctx d s1 = .ok z s2 → wr cl ctx d (z + c.signExtend 64) s2 = .ok () s3 →
    exec (.addli d c) s = .next (s3.past cl ctx 8)) ∧
  (∀ (s : State) (cl ctx : Nat) (f : Firing) (s1 : State) (d : Reg) (c : BitVec 44) (i : BitVec 20), Issues s cl ctx f s1 →
    isQueue d = true →
    exec (.lih d i) s = .next (takeTrap s1 cl ctx (trapOf Cause.seqIll 0#64) (pcOf cl ctx s1)) ∧
    exec (.addli d c) s = .next (takeTrap s1 cl ctx (trapOf Cause.seqIll 0#64) (pcOf cl ctx s1))) ∧
  (∀ (d : Reg) (c : BitVec 44) (i : BitVec 20),
    encode (.li d c) = [0x3F#6 ++ d ++ 0#8 ++ c.extractLsb' 32 12, c.extractLsb' 0 32] ∧
    encode (.lih d i) = [0x3F#6 ++ d ++ 1#8 ++ 0#12, 0#12 ++ i] ∧
    encode (.addli d c) = [0x3F#6 ++ d ++ 2#8 ++ c.extractLsb' 32 12, c.extractLsb' 0 32])

/-! ## Control flow (R141 to R143) -/

/-- A target that R143 allows goes into the program counter; another raises SEQ.PC with trapaddr holding it. -/
def Obligations.BranchResult : Prop :=
  ∀ p ∈ branchTable, ∀ (s : State) (cl ctx : Nat) (f : Firing) (s1 s2 : State) (a b : Reg) (o : BitVec 14) (x y : Word),
    encode (p.1 a b o) = [p.2.2 ++ a ++ b ++ o] ∧
    (Issues s cl ctx f s1 → rd2 cl ctx a b s1 = .ok (x, y) s2 →
      (p.2.1 x y = false → exec (p.1 a b o) s = .next (s2.past cl ctx 4)) ∧
      (p.2.1 x y = true →
        (pcOk s2 cl (f.pc + 4#64 * o.signExtend 64) = true →
          exec (p.1 a b o) s = .next (s2.jumpTo cl ctx (f.pc + 4#64 * o.signExtend 64))) ∧
        (pcOk s2 cl (f.pc + 4#64 * o.signExtend 64) = false →
          exec (p.1 a b o) s = .next (takeTrap s1 cl ctx (trapOf Cause.seqPc (f.pc + 4#64 * o.signExtend 64)) f.pc))))

/-- R142. -/
def Obligations.LoopResult : Prop :=
  ∀ (s : State) (cl ctx : Nat) (f : Firing) (s1 : State) (a : Reg) (o : BitVec 14),
    encode (.loop a o) = [0x16#6 ++ a ++ 0#6 ++ o] ∧
    (Issues s cl ctx f s1 →
      (a = 0#6 ∨ 48 ≤ a.toNat → exec (.loop a o) s = .next (takeTrap s1 cl ctx (trapOf Cause.seqIll 0#64) f.pc)) ∧
      (0 < a.toNat ∧ a.toNat < 48 → ∃ x t, rd cl ctx a s1 = .ok x s1 ∧ wr cl ctx a (x - 1#64) s1 = .ok () t ∧
        (x = 1#64 → exec (.loop a o) s = .next (t.past cl ctx 4)) ∧
        (x ≠ 1#64 →
          (pcOk s1 cl (f.pc + 4#64 * o.signExtend 64) = true →
            exec (.loop a o) s = .next (t.jumpTo cl ctx (f.pc + 4#64 * o.signExtend 64))) ∧
          (pcOk s1 cl (f.pc + 4#64 * o.signExtend 64) = false →
            exec (.loop a o) s = .next (takeTrap s1 cl ctx (trapOf Cause.seqPc (f.pc + 4#64 * o.signExtend 64)) f.pc)))))

/-- R143: `jmp`, `jal` and `jr`. `jal` and `jr` write pc + 4 to s31 and to d; SEQ.PC comes before the write. -/
def Obligations.JumpResult : Prop :=
  ∀ (s : State) (cl ctx : Nat) (f : Firing) (s1 : State), Issues s cl ctx f s1 →
    (∀ o : BitVec 26, pcOk s1 cl (f.pc + 4#64 * o.signExtend 64) = true →
      exec (.jmp o) s = .next (s1.jumpTo cl ctx (f.pc + 4#64 * o.signExtend 64)) ∧
      (∃ t g, exec (.jal o) s = .next t ∧ t.firing cl ctx = some g ∧ g.pc = f.pc + 4#64 * o.signExtend 64 ∧
        g.s[31]? = some (f.pc + 4#64) ∧
        g.resumeAt = s1.now + 2 ∧ SameRegs [31#6] s t cl f g)) ∧
    (∀ o : BitVec 26, pcOk s1 cl (f.pc + 4#64 * o.signExtend 64) = false →
      exec (.jmp o) s = .next (takeTrap s1 cl ctx (trapOf Cause.seqPc (f.pc + 4#64 * o.signExtend 64)) f.pc) ∧
      exec (.jal o) s = .next (takeTrap s1 cl ctx (trapOf Cause.seqPc (f.pc + 4#64 * o.signExtend 64)) f.pc)) ∧
    (∀ (d a : Reg) (t : Word) (s2 s3 : State), rd cl ctx a s1 = .ok t s2 → pcOk s2 cl t = true →
      wr cl ctx d (f.pc + 4#64) s2 = .ok () s3 → exec (.jr d a) s = .next (s3.jumpTo cl ctx t)) ∧
    (∀ (d a : Reg) (t : Word) (s2 : State), rd cl ctx a s1 = .ok t s2 → pcOk s2 cl t = false →
      exec (.jr d a) s = .next (takeTrap s1 cl ctx (trapOf Cause.seqPc t) f.pc)) ∧
    (∀ t : Word, pcOk s1 cl t = true ↔ t.toNat % 4 = 0 ∧ t.toNat < 4294967296 ∧ t.toNat < codeSize s1 cl)

/-! ## Memory accesses (R146 to R151) -/

/-- R146: a load translates, is checked against the lease, reads its bytes on the SQ path and writes them zero-extended. A misaligned
address raises SEQ.ALIGN. Under REV a load of a differentiable tensor is the reverse load (R303). A load reads in its step: log
entry 6. What it keeps of the firing until its answer has come, in case the budget ends first, is log entry 33. -/
def Obligations.LoadResult : Prop :=
  (∀ p ∈ loadTable, ∀ (s : State) (cl ctx : Nat) (f : Firing) (s1 s2 : State) (d a : Reg) (i : BitVec 14) (x : Word),
    Issues s cl ctx f s1 → rd cl ctx a s1 = .ok x s2 →
    ((x + i.signExtend 64).toNat % p.2 ≠ 0 → exec (p.1 d a i) s =
      .next (takeTrap s1 cl ctx (trapOf Cause.seqAlign (x + i.signExtend 64)) f.pc)) ∧
    (∀ s3 pa ms, (x + i.signExtend 64).toNat % p.2 = 0 → sqAddress cl (x + i.signExtend 64).toNat p.2 false s2 = .ok (pa, ms) s3 →
      ((s3.cluster cl).dmode = 0 ∨ diffOf s3 cl pa = none →
        ∀ bs s4 s5, memRead true cl pa p.2 ms s3 = .ok bs s4 →
          wr cl ctx d (BitVec.ofNat 64 (natOfBytes bs)) (noteSeen s4 cl ctx pa p.2) = .ok () s5 →
          exec (p.1 d a i) s = .next ((s1.keepBack cl ctx [d, a] s5).past cl ctx 4)) ∧
      (∀ y s4, (s3.cluster cl).dmode ≠ 0 → diffOf s3 cl pa = some y → p.2 * 8 = tyBits y.ten.ty → p.2 ≠ 8 →
        reverseLoad cl ctx d y s3 = .ok () s4 → exec (p.1 d a i) s = .next (s4.past cl ctx 4)))) ∧
  (∀ (u0 u : State) (cl ctx : Nat) (rs : List Reg) (g : Firing), u.firing cl ctx = some g →
    ∃ h, (u0.keepBack cl ctx rs u).firing cl ctx = some h ∧ h.s = g.s ∧ h.sp = g.sp ∧ h.pc = g.pc ∧ SameFiring g h ∧
      (∀ m, ((u0.keepBack cl ctx rs u).cluster cl).slot m = (u.cluster cl).slot m) ∧ SamePackage u (u0.keepBack cl ctx rs u) ∧
      SameOthers u (u0.keepBack cl ctx rs u) cl)

/-- R147, R220: on a die, a read at the home gives the bytes that memory holds. A load returns the bytes of the latest earlier store
of its sequencer to the same place, which has the name of the latest message, whatever other writes are on their way (log entry 6), where the
host holds no line that one of them waits for (R317), none of them has come by the loops, and no stop stalls for a stamp (R209, log entry 33). -/
def Obligations.LoadSeesOwnStore : Prop :=
  ∀ (s : State) (cl : Nat) (ctx : Option Nat) (pa n : Nat) (ms : Bool) (bytes : List Byte), s.mem.wf = true → 0 < n → bytes.length = n →
    pa % 128 + n ≤ 128 → homeDie pa = some (dieOf cl) → s.poison = [] → s.ecc = [] → s.held = [] → s.nmops = [] →
    s.hostLines = [] → s.net = [] → (∀ r ∈ s.inflight, r.id < s.nextId ∧ r.frame = none ∧
      (ownSlice r.cl r.pa = true ∨ s.stopStalls r.cl (Msg.size (.write r)) = false)) →
    (ownSlice cl pa = true ∨ (s.stopStalls cl 1 = false ∧ s.stopStalls cl (1 + ceilDiv n 64) = false)) →
    ∃ t, memRead true cl pa n ms (postWrite cl 0 none ctx pa ms bytes s) = .ok bytes t

/-- R146, R147: a store outside a differentiable tensor is translated and checked, and then posted: its bytes, low byte first, go on
their way to the address that its operands name. Memory itself changes when the write reaches its home. That the write is posted
and reaches its home in a turn of its own, and behind which writes that the sequencer has read, is log entry 6. -/
def Obligations.StoreResult : Prop :=
  ∀ p ∈ storeTable, ∀ (s : State) (cl ctx : Nat) (f : Firing) (s1 s2 : State) (d a : Reg) (i : BitVec 14) (x : Word),
    Issues s cl ctx f s1 → rd cl ctx a s1 = .ok x s2 →
    ((x + i.signExtend 64).toNat % p.2 ≠ 0 → exec (p.1 d a i) s =
      .next (takeTrap s1 cl ctx (trapOf Cause.seqAlign (x + i.signExtend 64)) f.pc)) ∧
    (∀ s3 pa ms, (x + i.signExtend 64).toNat % p.2 = 0 → sqAddress cl (x + i.signExtend 64).toNat p.2 true s2 = .ok (pa, ms) s3 →
      (∀ v s4, diffOf s3 cl pa = none → s3.outstanding cl ctx < 16 → rd cl ctx d s3 = .ok v s4 →
        ∃ t b sh, exec (p.1 d a i) s = .next t ∧ t.mem = s4.mem ∧ t.nextId = s4.nextId + 1 ∧ t.inflight = s4.inflight ++
          [{ id := s4.nextId, cl := cl, src := 0, cmd := none, pa := pa, ms := ms, bytes := bytesOfNat p.2 v.toNat, batch := b,
             shown := sh, ctx := some ctx, task := (s4.cluster cl).owner, after := s4.unseen cl ctx ++ s4.cohBehind cl [(pa, p.2)],
             frame := none }] ∧
          (∃ g, t.firing cl ctx = some g ∧ g.pc = f.pc + 4#64)) ∧
      (∀ y v s4 s5, diffOf s3 cl pa = some y → (s3.cluster cl).dmode = 0 → rd cl ctx d s3 = .ok v s4 →
        tapedStore cl ctx y pa (x + i.signExtend 64).toNat (bytesOfNat p.2 v.toNat) s4 = .ok () s5 →
        exec (p.1 d a i) s = .next (s5.past cl ctx 4)) ∧
      (∀ y s4, diffOf s3 cl pa = some y → (s3.cluster cl).dmode ≠ 0 →
        reverseStore cl ctx d y pa (x + i.signExtend 64).toNat p.2 s3 = .ok () s4 →
        exec (p.1 d a i) s = .next (s4.past cl ctx 4)))

/-- R148, R162: `lds` reads and `sts` writes eight bytes of the cluster's scratchpad at their effective address; an address beyond it
raises SEQ.SPAD, a misaligned one SEQ.ALIGN. R150, R96: `pushm` copies the registers d to a, ascending, to the stack at sp, and
`popm` copies them back; sp moves by their size. A range outside 1 to 47 raises SEQ.ILL, a misaligned sp SEQ.ALIGN, and a part
without room SEQ.SPILL. R163, R174, R177: each waits for the grant of every bank that its bytes meet, which `ask` says: no bank is a victim's, no
entry of the scoreboard holds it, and it is the sequencer's turn at each. R138: the firing issues nothing before a load has returned, four
cycles on for `lds` and 1 + ceil (n/2) for `popm` of n registers; R95: where the budget ends before that, the load is not executed and the
firing is suspended at it with no register changed. Where a part has no room for `popm` is log entry 9; that a write waits for the
writes its firing has read is log entry 6. Completes: lds, sts, pushm, popm. -/
def Obligations.ScratchpadResult : Prop :=
  (∀ (s : State) (cl ctx : Nat) (f : Firing) (s1 s2 : State) (d a : Reg) (i : BitVec 14) (x : Word),
     Issues s cl ctx f s1 → rd cl ctx a s1 = .ok x s2 →
     (524288 ≤ (x + i.signExtend 64).toNat →
       exec (.lds d a i) s = .next (takeTrap s1 cl ctx (trapOf Cause.seqSpad (x + i.signExtend 64)) f.pc) ∧
       exec (.sts d a i) s = .next (takeTrap s1 cl ctx (trapOf Cause.seqSpad (x + i.signExtend 64)) f.pc)) ∧
     ((x + i.signExtend 64).toNat < 524288 → (x + i.signExtend 64).toNat % 8 ≠ 0 →
       exec (.lds d a i) s = .next (takeTrap s1 cl ctx (trapOf Cause.seqAlign (x + i.signExtend 64)) f.pc) ∧
       exec (.sts d a i) s = .next (takeTrap s1 cl ctx (trapOf Cause.seqAlign (x + i.signExtend 64)) f.pc)) ∧
     ((x + i.signExtend 64).toNat < 524288 → (x + i.signExtend 64).toNat % 8 = 0 →
       (∀ s3, s2.ask cl sqUnit (x + i.signExtend 64).toNat 8 s2.nextId ctx f.pc = (s3, true) →
         (returning cl ctx 4 s3 = .ok () s3 →
           (∀ s4, wr cl ctx d (BitVec.ofNat 64 (natOfBytes ((s2.cluster cl).spad.readBytes 8 (x + i.signExtend 64).toNat))) s3 = .ok () s4 →
             exec (.lds d a i) s = .next ((s4.holdNext cl ctx 4).past cl ctx 4)) ∧
           (plainReg d = true → ∃ t g, exec (.lds d a i) s = .next t ∧ t.firing cl ctx = some g ∧ g.pc = f.pc + 4#64 ∧
             (d ≠ 0#6 → regValue cl ctx d t =
               some (BitVec.ofNat 64 (natOfBytes ((s2.cluster cl).spad.readBytes 8 (x + i.signExtend 64).toNat)))))) ∧
         (∀ n, returning cl ctx 4 s3 = .cut n →
           exec (.lds d a i) s = .next (takeTrap (s1.upTo n) cl ctx (trapOf Cause.seqBudget 0#64) f.pc))) ∧
       ((s2.ask cl sqUnit (x + i.signExtend 64).toNat 8 s2.nextId ctx f.pc).2 = false →
         exec (.lds d a i) s = .next (blocked (s1.ask cl sqUnit (x + i.signExtend 64).toNat 8 s1.nextId ctx f.pc).1 cl ctx)) ∧
       (s2.unseen cl ctx ≠ [] → exec (.sts d a i) s = .next (blocked s1 cl ctx)) ∧
       (∀ v s3, s2.unseen cl ctx = [] → rd cl ctx d s2 = .ok v s3 →
         ((s3.ask cl sqUnit (x + i.signExtend 64).toNat 8 s3.nextId ctx f.pc).2 = true →
           ∃ t, exec (.sts d a i) s = .next t ∧
             (t.cluster cl).spad = (s2.cluster cl).spad.writeBytes (x + i.signExtend 64).toNat (bytesOfNat 8 v.toNat) ∧
             (∃ g, t.firing cl ctx = some g ∧ g.pc = f.pc + 4#64)) ∧
         ((s3.ask cl sqUnit (x + i.signExtend 64).toNat 8 s3.nextId ctx f.pc).2 = false →
           exec (.sts d a i) s = .next (blocked (s1.ask cl sqUnit (x + i.signExtend 64).toNat 8 s1.nextId ctx f.pc).1 cl ctx))))) ∧
  (∀ (s : State) (cl ctx : Nat) (f : Firing) (s1 : State) (d a : Reg), Issues s cl ctx f s1 →
     (¬(1 ≤ d.toNat ∧ d.toNat ≤ a.toNat ∧ a.toNat ≤ 47) →
       exec (.pushm d a) s = .next (takeTrap s1 cl ctx (trapOf Cause.seqIll 0#64) f.pc) ∧
       exec (.popm d a) s = .next (takeTrap s1 cl ctx (trapOf Cause.seqIll 0#64) f.pc)) ∧
     (1 ≤ d.toNat ∧ d.toNat ≤ a.toNat ∧ a.toNat ≤ 47 → f.sp.toNat % 8 ≠ 0 →
       exec (.pushm d a) s = .next (takeTrap s1 cl ctx
         (trapOf Cause.seqAlign (BitVec.ofNat 64 ((s1.cluster cl).partBase ctx + f.sp.toNat))) f.pc) ∧
       exec (.popm d a) s = .next (takeTrap s1 cl ctx
         (trapOf Cause.seqAlign (BitVec.ofNat 64 ((s1.cluster cl).partBase ctx + f.sp.toNat))) f.pc)) ∧
     (1 ≤ d.toNat ∧ d.toNat ≤ a.toNat ∧ a.toNat ≤ 47 → f.sp.toNat % 8 = 0 →
       ((s1.cluster cl).partSize < f.sp.toNat + 8 * (a.toNat - d.toNat + 1) →
         exec (.pushm d a) s = .next (takeTrap s1 cl ctx (trapOf Cause.seqSpill 0#64) f.pc)) ∧
       (f.sp.toNat < 8 * (a.toNat - d.toNat + 1) ∨ (s1.cluster cl).partSize < f.sp.toNat →
         exec (.popm d a) s = .next (takeTrap s1 cl ctx (trapOf Cause.seqSpill 0#64) f.pc)) ∧
       (f.sp.toNat + 8 * (a.toNat - d.toNat + 1) ≤ (s1.cluster cl).partSize →
         (s1.unseen cl ctx ≠ [] → exec (.pushm d a) s = .next (blocked s1 cl ctx)) ∧
         (s1.unseen cl ctx = [] → (s1.ask cl sqUnit ((s1.cluster cl).partBase ctx + f.sp.toNat) (8 * (a.toNat - d.toNat + 1)) s1.nextId ctx
             f.pc).2 = false → exec (.pushm d a) s = .next (blocked
               (s1.ask cl sqUnit ((s1.cluster cl).partBase ctx + f.sp.toNat) (8 * (a.toNat - d.toNat + 1)) s1.nextId ctx f.pc).1 cl ctx)) ∧
         (s1.unseen cl ctx = [] → (s1.ask cl sqUnit ((s1.cluster cl).partBase ctx + f.sp.toNat) (8 * (a.toNat - d.toNat + 1)) s1.nextId ctx
             f.pc).2 = true →
         ∃ t g, exec (.pushm d a) s = .next t ∧ t.firing cl ctx = some g ∧ g.pc = f.pc + 4#64 ∧
           g.sp = f.sp + BitVec.ofNat 64 (8 * (a.toNat - d.toNat + 1)) ∧
           (t.cluster cl).spad = (s1.cluster cl).spad.writeBytes ((s1.cluster cl).partBase ctx + f.sp.toNat)
             ((List.range (a.toNat - d.toNat + 1)).flatMap (fun k =>
               bytesOfNat 8 ((regValue cl ctx (BitVec.ofNat 6 (d.toNat + k)) s1).getD 0#64).toNat)))) ∧
       (8 * (a.toNat - d.toNat + 1) ≤ f.sp.toNat → f.sp.toNat ≤ (s1.cluster cl).partSize →
         (∀ u, s1.ask cl sqUnit ((s1.cluster cl).partBase ctx + f.sp.toNat - 8 * (a.toNat - d.toNat + 1))
             (8 * (a.toNat - d.toNat + 1)) s1.nextId ctx f.pc = (u, true) →
           (returning cl ctx (1 + (a.toNat - d.toNat + 1 + 1) / 2) u = .ok () u →
             ∃ t g, exec (.popm d a) s = .next t ∧ t.firing cl ctx = some g ∧ g.pc = f.pc + 4#64 ∧
               g.resumeAt = s1.now + (1 + (a.toNat - d.toNat + 1 + 1) / 2) ∧
               g.sp = f.sp - BitVec.ofNat 64 (8 * (a.toNat - d.toNat + 1)) ∧ SameRegs (poppedRegs d a) s t cl f g ∧
               (∀ k, k ≤ a.toNat - d.toNat → regValue cl ctx (BitVec.ofNat 6 (d.toNat + k)) t = some (BitVec.ofNat 64
                 ((s1.cluster cl).spad.read 8 ((s1.cluster cl).partBase ctx + f.sp.toNat - 8 * (a.toNat - d.toNat + 1) + 8 * k))))) ∧
           (∀ n, returning cl ctx (1 + (a.toNat - d.toNat + 1 + 1) / 2) u = .cut n →
             exec (.popm d a) s = .next (takeTrap (s1.upTo n) cl ctx (trapOf Cause.seqBudget 0#64) f.pc))) ∧
         ((s1.ask cl sqUnit ((s1.cluster cl).partBase ctx + f.sp.toNat - 8 * (a.toNat - d.toNat + 1))
             (8 * (a.toNat - d.toNat + 1)) s1.nextId ctx f.pc).2 = false →
           exec (.popm d a) s = .next (blocked (s1.ask cl sqUnit ((s1.cluster cl).partBase ctx + f.sp.toNat - 8 * (a.toNat - d.toNat + 1))
             (8 * (a.toNat - d.toNat + 1)) s1.nextId ctx f.pc).1 cl ctx))))) ∧
  (∀ (s : State) (cl unit a n made id : Nat) (pc : Word), (s.cluster cl).wants = [] →
     (spadOpen s cl a n made = true → (∀ b ∈ banksOf a n, (s.cluster cl).grants b unit = true) →
       (s.ask cl unit a n made id pc).2 = true) ∧
     (spadOpen s cl a n made = false → (s.ask cl unit a n made id pc).2 = false) ∧
     (∀ b ∈ banksOf a n, unit ≠ 12 → (s.cluster cl).grants b unit = false → (s.ask cl unit a n made id pc).2 = false)) ∧
  (∀ (s : State) (cl a n made : Nat), spadOpen s cl a n made = true ↔
     ((s.cluster cl).boardHolds a n made = false ∧ ∀ b ∈ banksOf a n, s.claimed cl b = false)) ∧
  (∀ (s : State) (cl ctx n t : Nat) (g : Firing), s.firing cl ctx = some g → g.started = some t →
     (s.now + n ≤ t + (s.cluster cl).budget → returning cl ctx n s = .ok () s) ∧
     (t + (s.cluster cl).budget < s.now + n → returning cl ctx n s = .cut (t + (s.cluster cl).budget)))

/-- R149: `ldt` loads the bits of one element of a tensor from its place, once its bytes are translated and lie inside the lease. An
identifier, an entry, a coordinate or a b that R149 does not allow raises SEQ.TENSOR with trapaddr holding the identifier; a
translation fault is the trap it is of any load, and bytes outside the lease end the task (R250). In REV an element of a
differentiable tensor is loaded as R303 says. What a load keeps until its answer has come is log entry 33. R151: `pf` completes whatever its address, and changes no register and no byte of
memory. Completes: ldt, pf. -/
def Obligations.TensorLoadResult : Prop :=
  (∀ (s : State) (cl ctx : Nat) (f : Firing) (s1 s2 : State) (d a b : Reg) (id : Nat) (ten : Tensor) (xs : List Nat) (t : Task),
    Issues s cl ctx f s1 → tensorElement cl ctx a b (fun _ => false) s1 = .ok (id, ten, xs) s2 → s2.taskOf cl = some t →
    (∀ s3 p, elementChecked cl t id xs ((ten.layout.bitOff xs % 8 + tyBits ten.ty + 7) / 8) s2 = .ok () s3 →
      elementPlace s3 ((s3.cluster cl).owner.getD 0) t id false ten.layout xs = some p →
      ((s3.cluster cl).dmode = 0 ∨ ten.diff = false → ∀ v s4 s5,
        sqSpan cl ctx p.pa ((p.bit + tyBits ten.ty + 7) / 8) ten.ms s3 = .ok v s4 →
        wr cl ctx d (BitVec.ofNat 64 (bitsAt v p.bit (tyBits ten.ty))) s4 = .ok () s5 →
        exec (.ldt d a b) s = .next ((s1.keepBack cl ctx [d, a] s5).past cl ctx 4)) ∧
      (∀ y s4, (s3.cluster cl).dmode ≠ 0 → elementDiff s3 cl id xs p = some y → reverseLoad cl ctx d y s3 = .ok () s4 →
        exec (.ldt d a b) s = .next (s4.past cl ctx 4))) ∧
    (∀ i, elementChecked cl t id xs ((ten.layout.bitOff xs % 8 + tyBits ten.ty + 7) / 8) s2 = .trap i →
      exec (.ldt d a b) s = .next (takeTrap s1 cl ctx i f.pc)) ∧
    (∀ c, elementChecked cl t id xs ((ten.layout.bitOff xs % 8 + tyBits ten.ty + 7) / 8) s2 = .kill c →
      exec (.ldt d a b) s = .next (killAt s1 cl ctx c))) ∧
  (∀ (s : State) (cl ctx : Nat) (f : Firing) (s1 : State) (d a b : Reg) (x : Word) (t : Task), Issues s cl ctx f s1 →
    rd cl ctx a s1 = .ok x s1 → s1.taskOf cl = some t →
    (4096 ≤ x.toNat ∨ (t.tensor x.toNat).valid = false ∨ (t.tensor x.toNat).expert = true ∨ b = 0#6 ∨
      31 < b.toNat + (t.tensor x.toNat).ndim - 1 ∨
      (t.tensor x.toNat).layout.inside (coordRegs cl ctx b (t.tensor x.toNat).ndim s1) = false) →
    exec (.ldt d a b) s = .next (takeTrap s1 cl ctx (trapOf Cause.seqTensor (x &&& 0xFFF#64)) f.pc)) ∧
  (∀ (s : State) (cl ctx : Nat) (f : Firing) (s1 s2 : State) (a : Reg) (i : BitVec 14) (x : Word), Issues s cl ctx f s1 →
    rd cl ctx a s1 = .ok x s2 →
    ∃ t g, exec (.pf a i) s = .next t ∧ t.mem = s2.mem ∧ t.inflight = s2.inflight ∧ t.firing cl ctx = some g ∧ g.pc = f.pc + 4#64 ∧
      g.s = f.s ∧ g.sp = f.sp)

/-! ## Channels, tokens and queues (R152 to R159) -/

/-- R152, R154 to R156: `cbw` and `cbf` wait for items and for free slots, and write the word of Table 8.3 and the free count; `cbld`
reads a dword of an item, and `cbadv` takes items away. A handle that is not in use, leads the other way or belongs to another slot
raises SEQ.CHAN with trapaddr holding its number; so does an access of `cbld` or `cbadv` beyond the rate, or beyond EOS or an abort
token. Completes: cbw, cbf, cbld, cbadv. -/
def Obligations.ChannelReadResult : Prop :=
  (∀ (s : State) (cl ctx : Nat) (f : Firing) (s1 : State) (d : Reg) (h : BitVec 4), Issues s cl ctx f s1 →
    (∀ (n : BitVec 8) (i j : BitVec 4), ((s1.cluster cl).handleUsed h.toNat = false ∨ (s1.cluster cl).handleOut h.toNat = true ∨
        foreign (s1.cluster cl) f.slot h.toNat = true) →
      exec (.cbw d h n) s = .next (takeTrap s1 cl ctx (trapOf Cause.seqChan (BitVec.ofNat 64 h.toNat)) f.pc) ∧
      exec (.cbld d h i j) s = .next (takeTrap s1 cl ctx (trapOf Cause.seqChan (BitVec.ofNat 64 h.toNat)) f.pc) ∧
      exec (.cbadv h n) s = .next (takeTrap s1 cl ctx (trapOf Cause.seqChan (BitVec.ofNat 64 h.toNat)) f.pc)) ∧
    (∀ n : BitVec 8, ((s1.cluster cl).handleUsed h.toNat = false ∨ (s1.cluster cl).handleOut h.toNat = false ∨
        foreign (s1.cluster cl) f.slot h.toNat = true) →
      exec (.cbf d h n) s = .next (takeTrap s1 cl ctx (trapOf Cause.seqChan (BitVec.ofNat 64 h.toNat)) f.pc)) ∧
    ((s1.cluster cl).handleUsed h.toNat = true → (s1.cluster cl).handleOut h.toNat = false →
      foreign (s1.cluster cl) f.slot h.toNat = false →
      (∀ (n : BitVec 8) (s2 : State), (n.toNat ≤ ((s1.cluster cl).handleItems h.toNat).length ∨
          ((s1.cluster cl).handleItems h.toNat).any Item.marked = true) →
        wr cl ctx d (cbwWord ((s1.cluster cl).handleItems h.toNat)) s1 = .ok () s2 →
        exec (.cbw d h n) s = .next (s2.past cl ctx 4)) ∧
      (∀ n : BitVec 8, ((s1.cluster cl).handleItems h.toNat).length < n.toNat →
        ((s1.cluster cl).handleItems h.toNat).any Item.marked = false → exec (.cbw d h n) s = .next (blocked s1 cl ctx)) ∧
      (∀ (i j : BitVec 4) (it : Item) (s2 : State), ((s1.cluster cl).handleItems h.toNat)[i.toNat]? = some it →
        ((s1.cluster cl).slotRate f.slot h.toNat = 0 ∨ (f.advOf h.toNat + i.toNat < (s1.cluster cl).slotRate f.slot h.toNat ∧
          i.toNat ≤ untilEnd ((s1.cluster cl).handleItems h.toNat))) →
        wr cl ctx d (it.dwordOf j.toNat) s1 = .ok () s2 → exec (.cbld d h i j) s = .next ((s2.slow cl ctx d 2).past cl ctx 4)) ∧
      (∀ n : BitVec 8, n.toNat ≤ ((s1.cluster cl).handleItems h.toNat).length →
        ((s1.cluster cl).slotRate f.slot h.toNat = 0 ∨ (f.advOf h.toNat + n.toNat ≤ (s1.cluster cl).slotRate f.slot h.toNat ∧
          n.toNat ≤ untilEnd ((s1.cluster cl).handleItems h.toNat) + 1)) →
        ∃ t g, exec (.cbadv h n) s = .next t ∧ t.firing cl ctx = some g ∧ g.pc = f.pc + 4#64 ∧
          g.advOf h.toNat = f.advOf h.toNat + n.toNat ∧ g.s = f.s ∧ t.mem = s1.mem ∧
          ((s1.cluster cl).handleCmpl h.toNat = false →
            (t.cluster cl).handleItems h.toNat = ((s1.cluster cl).handleItems h.toNat).drop n.toNat)) ∧
      (∀ last : Nat, 0 < (s1.cluster cl).slotRate f.slot h.toNat →
        ((s1.cluster cl).slotRate f.slot h.toNat ≤ f.advOf h.toNat + last ∨
          (untilEnd ((s1.cluster cl).handleItems h.toNat) < ((s1.cluster cl).handleItems h.toNat).length ∧
            untilEnd ((s1.cluster cl).handleItems h.toNat) < last)) →
        (∀ i j : BitVec 4, i.toNat = last →
          exec (.cbld d h i j) s = .next (takeTrap s1 cl ctx (trapOf Cause.seqChan (BitVec.ofNat 64 h.toNat)) f.pc)) ∧
        (∀ n : BitVec 8, n.toNat = last + 1 →
          exec (.cbadv h n) s = .next (takeTrap s1 cl ctx (trapOf Cause.seqChan (BitVec.ofNat 64 h.toNat)) f.pc)))) ∧
    ((s1.cluster cl).handleUsed h.toNat = true → (s1.cluster cl).handleOut h.toNat = true →
      foreign (s1.cluster cl) f.slot h.toNat = false → ∀ (n : BitVec 8),
      (∀ s2 : State, n.toNat ≤ handleFree s1 cl h.toNat - f.writtenOf h.toNat →
        wr cl ctx d (BitVec.ofNat 64 (Nat.min (handleFree s1 cl h.toNat - f.writtenOf h.toNat) 65535)) s1 = .ok () s2 →
        exec (.cbf d h n) s = .next (s2.past cl ctx 4)) ∧
      (handleFree s1 cl h.toNat - f.writtenOf h.toNat < n.toNat → exec (.cbf d h n) s = .next (blocked s1 cl ctx)))) ∧
  (∀ items : List Item, (cbwWord items).extractLsb' 12 16 = BitVec.ofNat 16 (Nat.min items.length 65535) ∧
    (cbwWord items).extractLsb' 28 4 = 0#4 ∧
    ((∀ it ∈ items, it.marked = false) → (cbwWord items).extractLsb' 0 4 = 0#4 ∧ (cbwWord items).extractLsb' 4 8 = 0xFF#8 ∧
      (cbwWord items).extractLsb' 32 32 = 0#32) ∧
    (∀ before it after, items = before ++ it :: after → (∀ x ∈ before, x.marked = false) → it.marked = true →
      (cbwWord items).extractLsb' 0 4 = BitVec.ofNat 4 it.kind ∧
      (cbwWord items).extractLsb' 4 8 = BitVec.ofNat 8 (Nat.min before.length 255) ∧
      (cbwWord items).extractLsb' 32 32 = BitVec.ofNat 32 it.pay))

/-- R155 to R157: `cbst` writes one dword of a slot, `cbpub` publishes slots in their sequence, and `tok.eos` and `tok.bnd` send a token,
once nothing is written and unpublished; without a free slot they block. An item goes to every channel that leaves the handle,
behind what it holds, or onto its spill ring. A handle that is not in use, leads the other way or belongs to another slot, an
access beyond the rate, and a token while a slot is written raise SEQ.CHAN; kind 3 raises SEQ.ILL. R171: an item that finds the track full, or
an item on the ring before it, goes to the ring; a full ring first gives its oldest item to a free slot of the track, and a slot that this
frees is counted apart in its cycle (R86). R170, R207: in a channel between clusters it is first on its way by the loops, in sending sequence;
that and how it arrives is log entry 33. What a full ring does, and channels without a consumer: log entry 32. Completes: cbst, cbpub,
tok.eos, tok.bnd. -/
def Obligations.ChannelWriteResult : Prop :=
  (∀ (s : State) (cl ctx : Nat) (f : Firing) (s1 : State) (h : BitVec 4), Issues s cl ctx f s1 →
    exec (.tokEos h 3#2) s = .next (takeTrap s1 cl ctx (trapOf Cause.seqIll 0#64) f.pc) ∧
    (∀ (d : Reg) (i j : BitVec 4) (n : BitVec 8) (k : BitVec 2), k ≠ 3#2 → ((s1.cluster cl).handleUsed h.toNat = false ∨
        (s1.cluster cl).handleOut h.toNat = false ∨ foreign (s1.cluster cl) f.slot h.toNat = true) →
      ∀ e ∈ [Instr.cbst d h i j, .cbpub h n, .tokEos h k, .tokBnd d h],
        exec e s = .next (takeTrap s1 cl ctx (trapOf Cause.seqChan (BitVec.ofNat 64 h.toNat)) f.pc)) ∧
    ((s1.cluster cl).handleUsed h.toNat = true → (s1.cluster cl).handleOut h.toNat = true →
      foreign (s1.cluster cl) f.slot h.toNat = false →
      (∀ (d : Reg) (i j : BitVec 4),
        (∀ (v : Word) (s2 : State), rd cl ctx d s1 = .ok v s2 →
          (f.pubOf h.toNat + i.toNat < (s1.cluster cl).slotRate f.slot h.toNat ∨
            ((s1.cluster cl).slotRate f.slot h.toNat = 0 ∧ s1.hasFree cl (portKey 0x20 h.toNat) (i.toNat + 1) = true)) →
          ∃ t g, exec (.cbst d h i j) s = .next t ∧ t.firing cl ctx = some g ∧ g.pc = f.pc + 4#64 ∧
            g.writtenAt h.toNat (f.pubOf h.toNat + i.toNat) =
              some (((f.writtenAt h.toNat (f.pubOf h.toNat + i.toNat)).getD 0#1024).setDword j.toNat v) ∧
            (∀ k, k ≠ f.pubOf h.toNat + i.toNat → g.writtenAt h.toNat k = f.writtenAt h.toNat k)) ∧
        (0 < (s1.cluster cl).slotRate f.slot h.toNat → (s1.cluster cl).slotRate f.slot h.toNat ≤ f.pubOf h.toNat + i.toNat →
          exec (.cbst d h i j) s = .next (takeTrap s1 cl ctx (trapOf Cause.seqChan (BitVec.ofNat 64 h.toNat)) f.pc)) ∧
        ((s1.cluster cl).slotRate f.slot h.toNat = 0 → s1.hasFree cl (portKey 0x20 h.toNat) (i.toNat + 1) = false →
          exec (.cbst d h i j) s = .next (blocked s1 cl ctx))) ∧
      (∀ n : BitVec 8,
        ((s1.cluster cl).slotRate f.slot h.toNat = 0 ∨ f.pubOf h.toNat + n.toNat ≤ (s1.cluster cl).slotRate f.slot h.toNat →
          (s1.hasFree cl (portKey 0x20 h.toNat) n.toNat = true →
            ∃ s2, (∃ g, s2.firing cl ctx = some g ∧ g.pubOf h.toNat = f.pubOf h.toNat + n.toNat ∧ g.pc = f.pc) ∧ s2.mem = s1.mem ∧
              (∀ k key, ((s2.cluster k).chan key) = ((s1.cluster k).chan key)) ∧
              exec (.cbpub h n) s = .next ((sendItems s2 cl (portKey 0x20 h.toNat) (f.beats h.toNat n.toNat)).past cl ctx 4)) ∧
          (s1.hasFree cl (portKey 0x20 h.toNat) n.toNat = false → exec (.cbpub h n) s = .next (blocked s1 cl ctx))) ∧
        (0 < (s1.cluster cl).slotRate f.slot h.toNat → (s1.cluster cl).slotRate f.slot h.toNat < f.pubOf h.toNat + n.toNat →
          exec (.cbpub h n) s = .next (takeTrap s1 cl ctx (trapOf Cause.seqChan (BitVec.ofNat 64 h.toNat)) f.pc))) ∧
      (f.writtenOf h.toNat = 0 → s1.hasFree cl (portKey 0x20 h.toNat) 1 = true →
        exec (.tokEos h 0#2) s = .next ((sendItem s1 cl (portKey 0x20 h.toNat) .eos).past cl ctx 4) ∧
        exec (.tokEos h 1#2) s = .next ((sendItem s1 cl (portKey 0x20 h.toNat) .eor).past cl ctx 4) ∧
        exec (.tokEos h 2#2) s = .next ((sendItem s1 cl (portKey 0x20 h.toNat) .eok).past cl ctx 4) ∧
        (∀ (d : Reg) (v : Word) (s2 : State), rd cl ctx d s1 = .ok v s2 → exec (.tokBnd d h) s =
          .next ((sendItem s2 cl (portKey 0x20 h.toNat) (.bound (Nat.min v.toNat 4294967295))).past cl ctx 4))) ∧
      (∀ (d : Reg) (k : BitVec 2), k ≠ 3#2 → ∀ e ∈ [Instr.tokEos h k, .tokBnd d h],
        (0 < f.writtenOf h.toNat →
          exec e s = .next (takeTrap s1 cl ctx (trapOf Cause.seqChan (BitVec.ofNat 64 h.toNat)) f.pc)) ∧
        (f.writtenOf h.toNat = 0 → s1.hasFree cl (portKey 0x20 h.toNat) 1 = false → exec e s = .next (blocked s1 cl ctx))))) ∧
  (∀ (s : State) (cl port k key : Nat) (ch : Chan) (it : Item), (s.outsOf cl port).Nodup → (k, key) ∈ s.outsOf cl port →
    (s.cluster k).chan key = some ch → ∃ id, ((sendItem s cl port it).cluster k).chan key = some
      (if ch.ringGain = 0 then ch.push id (s.asSent cl it) else (ch.push id (s.asSent cl it)).count s.now ch.ringGain)) ∧
  (∀ (ch : Chan) (now k : Nat), (ch.count now k).items = ch.items ∧ (ch.count now k).riding = ch.riding ∧ (ch.count now k).ring = ch.ring ∧
    (ch.count now k).spilling = ch.spilling ∧ (ch.count now k).freed now = (if ch.mark = now then ch.took + k else k)) ∧
  (∀ (ch : Chan) (id : Nat) (it : Item), ch.sink = false →
    (ch.spills = false → (ch.push id it).spilling = ch.spilling ∧ (ch.push id it).ring = ch.ring ∧
      (ch.vc = none → (ch.push id it).items = ch.items ++ [it] ∧ (ch.push id it).riding = ch.riding) ∧
      (ch.vc.isSome = true → (ch.push id it).items = ch.items ∧ (ch.push id it).riding = ch.riding ++ [{ id := id, flits := false, item := it }])) ∧
    (ch.spills = true →
      (ch.ring.length + ch.spilling.length < ch.ringSize → (ch.push id it).items = ch.items ∧ (ch.push id it).ring = ch.ring ∧
        (ch.push id it).spilling = ch.spilling ++ [(id, it)]) ∧
      (∀ x rest, ch.ringSize ≤ ch.ring.length + ch.spilling.length → ch.ring = x :: rest → (ch.push id it).items = ch.items ++ [x] ∧
        (ch.push id it).ring = rest ∧ (ch.push id it).spilling = ch.spilling ++ [(id, it)])))

/-- R158, R173: `tok.ctl` puts one control token on the cluster's network, START for kind 0 and DONE for kind 1, for the tile its
field names; it arrives two cycles later. R159: `qbind` binds a message queue, or unbinds it; a word that R159 does not allow
raises SEQ.QUEUE. -/
def Obligations.ControlTokenAndBindResult : Prop :=
  ∀ (s : State) (cl ctx : Nat) (f : Firing) (s1 : State), Issues s cl ctx f s1 →
    (∀ (k : Bool) (a : BitVec 5), ∃ t g, exec (.tokCtl k a) s = .next t ∧ t.firing cl ctx = some g ∧ g.pc = f.pc + 4#64 ∧
      (t.cluster cl).ctlFly = (s.cluster cl).ctlFly ++ [{ tile := a.toNat, done := k, due := s1.now + 2 }] ∧
      SameRegs [] s t cl f g ∧ SamePackage s t ∧ SameOthers s t cl) ∧
    (∀ (q : Reg) (n : BitVec 8) (w : Word) (s2 : State), isQueue q = true → n.toNat ≤ 47 → rd cl ctx (n.truncate 6) s1 = .ok w s2 →
      (∀ b, bindOf s2 cl w = some (some b) → ∃ t g, exec (.qbind q n) s = .next t ∧ t.firing cl ctx = some g ∧ g.pc = f.pc + 4#64 ∧
        SMap.find ((t.cluster cl).slot f.slot).binds (q.toNat - 48) = some b ∧ SameRegs [] s t cl f g) ∧
      (bindOf s2 cl w = some none → ∃ t g, exec (.qbind q n) s = .next t ∧ t.firing cl ctx = some g ∧ g.pc = f.pc + 4#64 ∧
        ((t.cluster cl).slot f.slot).binds = SMap.del ((s.cluster cl).slot f.slot).binds (q.toNat - 48) ∧ SameRegs [] s t cl f g) ∧
      (bindOf s2 cl w = none → exec (.qbind q n) s = .next (takeTrap s1 cl ctx (trapOf Cause.seqQueue 0#64) f.pc))) ∧
    (∀ (q : Reg) (n : BitVec 8), isQueue q = false ∨ 47 < n.toNat →
      exec (.qbind q n) s = .next (takeTrap s1 cl ctx (trapOf Cause.seqIll 0#64) f.pc))

/-! ## Order and synchronisation (R220 to R237) -/

/-- R220 to R222, R228: a fence of the cluster's scope goes on at once, one of a wider scope once every write that its sequencer issued
before it is performed, as its scope counts; `xfence` goes on once the commands and events on its paths are done, and raises SEQ.ILL
without one. Each closes the die's open batch when it first issues. A fence that waits goes by what had issued when it first did, and waits for
nothing else. Neither changes a byte of memory. Log entries 6 and 27 say when the earlier writes count as performed and what an `xfence`
waits for. Completes: fence.scope, xfence. -/
def Obligations.FenceResult : Prop :=
  ∀ (s : State) (cl ctx : Nat) (f : Firing) (s1 : State), Issues s cl ctx f s1 →
    exec (.fenceScope 0#2) s = .next ((closeBatch s1 (dieOf cl)).past cl ctx 4) ∧
    (∀ sc : BitVec 2, sc ≠ 0#2 →
      ((releaseBy cl ctx (sc == 3#2) false s1).2 = true →
        exec (.fenceScope sc) s = .next ((releaseBy cl ctx (sc == 3#2) false s1).1.past cl ctx 4)) ∧
      ((releaseBy cl ctx (sc == 3#2) false s1).2 = false →
        exec (.fenceScope sc) s = .next (blocked (releaseBy cl ctx (sc == 3#2) false s1).1 cl ctx))) ∧
    (∀ (p : BitVec 8) (sc : BitVec 2), p ≠ 0#8 → (s1.cluster cl).fenceOf ctx = none →
      (commandsDone (s1.cluster cl) p.toNat s1.nextId = true → eventsDone (closeBatch s1 (dieOf cl)) cl p.toNat sc s1.nextId = true →
        ∃ t g, exec (.xfence p sc) s = .next t ∧ t.firing cl ctx = some g ∧ g.pc = f.pc + 4#64 ∧ SameRegs [] s t cl f g ∧ t.mem = s.mem ∧
          (t.die (dieOf cl)).batch = none) ∧
      ((commandsDone (s1.cluster cl) p.toNat s1.nextId && eventsDone (closeBatch s1 (dieOf cl)) cl p.toNat sc s1.nextId) = false →
        exec (.xfence p sc) s = .next (blocked ((closeBatch s1 (dieOf cl)).modCluster cl
          (fun c => c.putFence ctx p.toNat s1.nextId false)) cl ctx))) ∧
    (∀ (p : BitVec 8) (sc : BitVec 2) (x : XFence), p ≠ 0#8 → (s1.cluster cl).fenceOf ctx = some x →
      commandsDone (s1.cluster cl) p.toNat x.upto = true → eventsDone s1 cl p.toNat sc x.upto = true →
        ∃ t g, exec (.xfence p sc) s = .next t ∧ t.firing cl ctx = some g ∧ g.pc = f.pc + 4#64 ∧ (t.cluster cl).fenceOf ctx = none) ∧
    (∀ sc : BitVec 2, exec (.xfence 0#8 sc) s = .next (takeTrap s1 cl ctx (trapOf Cause.seqIll 0#64) f.pc)) ∧
    (∀ u : State, ((closeBatch u (dieOf cl)).die (dieOf cl)).batch = none ∧
      (∀ b, (u.die (dieOf cl)).batch = some b → b ∈ ((closeBatch u (dieOf cl)).die (dieOf cl)).closed)) ∧
    (∀ dom acts : Bool, (s1.cluster cl).fenceOf ctx = none → ((releaseBy cl ctx dom acts s1).1.die (dieOf cl)).batch = none) ∧
    (∀ dom : Bool, (s1.cluster cl).fenceOf ctx = none → ((releaseBy cl ctx dom false s1).2 = true ↔
      (∀ r ∈ s1.inflight, r.cl = cl → r.src = 0 → r.id < s1.nextId → dom = false ∧ regionOf r.pa = 1) ∧
      (∀ o ∈ s1.nmops, o.cl = cl → o.ofStore = true → o.id < s1.nextId → dom = false ∧ regionOf o.pa = 1)))

/-- R229, R230: `sem.sig` posts one add to the semaphore after a release; `sem.rd` reads it; `sem.wge` goes on when the counter meets
the target, as a signed difference, and otherwise registers a waiter and blocks until the waiter is satisfied. `sem.rd` and `sem.wge` wait
besides for what `nmOpen` names: a response that a full notice buffer holds back at a bridge (R214), the host's answer for a line that they
need (R317), a stamp of their stop (R209), and writes that the firing has read on their way to their homes (log entry 6). That `sem.rd` keeps
what it found until its answer has come is log entry 33. Completes: sem.sig, sem.rd, sem.wge. -/
def Obligations.SemaphoreResult : Prop :=
  ∀ (s : State) (cl ctx : Nat) (f : Firing) (s1 : State), Issues s cl ctx f s1 →
    (∀ (a b : Reg) (x v : Word) (s2 s3 : State) (pa : Nat), rd2 cl ctx a b s1 = .ok (x, v) s2 → x.toNat % 8 = 0 →
      nmAddress cl x.toNat 8 true s2 = .ok pa s3 → lineFault s3 pa = none → (releaseBy cl ctx true false s3).2 = true → s3.outstanding cl ctx < 16 →
      exec (.semSig a b) s = .next ((postNm cl none (some ctx) pa (.sig v) (releaseBy cl ctx true false s3).1).past cl ctx 4)) ∧
    (∀ (a b : Reg) (x v : Word) (s2 s3 : State) (pa : Nat), isQueue a = false → isQueue b = false →
      rd2 cl ctx a b s1 = .ok (x, v) s2 → x.toNat % 8 = 0 → nmAddress cl x.toNat 8 false s2 = .ok pa s3 →
      (nmLine cl ctx (some false) x.toNat pa 8 s3 = .stall → exec (.semWge a b) s = .next (blocked s1 cl ctx)) ∧
      (nmLine cl ctx (some false) x.toNat pa 8 s3 = .ok () s3 →
      (s3.waiters.find? (fun w => w.of cl ctx) = none →
        (semMeets (nmSettle cl pa 8 s3).mem pa v = true → exec (.semWge a b) s = .next ((nmSettle cl pa 8 s3).past cl ctx 4)) ∧
        (semMeets (nmSettle cl pa 8 s3).mem pa v = false → ∃ t w, exec (.semWge a b) s = .next t ∧ ((nmSettle cl pa 8 s3).abortingAt cl = none →
          t.waiters = (nmSettle cl pa 8 s3).waiters ++ [w] ∧ w.cl = cl ∧ w.ctx = ctx ∧ w.pa = pa ∧ w.target = v ∧ w.ok = false))) ∧
      (∀ w, s3.waiters.find? (fun w => w.of cl ctx) = some w →
        (w.ok = true → exec (.semWge a b) s =
          .next (({ (dropWaiter s3 cl ctx).learn (dieOf cl) pa 8 with asked := some (cl, pa, true) } : State).past cl ctx 4)) ∧
        (w.ok = false → exec (.semWge a b) s = .next (blocked s3 cl ctx))))) ∧
    (∀ (d a : Reg) (x : Word) (s2 s3 s4 : State) (pa : Nat), rd cl ctx a s1 = .ok x s2 → x.toNat % 8 = 0 →
      nmAddress cl x.toNat 8 false s2 = .ok pa s3 → nmLine cl ctx (some false) x.toNat pa 8 s3 = .ok () s3 →
      wr cl ctx d (BitVec.ofNat 64 ((nmSettle cl pa 8 s3).mem.read 8 pa)) (nmSettle cl pa 8 s3) = .ok () s4 →
      exec (.semRd d a) s = .next ((s1.keepBack cl ctx [d, a] s4).past cl ctx 4)) ∧
    (∀ (u : State) (va pa n : Nat) (w : Bool), lineFault u pa = none →
      (u.nmOpen cl ctx pa n w = false → nmLine cl ctx (some w) va pa n u = .stall) ∧
      (u.nmOpen cl ctx pa n w = true → ((perform u (Msg.nmFirst cl pa n)).getD u).heldError (Held.on pa n) = none →
        nmLine cl ctx (some w) va pa n u = .ok () u)) ∧
    (∀ (mem : Memory) (pa : Nat) (v : Word), semMeets mem pa v = true ↔ BitVec.sle 0#64 (BitVec.ofNat 64 (mem.read 8 pa) - v) = true)

/-- R232 to R234: `gbar.arr` is a release, gives the phase it arrives in, and counts; the phase completes with its last arrival.
`gbar.wait` goes on once the phase it names is over, and blocks before; `gbar.drop` takes the slot's join away, and counts in PD for a slot that
has arrived in the phase under way, in D for another. A poisoned barrier raises SYNC.POISON, an arrival with another level, another N or an N
outside 1 to 65,535 SYNC.COUNT, and a word that names no barrier SEQ.ILL. The model's choices: the barrier's vector, which an arrival raises by what its die has released, and from which the D-vector of the waiter's die
takes the greater entries (log entry 6); what an arrival waits for as a release (log entries 6 and 27); the launch, the level and the group
that a barrier keeps, and the barrier that a drop names (log entry 30). Completes: gbar.arr, gbar.wait, gbar.drop. -/
def Obligations.BarrierResult : Prop :=
  ∀ (s : State) (cl ctx : Nat) (f : Firing) (s1 : State), Issues s cl ctx f s1 →
    (∀ (d a b : Reg) (w n : Word) (s2 s3 : State) (bar : Barrier), rd2 cl ctx a b s1 = .ok (w, n) s2 → barWordOk w = true →
      s2.unseen cl ctx = [] → (releaseBy cl ctx true true s2).2 = true → bar = s2.barrier (barrierKey s2 cl f.wid w) → arrivalFault bar (barLevel w) n = none →
      wr cl ctx d bar.c (releaseBy cl ctx true true s2).1 = .ok () s3 →
      ∃ t g, exec (.gbarArr d a b) s = .next t ∧ t.firing cl ctx = some g ∧ g.pc = f.pc + 4#64 ∧
        t.barrier (barrierKey s2 cl f.wid w) = bar.arrive (barLevel w) n.toNat ((s3.die (dieOf cl)).releases (dieOf cl)) ∧
        SMap.find ((t.cluster cl).slot f.slot).joins (barIdx w) = some ((barrierKey s2 cl f.wid w).2.2, bar.c)) ∧
    (∀ (d a b : Reg) (w n : Word) (s2 : State), rd2 cl ctx a b s1 = .ok (w, n) s2 →
      (barWordOk w = false → exec (.gbarArr d a b) s = .next (takeTrap s1 cl ctx (trapOf Cause.seqIll 0#64) f.pc) ∧
        exec (.gbarWait a b) s = .next (takeTrap s1 cl ctx (trapOf Cause.seqIll 0#64) f.pc)) ∧
      (barWordOk w = true → s2.unseen cl ctx ≠ [] → exec (.gbarArr d a b) s = .next (blocked s1 cl ctx)) ∧
      (barWordOk w = true → s2.unseen cl ctx = [] → (releaseBy cl ctx true true s2).2 = false →
        exec (.gbarArr d a b) s = .next (blocked (releaseBy cl ctx true true s1).1 cl ctx)) ∧
      (∀ c, barWordOk w = true → s2.unseen cl ctx = [] → (releaseBy cl ctx true true s2).2 = true →
        arrivalFault (s2.barrier (barrierKey s2 cl f.wid w)) (barLevel w) n = some c →
        exec (.gbarArr d a b) s = .next (takeTrap s1 cl ctx (trapOf c w) f.pc))) ∧
    (∀ (bar : Barrier) (level : Nat) (n : Word),
      (bar.pz = true → arrivalFault bar level n = some Cause.syncPoison) ∧
      (bar.pz = false → ((∃ l, bar.lv = some l ∧ l ≠ level) ∨ n = 0#64 ∨ 65536 ≤ n.toNat ∨ (∃ m, bar.n = some m ∧ m ≠ n.toNat)) →
        arrivalFault bar level n = some Cause.syncCount) ∧
      (bar.pz = false → ¬((∃ l, bar.lv = some l ∧ l ≠ level) ∨ n = 0#64 ∨ 65536 ≤ n.toNat ∨ (∃ m, bar.n = some m ∧ m ≠ n.toNat)) →
        arrivalFault bar level n = none)) ∧
    (∀ w : Word, barWordOk w = true ↔ w.toNat < 256 ∧ 1 ≤ w.toNat / 32 % 8 ∧ w.toNat / 32 % 8 ≤ 5) ∧
    (∀ (a b : Reg) (w p : Word) (s2 : State), rd2 cl ctx a b s1 = .ok (w, p) s2 → barWordOk w = true →
      ((s2.barrier (barrierKey s2 cl f.wid w)).pz = true →
        exec (.gbarWait a b) s = .next (takeTrap s1 cl ctx (trapOf Cause.syncPoison w) f.pc)) ∧
      ((s2.barrier (barrierKey s2 cl f.wid w)).pz = false →
        (1 ≤ ((s2.barrier (barrierKey s2 cl f.wid w)).c - p).toNat ∧
            ((s2.barrier (barrierKey s2 cl f.wid w)).c - p).toNat ≤ 9223372036854775808 →
          exec (.gbarWait a b) s =
            .next ((s2.dependOn (dieOf cl) (s2.barrier (barrierKey s2 cl f.wid w)).clock).past cl ctx 4)) ∧
        (((s2.barrier (barrierKey s2 cl f.wid w)).c - p).toNat = 0 ∨
            9223372036854775808 < ((s2.barrier (barrierKey s2 cl f.wid w)).c - p).toNat →
          exec (.gbarWait a b) s = .next (blocked s1 cl ctx)))) ∧
    (∀ (a : Reg) (w : Word) (s2 : State), rd cl ctx a s1 = .ok w s2 → barWordOk w = false →
      exec (.gbarDrop a) s = .next (takeTrap s1 cl ctx (trapOf Cause.seqIll 0#64) f.pc)) ∧
    (∀ (bar : Barrier) (last : Word), (bar.pz = true → (bar.drop last).c = bar.c) ∧
      (last = bar.c → (∀ m, bar.n = some m → bar.a + bar.d < m) → bar.drop last = { bar with pd := bar.pd + 1 }) ∧
      (last ≠ bar.c → (∀ m, bar.n = some m → bar.a + bar.d + 1 < m) → bar.drop last = { bar with d := bar.d + 1 }) ∧
      (∀ m, last ≠ bar.c → bar.pz = false → bar.n = some m → m ≤ bar.a + bar.d + 1 → (bar.drop last).c = bar.c + 1#64 ∧ (bar.drop last).a = 0 ∧
        (bar.drop last).n = none ∧ (bar.drop last).d = bar.d + 1 + bar.pd ∧ (bar.drop last).pd = 0)) ∧
    (∀ (a : Reg) (w : Word) (s2 : State), rd cl ctx a s1 = .ok w s2 → barWordOk w = true →
      (∀ group last, SMap.find ((s2.cluster cl).slot f.slot).joins (barIdx w) = some (group, last) →
        ∃ t g, exec (.gbarDrop a) s = .next t ∧ t.firing cl ctx = some g ∧ g.pc = f.pc + 4#64 ∧
          t.barrier (barrierKey s2 cl f.wid w) = (s2.barrier (barrierKey s2 cl f.wid w)).drop last ∧
          ((t.cluster cl).slot f.slot).joins = SMap.del ((s2.cluster cl).slot f.slot).joins (barIdx w)) ∧
      (SMap.find ((s2.cluster cl).slot f.slot).joins (barIdx w) = none →
        exec (.gbarDrop a) s = .next (takeTrap s1 cl ctx (trapOf Cause.syncCount w) f.pc))) ∧
    (∀ (bar : Barrier) (level n : Nat) (v : List Lane), bar.pz = false →
      (n ≤ bar.a + 1 + bar.d → (bar.arrive level n v).c = bar.c + 1#64 ∧ (bar.arrive level n v).a = 0 ∧
        (bar.arrive level n v).d = bar.d + bar.pd ∧ (bar.arrive level n v).pd = 0 ∧ (bar.arrive level n v).n = none) ∧
      (bar.a + 1 + bar.d < n → (bar.arrive level n v).c = bar.c ∧ (bar.arrive level n v).a = bar.a + 1 ∧
        (bar.arrive level n v).n = some n))

/-- R226, R236: `amo` reads the location, writes what the operation gives, and answers the old value; `red` posts the operation; `cas`
writes the new value where the location holds the one expected, and answers the old value. An operation or a type that Table 15.8
lacks raises SEQ.ILL. R237: `pst` posts one operation that writes an element and its twin; a copy whose page may not be written, or is
not mapped, raises the fault of that translation (R243), and one that fails the checks of its region or its line that of the check (R226). Log entry 6: `amo` and `cas` act in their step, `red` and `pst` are posted.
Completes: amo, red, cas, pst. -/
def Obligations.AtomicResult : Prop :=
  (∀ (s : State) (cl ctx : Nat) (f : Firing) (s1 : State), Issues s cl ctx f s1 →
     (∀ (d a b : Reg) (o ty : BitVec 4) (pa : Nat) (y : Word) (s2 s3 : State), nmValid o.toNat ty.toNat = true →
       atomicAddress cl ctx (some true) a ty.toNat s1 = .ok pa s2 → rd cl ctx b s2 = .ok y s3 →
       ∃ old s4, old = (nmSettle cl pa (nmSize ty.toNat) s3).mem.read (nmSize ty.toNat) pa ∧
         s4.mem = (nmSettle cl pa (nmSize ty.toNat) s3).mem.write (nmSize ty.toNat) pa
           (nmCompute o.toNat ty.toNat old (y.toNat % 2 ^ (8 * nmSize ty.toNat))) ∧
         (∀ s5, wr cl ctx d (BitVec.ofNat 64 old) s4 = .ok () s5 → exec (.amo d a b o ty) s = .next (s5.past cl ctx 4)) ∧
         (plainReg d = true → ∃ t g, exec (.amo d a b o ty) s = .next t ∧ t.firing cl ctx = some g ∧ g.pc = f.pc + 4#64 ∧
           t.mem = s4.mem ∧ (d ≠ 0#6 → regValue cl ctx d t = some (BitVec.ofNat 64 old)))) ∧
     (∀ (a b : Reg) (o ty : BitVec 4) (pa : Nat) (y : Word) (s2 s3 : State), nmValid o.toNat ty.toNat = true → o ≠ 0#4 →
       atomicAddress cl ctx none a ty.toNat s1 = .ok pa s2 → rd cl ctx b s2 = .ok y s3 → s3.outstanding cl ctx < 16 →
       exec (.red a b o ty) s = .next ((postNm cl none (some ctx) pa (.rmw o.toNat ty.toNat y) s3).past cl ctx 4)) ∧
     (∀ (d a b : Reg) (ty : BitVec 4) (pa : Nat) (y e : Word) (s2 s3 : State), ty.toNat ≤ 3 → isQueue d = false →
       atomicAddress cl ctx (some true) a ty.toNat s1 = .ok pa s2 → rd2 cl ctx b d s2 = .ok (y, e) s3 →
       ∃ old s4, old = (nmSettle cl pa (nmSize ty.toNat) s3).mem.read (nmSize ty.toNat) pa ∧
         s4.mem = (nmSettle cl pa (nmSize ty.toNat) s3).mem.write (nmSize ty.toNat) pa
           (if old = e.toNat % 2 ^ (8 * nmSize ty.toNat) then y.toNat % 2 ^ (8 * nmSize ty.toNat) else old) ∧
         (∀ s5, wr cl ctx d (BitVec.ofNat 64 old) s4 = .ok () s5 → exec (.cas d a b ty) s = .next (s5.past cl ctx 4)) ∧
         (plainReg d = true → ∃ t g, exec (.cas d a b ty) s = .next t ∧ t.firing cl ctx = some g ∧ g.pc = f.pc + 4#64 ∧
           t.mem = s4.mem ∧ (d ≠ 0#6 → regValue cl ctx d t = some (BitVec.ofNat 64 old)))) ∧
     (∀ (d a b : Reg) (o ty : BitVec 4), nmValid o.toNat ty.toNat = false →
       exec (.amo d a b o ty) s = .next (takeTrap s1 cl ctx (trapOf Cause.seqIll 0#64) f.pc) ∧
       exec (.red a b o ty) s = .next (takeTrap s1 cl ctx (trapOf Cause.seqIll 0#64) f.pc)) ∧
     (∀ (a b : Reg) (ty : BitVec 4), exec (.red a b 0#4 ty) s = .next (takeTrap s1 cl ctx (trapOf Cause.seqIll 0#64) f.pc)) ∧
     (∀ (d a b : Reg) (ty : BitVec 4), 3 < ty.toNat ∨ isQueue d = true →
       exec (.cas d a b ty) s = .next (takeTrap s1 cl ctx (trapOf Cause.seqIll 0#64) f.pc)) ∧
     (∀ (op ty old y : Nat), op ≤ 6 → ty ≤ 3 → old < 2 ^ (8 * nmSize ty) → y < 2 ^ (8 * nmSize ty) →
       nmCompute op ty old y = match op with
         | 0 => y
         | 1 => (old + y) % 2 ^ (8 * nmSize ty)
         | 2 => old &&& y
         | 3 => old ||| y
         | 4 => old ^^^ y
         | 5 => if (if ty = 1 ∨ ty = 3 then (BitVec.ofNat (8 * nmSize ty) old).slt (BitVec.ofNat (8 * nmSize ty) y)
             else decide (old < y)) = true then old else y
         | _ => if (if ty = 1 ∨ ty = 3 then (BitVec.ofNat (8 * nmSize ty) old).slt (BitVec.ofNat (8 * nmSize ty) y)
             else decide (old < y)) = true then y else old)) ∧
  (∀ (s : State) (cl ctx : Nat) (f : Firing) (s1 s2 : State) (d a b : Reg) (id : Nat) (ten : Tensor) (xs : List Nat) (t : Task),
     Issues s cl ctx f s1 → tensorElement cl ctx a b pstBad s1 = .ok (id, ten, xs) s2 → s2.taskOf cl = some t →
     (∀ (s3 s4 : State) (p q : Place2), elementWritable cl t id xs s2 = .ok () s3 →
       elementWritable cl t ten.twin (transposed xs) s3 = .ok () s4 →
       elementPlace s4 ((s2.cluster cl).owner.getD 0) t id false ten.layout xs = some p →
       elementPlace s4 ((s2.cluster cl).owner.getD 0) t ten.twin false (t.tensor ten.twin).layout (transposed xs) = some q →
       (∀ i, copyChecked cl ctx t id (tyBits ten.ty / 8) p.pa xs s4 = .trap i → exec (.pst d a b) s = .next (takeTrap s1 cl ctx i f.pc)) ∧
       (∀ s5, copyChecked cl ctx t id (tyBits ten.ty / 8) p.pa xs s4 = .ok () s5 →
         (∀ i, copyChecked cl ctx t ten.twin (tyBits ten.ty / 8) q.pa (transposed xs) s5 = .trap i →
           exec (.pst d a b) s = .next (takeTrap s1 cl ctx i f.pc)) ∧
         (∀ (s6 s7 : State) (v : Word), copyChecked cl ctx t ten.twin (tyBits ten.ty / 8) q.pa (transposed xs) s5 = .ok () s6 →
           s6.outstanding cl ctx < 16 → rd cl ctx d s6 = .ok v s7 →
           exec (.pst d a b) s = .next
             ((postNm cl none (some ctx) p.pa (.pair q.pa (bytesOfNat (tyBits ten.ty / 8) v.toNat)) s7).past cl ctx 4)))) ∧
     (∀ x, translate s2 (dieOf cl) t.root (t.elementVa id xs) true = .error x → Cause.classOf x.cause ≠ 10 →
       exec (.pst d a b) s = .next (takeTrap s1 cl ctx
         { cause := x.cause, addr := BitVec.ofNat 64 (t.elementVa id xs), aux := BitVec.ofNat 64 x.epa, level := x.level } f.pc)) ∧
     (∀ s3 x, elementWritable cl t id xs s2 = .ok () s3 →
       translate s3 (dieOf cl) t.root (t.elementVa ten.twin (transposed xs)) true = .error x → Cause.classOf x.cause ≠ 10 →
       exec (.pst d a b) s = .next (takeTrap s1 cl ctx
         { cause := x.cause, addr := BitVec.ofNat 64 (t.elementVa ten.twin (transposed xs)), aux := BitVec.ofNat 64 x.epa,
           level := x.level } f.pc)))

/-! ## Differentiable mode and the tape (R301 to R310) -/

/-- R308, R309: `dmode` takes force once what R308 lists is done; `tape.base` links a segment, `tape.lim` sets its limit; `tape.mark`
in FWD appends a mark with its tag, answers its index and applies a pending loss scale, with a new epoch where the scale changes (R310); in REV
and REV.DET it pops the last record, a mark, and answers its tag: an empty tape raises TAPE.EMPTY, another record TAPE.ORDER. `tape.rd` gives a
dword of the header that lies k records from the end, and 0 beyond the tape. An argument out of range raises TAPE.ARG with AUX holding tapeptr,
and a message queue as d SEQ.ILL. What `dmode` waits for, and that one which meets an uncorrectable error aborts the gang, is log entry 38; what
`tape.rd` keeps until its answer has come is log entry 33. -/
def Obligations.TapeResult : Prop :=
  ∀ (s : State) (cl ctx : Nat) (f : Firing) (s1 : State), Issues s cl ctx f s1 →
    (∀ (a : Reg) (m : Word) (s2 : State), rd cl ctx a s1 = .ok m s2 →
      (∀ c, m.toNat ≤ 2 → (releaseBy cl ctx true false s2).2 = true → switchReady (releaseBy cl ctx true false s2).1 cl = true →
        (releaseBy cl ctx true false s2).1.heldError (fun h => s2.held.any (fun g => g.cl == cl && g.pa == h.pa)) = some c →
        exec (.dmode a) s = .next (endWhereItStands (abortAt s1 cl ctx c) cl ctx)) ∧
      (m.toNat ≤ 2 → (releaseBy cl ctx true false s2).2 = true → switchReady (releaseBy cl ctx true false s2).1 cl = false →
        exec (.dmode a) s = .next (blocked s1 cl ctx)) ∧
      (m.toNat ≤ 2 → (releaseBy cl ctx true false s2).2 = false → exec (.dmode a) s = .next (blocked (releaseBy cl ctx true false s1).1 cl ctx)) ∧
      (m.toNat ≤ 2 → (releaseBy cl ctx true false s2).2 = true → switchReady (releaseBy cl ctx true false s2).1 cl = true →
        (releaseBy cl ctx true false s2).1.heldError (fun h => s2.held.any (fun g => g.cl == cl && g.pa == h.pa)) = none →
        ∃ t g, exec (.dmode a) s = .next t ∧ t.firing cl ctx = some g ∧ g.pc = f.pc + 4#64 ∧ (t.cluster cl).dmode = m.toNat ∧
          (∀ h ∈ t.held, h.cl ≠ cl) ∧ (t.cluster cl).tapeptr = (s.cluster cl).tapeptr ∧ SameRegs [] s t cl f g) ∧
      (2 < m.toNat → exec (.dmode a) s = .next (takeTrap s1 cl ctx
        { cause := Cause.tapeArg, addr := m, aux := BitVec.ofNat 64 (s2.cluster cl).tapeptr, level := 0 } f.pc))) ∧
    (∀ (a b : Reg) (x n : Word) (s2 : State), rd2 cl ctx a b s1 = .ok (x, n) s2 → x.toNat % 128 = 0 → n.toNat ≤ (s2.cluster cl).lim →
      tapeIdle s2 cl = true →
      ∃ t g, exec (.tapeBase a b) s = .next t ∧ t.firing cl ctx = some g ∧ g.pc = f.pc + 4#64 ∧
        (t.cluster cl).tapebase = some x ∧ (t.cluster cl).tapeptr = n.toNat ∧ SameRegs [] s t cl f g) ∧
    (∀ (a : Reg) (v : Word) (s2 : State), rd cl ctx a s1 = .ok v s2 →
      (1 ≤ v.toNat ∧ v.toNat ≤ 4096 → ∃ t g, exec (.tapeLim a) s = .next t ∧ t.firing cl ctx = some g ∧ g.pc = f.pc + 4#64 ∧
        (t.cluster cl).tapelim = v.toNat ∧ SameRegs [] s t cl f g) ∧
      (v = 0#64 ∨ 4096 < v.toNat → exec (.tapeLim a) s = .next (takeTrap s1 cl ctx
        { cause := Cause.tapeArg, addr := v, aux := BitVec.ofNat 64 (s2.cluster cl).tapeptr, level := 0 } f.pc))) ∧
    (∀ (d a : Reg) (v : Word) (s2 s3 s4 : State) (h : Nat), isQueue d = false → rd cl ctx a s1 = .ok v s2 → (s2.cluster cl).dmode = 0 →
      (s2.cluster cl).tapebase.isSome = true → (s2.cluster cl).tapeptr < (s2.cluster cl).lim → s2.outstanding cl ctx < 16 →
      headerAt cl (s2.cluster cl).tapeptr true s2 = .ok h s3 →
      wr cl ctx d (BitVec.ofNat 64 (s2.cluster cl).tapeptr) s3 = .ok () s4 →
      ∃ t g, exec (.tapeMark d a) s = .next t ∧ t.firing cl ctx = some g ∧ g.pc = f.pc + 4#64 ∧
        (t.cluster cl).tapeptr = (s2.cluster cl).tapeptr + 1 ∧ (t.cluster cl).tapeseq = (s2.cluster cl).tapeseq + 1 ∧
        (t.cluster cl).lpend = none ∧ regValue cl ctx d t = regValue cl ctx d s4 ∧
        (t.cluster cl).lscale = ((s2.cluster cl).lpend.getD (s2.cluster cl).lscale) ∧
        (t.cluster cl).lsepoch = (match (s2.cluster cl).lpend with
          | some v => if v = (s2.cluster cl).lscale then (s2.cluster cl).lsepoch else (s2.cluster cl).lsepoch + 1#64
          | none => (s2.cluster cl).lsepoch) ∧
        (∃ o ∈ t.nmops, o.pa = h ∧ o.kind = .mark (markHeader (v.toNat % 4294967296) (((s2.cluster cl).tapeseq + 1) % 16777216)))) ∧
    (∀ (d a : Reg) (v : Word) (s2 : State), isQueue d = false → rd cl ctx a s1 = .ok v s2 → (s2.cluster cl).dmode ≠ 0 →
      ((s2.cluster cl).tapeptr = 0 → exec (.tapeMark d a) s = .next (takeTrap s1 cl ctx
        { cause := Cause.tapeEmpty, addr := v, aux := 0#64, level := 0 } f.pc)) ∧
      (∀ (h r : Nat) (s3 s4 : State), (s2.cluster cl).tapeptr ≠ 0 → headerAt cl ((s2.cluster cl).tapeptr - 1) false s2 = .ok h s3 →
        (recordDone s3 cl h = false → exec (.tapeMark d a) s = .next (blocked s1 cl ctx)) ∧
        (recordDone s3 cl h = true → sqRead cl ctx h 16 true v.toNat s3 = .ok r s4 →
          (headerKind r ≠ 1 → exec (.tapeMark d a) s = .next (takeTrap s1 cl ctx
            { cause := Cause.tapeOrder, addr := v, aux := BitVec.ofNat 64 (s4.cluster cl).tapeptr, level := 0 } f.pc)) ∧
          (∀ s5, headerKind r = 1 → wr cl ctx d (BitVec.ofNat 64 (headerTag r % 4294967296)) s4 = .ok () s5 →
            ∃ t g, exec (.tapeMark d a) s = .next t ∧ t.firing cl ctx = some g ∧ g.pc = f.pc + 4#64 ∧
              (t.cluster cl).tapeptr + 1 = (s5.cluster cl).tapeptr ∧ (t.cluster cl).tapeseq = (s5.cluster cl).tapeseq ∧
              (t.cluster cl).lsepoch = (s5.cluster cl).lsepoch ∧ (t.cluster cl).lscale = (s5.cluster cl).lscale ∧
              regValue cl ctx d t = regValue cl ctx d s5 ∧ t.mem = s5.mem)))) ∧
    (∀ (d a : Reg) (v : Word) (s2 : State), isQueue d = false → rd cl ctx a s1 = .ok v s2 →
      (tapeIdle s2 cl = false → exec (.tapeRd d a) s = .next (blocked s1 cl ctx)) ∧
      (∀ (h x : Nat) (s3 s4 s5 : State), tapeIdle s2 cl = true → v.toNat / 2 < (s2.cluster cl).tapeptr →
        headerAt cl ((s2.cluster cl).tapeptr - 1 - v.toNat / 2) false s2 = .ok h s3 →
        sqRead cl ctx (h + 8 * (v.toNat % 2)) 8 true v.toNat s3 = .ok x s4 → wr cl ctx d (BitVec.ofNat 64 x) s4 = .ok () s5 →
        exec (.tapeRd d a) s = .next ((s1.keepBack cl ctx [d, a] s5).past cl ctx 4))) ∧
    (∀ (d a : Reg), isQueue d = true →
      exec (.tapeMark d a) s = .next (takeTrap s1 cl ctx (trapOf Cause.seqIll 0#64) f.pc) ∧
      exec (.tapeRd d a) s = .next (takeTrap s1 cl ctx (trapOf Cause.seqIll 0#64) f.pc)) ∧
    (∀ (d a : Reg) (v : Word) (s2 s3 : State), isQueue d = false → rd cl ctx a s1 = .ok v s2 → tapeIdle s2 cl = true →
      (s2.cluster cl).tapeptr ≤ v.toNat / 2 → wr cl ctx d 0#64 s2 = .ok () s3 →
      exec (.tapeRd d a) s = .next (s3.past cl ctx 4))

/-! ## Experts (R286, R289, R298) -/

/-- R298: `ert.q` gives the word of an entry, 0 where the table has none; `ert.pin` and `ert.unpin` count; `ert.fetch` clears F and
asks for slices; `ert.evict` raises ERT.PIN for a pinned expert when it issues, waits until the expert may go, and frees it. A key without an
entry raises ERT.KEY with ADDR and AUX holding it. Log entry 16; what `ert.q` keeps until its answer has come is log entry 33.
Completes: ert.q, ert.pin, ert.unpin, ert.fetch, ert.evict. -/
def Obligations.ExpertResult : Prop :=
  ∀ (s : State) (cl ctx : Nat) (f : Firing) (s1 s2 : State) (a : Reg) (k : Word), Issues s cl ctx f s1 → rd cl ctx a s1 = .ok k s2 →
    k.toNat < 4294967296 →
    (∀ (d : Reg) (s3 : State), wr cl ctx d (((s2.ert k.toNat).map (ertWord k.toNat)).getD 0#64) (s2.askHub cl false) = .ok () s3 →
      exec (.ertQ d a) s = .next ((s1.keepBack cl ctx [d, a] s3).past cl ctx 4)) ∧
    (s2.ert k.toNat = none →
      exec (.ertPin a) s = .next (takeTrap s1 cl ctx { cause := Cause.ertKey, addr := k, aux := k, level := 0 } f.pc) ∧
      exec (.ertUnpin a) s = .next (takeTrap s1 cl ctx { cause := Cause.ertKey, addr := k, aux := k, level := 0 } f.pc) ∧
      exec (.ertEvict a) s = .next (takeTrap s1 cl ctx { cause := Cause.ertKey, addr := k, aux := k, level := 0 } f.pc)) ∧
    (∀ e, s2.ert k.toNat = some e →
      (e.pin < 65535 → ∃ t g, exec (.ertPin a) s = .next t ∧ t.firing cl ctx = some g ∧ g.pc = f.pc + 4#64 ∧
        t.ert k.toNat = some { e with pin := e.pin + 1 } ∧ SameRegs [] s t cl f g) ∧
      (0 < e.pin → ∃ t g, exec (.ertUnpin a) s = .next t ∧ t.firing cl ctx = some g ∧ g.pc = f.pc + 4#64 ∧
        t.ert k.toNat = some { e with pin := e.pin - 1 } ∧ SameRegs [] s t cl f g) ∧
      (e.pin = 65535 → exec (.ertPin a) s = .next (takeTrap s1 cl ctx { cause := Cause.ertPin, addr := k, aux := k, level := 0 } f.pc)) ∧
      (e.pin = 0 → exec (.ertUnpin a) s = .next (takeTrap s1 cl ctx { cause := Cause.ertPin, addr := k, aux := k, level := 0 } f.pc)) ∧
      (∀ (b : Reg) (n : Word) (s3 : State), rd cl ctx b s2 = .ok n s3 →
        ∃ t g, exec (.ertFetch a b) s = .next t ∧ t.firing cl ctx = some g ∧ g.pc = f.pc + 4#64 ∧
          t.ert k.toNat = some { e with failed := false } ∧
          (e.pre < (if n = 0#64 then e.nsl else Nat.min n.toNat e.nsl) → (fetchOf t k.toNat).isSome = true)) ∧
      ((f.evicting = true ∨ e.pin = 0) → (e.state = 0 ∨ evictable s2 k.toNat e = true) →
        ∃ t g, exec (.ertEvict a) s = .next t ∧ t.firing cl ctx = some g ∧ g.pc = f.pc + 4#64 ∧ g.evicting = false ∧
          SameRegs [] s t cl f g ∧ t.ert k.toNat = some (if e.state = 0 then e else { e with pre := 0, state := 0, pool := 0 })) ∧
      (f.evicting = false → 0 < e.pin → exec (.ertEvict a) s =
        .next (takeTrap s1 cl ctx { cause := Cause.ertPin, addr := k, aux := k, level := 0 } f.pc)) ∧
      ((f.evicting = true ∨ e.pin = 0) → e.state ≠ 0 → evictable s2 k.toNat e = false →
        ∃ g, s1.firing cl ctx = some g ∧
          exec (.ertEvict a) s = .next (blocked (s1.setFiring cl ctx { g with evicting := true }) cl ctx)))

/-! ## System registers, invalidation, time (R79, R245, R263, R281 to R283, R285) -/

/-- R79, R281, R282: `csrr` gives each register of Table 4.13, and raises SEQ.ILL for another number; `ldtsc` gives the counter, which
runs at 1 GHz beside the 1.3 GHz clock, and the firing issues nothing before d is written, two cycles later: `holdNext` says so. The value of the
counter at cycle 0 is the model's choice (log entry 4). -/
def Obligations.ControlRegisterRead : Prop :=
  ∀ (s : State) (cl ctx : Nat) (f : Firing) (s1 s2 : State) (d : Reg), Issues s cl ctx f s1 →
    (∀ p ∈ [(0x00, f.wid), (0x01, BitVec.ofNat 64 s1.tsc), (0x02, BitVec.ofNat 64 (s.cluster cl).dmode),
        (0x03, BitVec.ofNat 64 (s.cluster cl).tapeptr), (0x04, BitVec.ofNat 64 (s.cluster cl).tapelim), (0x05, (s.cluster cl).lscale),
        (0x06, (s.cluster cl).lsepoch), (0x08, ((f.handling.map (fun r => r.cause.zeroExtend 64)).getD 0#64)),
        (0x09, ((f.handling.map (fun r => r.src.zeroExtend 64)).getD 0#64)), (0x0A, ((f.handling.map (fun r => r.addr)).getD 0#64)),
        (0x0B, ((f.handling.map (fun _ => f.epc)).getD 0#64)), (0x0C, (s.cluster cl).flags.zeroExtend 64),
        (0x10, BitVec.ofNat 64 (524288 - (s.cluster cl).spill)), (0x11, 524288#64)],
      wr cl ctx d p.2 s1 = .ok () s2 → exec (.csrr d (BitVec.ofNat 6 p.1)) s = .next (s2.past cl ctx 4)) ∧
    (∀ n : BitVec 6, n.toNat ∉ [0x00, 0x01, 0x02, 0x03, 0x04, 0x05, 0x06, 0x08, 0x09, 0x0A, 0x0B, 0x0C, 0x10, 0x11] →
      exec (.csrr d n) s = .next (takeTrap s1 cl ctx (trapOf Cause.seqIll 0#64) f.pc)) ∧
    (wr cl ctx d (BitVec.ofNat 64 (s1.tscBase + s1.now * 10 / 13)) s1 = .ok () s2 → exec (.ldtsc d) s = .next ((s2.holdNext cl ctx 2).past cl ctx 4)) ∧
    (∀ t : State, t.firing cl ctx = some f → ∃ g, (t.holdNext cl ctx 2).firing cl ctx = some g ∧ g.resumeAt = t.now + 2 ∧ g.s = f.s ∧ g.pc = f.pc)

/-- R43, R79, R281, R310: `csrw` of `lscale` leaves a pending scale, which must be a positive normal power of two, else TAPE.LSCALE; of
`epc` the handler's return address, discarded elsewhere; of `flags` a clear of the bits written as 1, but for those that a firing
raises in that cycle. Any other number raises SEQ.ILL. Completes: csrw. -/
def Obligations.ControlRegisterWrite : Prop :=
  ∀ (s : State) (cl ctx : Nat) (f : Firing) (s1 s2 : State) (a : Reg) (v : Word), Issues s cl ctx f s1 → rd cl ctx a s1 = .ok v s2 →
    ((∃ e, 1 ≤ e ∧ e ≤ 254 ∧ v = BitVec.ofNat 64 (e * 8388608)) → ∃ t g, exec (.csrw a 0x05#6) s = .next t ∧
      t.firing cl ctx = some g ∧ g.pc = f.pc + 4#64 ∧ (t.cluster cl).lpend = some v ∧ (t.cluster cl).lscale = (s.cluster cl).lscale ∧
      SameRegs [] s t cl f g) ∧
    ((∀ e, 1 ≤ e → e ≤ 254 → v ≠ BitVec.ofNat 64 (e * 8388608)) → exec (.csrw a 0x05#6) s = .next (takeTrap s1 cl ctx
        { cause := Cause.tapeLscale, addr := v, aux := BitVec.ofNat 64 (s2.cluster cl).tapeptr, level := 0 } f.pc)) ∧
    (∃ t g, exec (.csrw a 0x0B#6) s = .next t ∧ t.firing cl ctx = some g ∧ g.pc = f.pc + 4#64 ∧ SameRegs [] s t cl f g ∧
      (f.handling.isSome = true → g.epc = v) ∧ (f.handling = none → g.epc = f.epc)) ∧
    (∃ t g, exec (.csrw a 0x0C#6) s = .next t ∧ t.firing cl ctx = some g ∧ g.pc = f.pc + 4#64 ∧ SameRegs [] s t cl f g ∧
      ((∀ e ∈ (s.cluster cl).ces, e.2.raisedAt ≠ s1.now) → (t.cluster cl).flags = (s.cluster cl).flags &&& ~~~(v.setWidth 5)) ∧
      (∀ e ∈ (s.cluster cl).ces, e.2.raisedAt = s1.now → e.2.raised &&& e.2.flags &&& ~~~(t.cluster cl).flags = 0#5) ∧
      (t.cluster cl).flags &&& ~~~(s.cluster cl).flags = 0#5 ∧ t.mem = s.mem) ∧
    (∀ n : BitVec 6, n ≠ 0x05#6 → n ≠ 0x0B#6 → n ≠ 0x0C#6 →
      exec (.csrw a n) s = .next (takeTrap s1 cl ctx (trapOf Cause.seqIll 0#64) f.pc))

/-- R245, R263, R283, R285: `nop` changes nothing but the program counter; `icinv` and `tlbinv` drop the lines and the translations that meet
the range they name, everywhere, and change no register and no byte of memory. -/
def Obligations.InvalidationResult : Prop :=
  ∀ (s : State) (cl ctx : Nat) (f : Firing) (s1 : State), Issues s cl ctx f s1 →
    exec .nop s = .next (s1.past cl ctx 4) ∧
    (∀ (a b : Reg) (x n : Word) (s2 : State) (task : Task), rd2 cl ctx a b s1 = .ok (x, n) s2 → s2.taskOf cl = some task →
      (∃ t g, exec (.icinv a b) s = .next t ∧ t.firing cl ctx = some g ∧ g.pc = f.pc + 4#64 ∧ SameRegs [] s t cl f g ∧ t.mem = s.mem ∧
        (∀ k line, ((s2.cluster k).owner.bind s2.task).map (·.handle) = some task.handle →
          (x.toNat < Nat.min (x.toNat + n.toNat) task.csize ∧ 128 * line < Nat.min (x.toNat + n.toNat) task.csize ∧ x.toNat < 128 * line + 128) →
          SMap.find (t.cluster k).icache line = none)) ∧
      (∃ t g, exec (.tlbinv a b) s = .next t ∧ t.firing cl ctx = some g ∧ g.pc = f.pc + 4#64 ∧ SameRegs [] s t cl f g ∧ t.mem = s.mem ∧
        (∀ k, ∀ l ∈ (t.die k).leafs, l.root = task.root → 0 < n.toNat → x.toNat < 144115188075855872 →
          l.va + l.size ≤ x.toNat ∨ Nat.min (x.toNat + n.toNat) 144115188075855872 ≤ l.va)))

/-! ## Taking a trap and returning from one (R275 to R280) -/

/-- R275, R276: a fault of a firing suspends it where it stands. Its record goes to the task's trap ring, numbered, and to the queue of the
cluster's trap actor; the firing keeps its registers, its program counter stands at EPC, its slot is suspended, and no byte of
memory changes. R274, R275: without a trap actor, and in the trap actor's own firing, a fault kills the task with its cause, and where it
leaves all four contexts suspended with SEQ.NOCTX: the record of the fault has been appended to the trap ring, numbered, the task has ended,
every cluster it held is free, its firings there are gone, and no byte of memory changes. That the barriers of a killed task are gone, which
R234 poisons, is log entry 30, what else its end leaves log entry 29, and the order in which the record is appended log entry 5. -/
def Obligations.TrapTaken : Prop :=
  (∀ (s : State) (cl ctx : Nat) (f : Firing) (i : TrapInfo) (epc : Word), s.firing cl ctx = some f → s.abortingAt cl = none →
     f.handling = none → (s.cluster cl).trapSlot.isSome = true → (∃ k, k < 4 ∧ k ≠ ctx ∧ ∀ g, s.firing cl k = some g → g.suspended = none) →
     ∃ g r, (takeTrap s cl ctx i epc).firing cl ctx = some g ∧ g.pc = epc ∧ g.suspended = some s.now ∧ g.s = f.s ∧ g.sp = f.sp ∧
       r ∈ ((takeTrap s cl ctx i epc).cluster cl).traps ∧ r.cause = i.cause ∧ r.addr = i.addr ∧ r.aux = i.aux ∧ r.epc = epc ∧
       r.wid = f.wid ∧ r.ctx = ctx ∧ r.slot = f.slot ∧ r.r = true ∧ r.tsc = BitVec.ofNat 64 s.tsc ∧
       (∀ t x, (s.cluster cl).owner = some t → s.task t = some x → ∃ y, (takeTrap s cl ctx i epc).task t = some y ∧ r ∈ y.ring ∧
         y.seqno = x.seqno + 1 ∧ r.seqno = BitVec.ofNat 64 (x.seqno + 1) ∧ y.status = x.status) ∧
       (((takeTrap s cl ctx i epc).cluster cl).slot f.slot).status = .suspended ∧ (takeTrap s cl ctx i epc).mem = s.mem ∧
       SameOthers s (takeTrap s cl ctx i epc) cl) ∧
  (∀ (s : State) (cl ctx : Nat) (f : Firing) (i : TrapInfo) (epc : Word) (t : Nat) (x : Task), s.firing cl ctx = some f →
     s.abortingAt cl = none → (s.cluster cl).owner = some t → s.task t = some x →
     ∀ c, ((f.handling.isSome = true ∨ (s.cluster cl).trapSlot = none) ∧ c = i.cause ∨
       f.handling = none ∧ (s.cluster cl).trapSlot.isSome = true ∧
         (∀ k, k < 4 → k ≠ ctx → ∃ g, s.firing cl k = some g ∧ g.suspended.isSome = true) ∧ ctx < 4 ∧ c = Cause.seqNoctx) →
     (∃ y r, (takeTrap s cl ctx i epc).task t = some y ∧ y.status = .ended ∧ y.endCause = c ∧ r ∈ y.ring ∧ r.cause = i.cause ∧
       r.addr = i.addr ∧ r.aux = i.aux ∧ r.epc = epc ∧ r.wid = f.wid ∧ r.ctx = ctx ∧ r.slot = f.slot ∧
       r.seqno = BitVec.ofNat 64 (x.seqno + 1) ∧ y.seqno = x.seqno + 1) ∧
     (∀ k, (s.cluster k).owner = some t → ((takeTrap s cl ctx i epc).cluster k).owner = none ∧
       ∀ n, (takeTrap s cl ctx i epc).firing k n = none) ∧
     (∀ b ∈ (takeTrap s cl ctx i epc).barriers, b.1.1 ≠ t) ∧ (takeTrap s cl ctx i epc).mem = s.mem)

/-- R279: `trap` raises SEQ.TRAP after it issues: AUX is rd(a), EPC the next instruction. -/
def Obligations.TrapInstruction : Prop :=
  ∀ (s : State) (cl ctx : Nat) (f : Firing) (s1 s2 : State) (a : Reg) (v : Word), Issues s cl ctx f s1 → rd cl ctx a s1 = .ok v s2 →
    exec (.trap a) s = .next (takeTrap s2 cl ctx { cause := Cause.seqTrap, addr := 0#64, aux := v, level := 0 } (f.pc + 4#64)) ∧
    (∀ t x, f.handling.isSome = true → s2.abortingAt cl = none → (s2.cluster cl).owner = some t → s2.task t = some x →
      ∃ u y, exec (.trap a) s = .next u ∧ u.task t = some y ∧ y.status = .ended ∧ y.endCause = Cause.seqTrap)

/-- R78, R95, R138: a word that is no instruction raises SEQ.ILL, a program counter outside the code SEQ.PC with trapaddr holding it,
and a firing that will have used its budget by its next issue slot SEQ.BUDGET, in the cycle in which the budget ends; each with EPC at
the instruction that was to come. R95: a load whose value is still on its way when the budget ends is not executed: the firing stops at it,
with its registers as they were before it. A `gbar.arr` that waits for its release, and an update whose answer is on its way, are not cut off.
Log entries 2 and 5; what rides the loops is log entry 33. -/
def Obligations.FetchFaults : Prop :=
  ∀ (s : State) (cl ctx : Nat) (f : Firing) (s1 : State), Issues s cl ctx f s1 →
    (∀ w, exec (.seqIllWord w) s = .next (takeTrap s1 cl ctx (trapOf Cause.seqIll 0#64) f.pc)) ∧
    exec .seqPcFallThrough s = .next (takeTrap s1 cl ctx (trapOf Cause.seqPc f.pc) f.pc) ∧
    (∀ n, f.started = some n → f.spent (s.nextIssue cl ctx) (s.cluster cl).budget = true → (s.cluster cl).acting ctx = false →
      s.rides cl ctx = false → exec (.seqBudget cl ctx) s =
        .next (takeTrap (s.upTo (n + (s.cluster cl).budget)) cl ctx (trapOf Cause.seqBudget 0#64) f.pc)) ∧
    (∀ n b, f.started = some n → f.spent (s.nextIssue cl ctx) (s.cluster cl).budget = true → (s.cluster cl).acting ctx = false →
      s.rides cl ctx = true → f.back = some b →
      ∃ u, exec (.seqBudget cl ctx) s = .next (takeTrap u cl ctx (trapOf Cause.seqBudget 0#64) b.pc) ∧
        u.firing cl ctx = some { f with s := b.s, sp := b.sp } ∧ ((u.cluster cl).slot f.slot).k = b.k ∧
        u.now = Nat.max s.now (n + (s.cluster cl).budget) ∧ u.mem = s.mem ∧ SameOthers s u cl) ∧
    (f.spent (s.nextIssue cl ctx) (s.cluster cl).budget = false ∨ (s.cluster cl).acting ctx = true ∨
        (s.rides cl ctx = true ∧ f.back = none) →
      exec (.seqBudget cl ctx) s = .next s)

/-- R93, R94, R144, R145, R155, R280, R284, R285: at `fend` each incoming rate handle advances to its rate, stopping before EOS or an abort
token, and each outgoing one publishes up to its rate: a slot that was written as it was written, the others as zero; then the context is
free and the actor idle, its firing number counted. At `aexit` the same beats leave, then EOS on every outgoing rate handle, each incoming one
discards up to EOS or an abort token, and the actor has exited. Without room for what is to leave, both wait. `eret`, in the trap actor alone,
lets the suspended firing go on at the handler's epc with every register it held and a fresh budget, and ends its own firing, and its actor where
`halt` has asked for that; `tkill` ends the task with rd(a)[15:0], or with KILLED where that is 0; `halt` ends every actor of the sequencer that
no firing holds, and the others end with their firings. R94: an actor that has joined barriers exits once a release is complete, and drops out
of each, with what its die has released. R275: the end of a trap actor's firing ends the firing whose trap it handles as well, as by `fend`, and
its actor where `halt` has asked for that; once the trap actor has exited, traps kill the task; one that still waits does so at
its exit (log entry 5). What an incoming handle without enough items takes is log entry 48; what the release waits for, and what a barrier's
vector takes from the die, log entries 6 and 27. -/
def Obligations.EndOfFiring : Prop :=
  ∀ (s : State) (cl ctx : Nat) (f : Firing) (s1 : State), Issues s cl ctx f s1 → s.abortingAt cl = none →
    (f.handling = none → (((s.cluster cl).slot f.slot).ending) = false → roomToEnd s1 cl f.slot f 0 = true →
      ∃ t, exec .fend s = .next t ∧ t.firing cl ctx = none ∧
        ((t.cluster cl).slot f.slot).firing = ((s.cluster cl).slot f.slot).firing + 1#64 ∧
        (((t.cluster cl).slot f.slot).status = .idle ∨ ((t.cluster cl).slot f.slot).status = .fireable) ∧
        ((t.cluster cl).slot f.slot).k = ((s.cluster cl).slot f.slot).k ∧ t.mem = s.mem ∧ SameChans (handlesMoved s1 cl f) t) ∧
    (f.handling = none → (((s.cluster cl).slot f.slot).ending) = false → roomToEnd s1 cl f.slot f 0 = false →
      exec .fend s = .next (blocked s1 cl ctx)) ∧
    (f.handling = none → ((s.cluster cl).traps = [] ∨ ∃ m, m ≠ f.slot ∧ (s.cluster cl).trapSlot = some m) →
      DropsReady s1 cl ctx [f.slot] → roomToEnd s1 cl f.slot f 1 = true →
      ∃ t u, exec .aexit s = .next t ∧ t.firing cl ctx = none ∧ ((t.cluster cl).slot f.slot).status = .exited ∧ t.mem = s.mem ∧
        SameChans (handlesMoved s1 cl f) u ∧ Exits u t cl f.slot ∧ Dropped s t cl f.slot) ∧
    (f.handling = none → roomToEnd s1 cl f.slot f 1 = false → exec .aexit s = .next (blocked s1 cl ctx)) ∧
    (f.handling = none → roomToEnd s1 cl f.slot f 1 = true → ((s.cluster cl).slot f.slot).joins ≠ [] →
      (s1.unseen cl ctx ≠ [] → exec .aexit s = .next (blocked s1 cl ctx)) ∧
      (s1.unseen cl ctx = [] → (releaseBy cl ctx true false s1).2 = false →
        exec .aexit s = .next (blocked (releaseBy cl ctx true false s1).1 cl ctx))) ∧
    (∀ r g, f.handling = some r → r.r = true → r.ctx ≠ ctx → s.firing cl r.ctx = some g → g.slot ≠ f.slot →
      roomToEnd s1 cl g.slot g (if ((s.cluster cl).slot g.slot).ending = true then 1 else 0) = true →
      ((s.cluster cl).traps = [] ∨ ∃ m, m ≠ f.slot ∧ m ≠ g.slot ∧ (s.cluster cl).trapSlot = some m) →
      (((s.cluster cl).slot f.slot).ending = false → roomToEnd s1 cl f.slot f 0 = true →
        DropsReady s1 cl ctx (if ((s.cluster cl).slot g.slot).ending = true then [g.slot] else []) →
        ∃ t u, exec .fend s = .next t ∧ SameChans (handlesMoved u cl f) t ∧ TrappedEnds s s1 t u cl ctx r.ctx f g ∧
          (((t.cluster cl).slot f.slot).status = .idle ∨ ((t.cluster cl).slot f.slot).status = .fireable) ∧
          (((s.cluster cl).slot g.slot).ending = true → Dropped s t cl g.slot)) ∧
      (roomToEnd s1 cl f.slot f 1 = true →
        DropsReady s1 cl ctx (if ((s.cluster cl).slot g.slot).ending = true then [f.slot, g.slot] else [f.slot]) →
        ∃ t u v, exec .aexit s = .next t ∧ SameChans (handlesMoved u cl f) v ∧ Exits v t cl f.slot ∧ TrappedEnds s s1 t u cl ctx r.ctx f g ∧
          ((t.cluster cl).slot f.slot).status = .exited ∧
          (((s.cluster cl).slot g.slot).ending = true → ((s.cluster cl).slot f.slot).joins = [] → Dropped s t cl g.slot) ∧
          ((((s.cluster cl).slot g.slot).ending = true → ((s.cluster cl).slot g.slot).joins = []) → Dropped s t cl f.slot))) ∧
    (f.handling = none → exec .eret s = .next (takeTrap s1 cl ctx (trapOf Cause.seqIll 0#64) f.pc)) ∧
    (∀ r g, f.handling = some r → r.r = true → r.ctx ≠ ctx → s.firing cl r.ctx = some g →
      ((((s.cluster cl).slot f.slot).ending = false ∧ roomToEnd s1 cl f.slot f 0 = true) ∨
        (((s.cluster cl).slot f.slot).ending = true ∧ DropsReady s1 cl ctx [f.slot] ∧ (s.cluster cl).traps = [] ∧
          roomToEnd s1 cl f.slot f 1 = true)) →
      ∃ t h, exec .eret s = .next t ∧ t.firing cl ctx = none ∧ t.firing cl r.ctx = some h ∧ h.pc = f.epc &&& 0xFFFFFFFF#64 ∧
        h.suspended = none ∧ h.started = none ∧ h.s = g.s ∧ h.sp = g.sp ∧
        (((s.cluster cl).slot f.slot).ending = true → ((t.cluster cl).slot f.slot).status = .exited ∧ Dropped s t cl f.slot)) ∧
    (∀ (a : Reg) (v : Word) (s2 : State) (t : Nat) (x : Task), rd cl ctx a s1 = .ok v s2 → (s2.cluster cl).owner = some t →
      s2.task t = some x → ∃ u y, exec (.tkill a) s = .next u ∧ u.task t = some y ∧ y.status = .ended ∧
        y.endCause = (if v.extractLsb' 0 16 = 0#16 then Cause.killed else v.extractLsb' 0 16) ∧ u.firing cl ctx = none ∧ u.mem = s.mem) ∧
    (f.handling = none → ((s.cluster cl).traps = [] ∨ ∃ m, m ≠ f.slot ∧ (s.cluster cl).trapSlot = some m ∧ m ∉ haltNow s1 cl f.slot) →
      DropsReady s1 cl ctx (f.slot :: haltNow s1 cl f.slot) → roomToEnd s1 cl f.slot f 1 = true →
      (haltNow s1 cl f.slot).all (fun m => ((s.cluster cl).rateHandles m true).all (fun h => s.hasFree cl (portKey 0x20 h) 1)) = true →
      ∃ t, exec .halt s = .next t ∧ t.firing cl ctx = none ∧ ((t.cluster cl).slot f.slot).status = .exited ∧
        (∀ m, m < 16 → m ≠ f.slot → (((s.cluster cl).slot m).status = .running ∨ ((s.cluster cl).slot m).status = .suspended) →
          ((t.cluster cl).slot m).ending = true) ∧
        (∀ m ∈ haltNow s1 cl f.slot, ((t.cluster cl).slot m).status = .exited) ∧
        (∀ m ∈ f.slot :: haltNow s1 cl f.slot,
          (∀ n ∈ f.slot :: haltNow s1 cl f.slot, n ≠ m → ((s.cluster cl).slot n).joins = []) → Dropped s t cl m)) ∧
    (∀ (r0 r : TrapRec) (rest : List TrapRec) (t : Nat) (x : Task), f.handling = some r0 → r0.r = false → (s.cluster cl).trapSlot = some f.slot →
      (∀ m, m < 16 → m ≠ f.slot → (s.cluster cl).slotTrap m = false) → (s.cluster cl).traps = r :: rest → (s.cluster cl).owner = some t →
      s.task t = some x → ((s.cluster cl).slot f.slot).joins = [] → roomToEnd s1 cl f.slot f 1 = true →
      ∃ u y, exec .aexit s = .next u ∧ u.task t = some y ∧ y.status = .ended ∧ y.endCause = r.cause ∧ u.mem = s.mem) ∧
    (∀ (u : State) (k key n : Nat) (ch : Chan), (u.cluster k).chan key = some ch →
      ∃ x, ((takeItems u k key n).cluster k).chan key = some x ∧ x.seen = ch.seen.drop n)

/-! ## Engine commands (R180, R181) -/

/-- R180, R181: an engine command reads its registers and enters, with what they held, the queue of its class, once that has room; the
firing goes on past its two words. Without a completion handle CMPL = 0 raises SEQ.CHAN. This holds for all 40 commands, which
`commandCode` lists: the twelve `str.*`, the four `sbar.*`, `cp`, `cp.mx`, `cp.s`, the ten `mx.*`, the seven `co.*`, the three
`dx.*` and `sto.rd`. -/
def Obligations.CommandEntersQueue : Prop :=
  ∀ (i : Instr) (cls sub : Nat) (e : EOps), commandCode i = some (cls, sub, e) →
    ∀ (s : State) (cl ctx : Nat) (f : Firing) (s1 s2 s3 s4 s5 : State) (x y z : Word) (g : Target), Issues s cl ctx f s1 →
      rd cl ctx e.a s1 = .ok x s2 → rd cl ctx e.b s2 = .ok y s3 → rd cl ctx e.c s3 = .ok z s4 →
      (targetOf cl ctx e s4 = .ok g s5 → (s5.cluster cl).offers (queueOf cls) = true →
        ∃ t, exec i s = .next t ∧ t.nextId = s5.nextId + 1 ∧ t.mem = s5.mem ∧
          (∃ h, t.firing cl ctx = some h ∧ h.pc = f.pc + 8#64 ∧ SameRegs [] s t cl f h) ∧
          (t.cluster cl).queue (queueOf cls) = (s5.cluster cl).queue (queueOf cls) ++
            [{ id := s5.nextId, cls := cls, sub := sub, cs := e.cs.toNat, a := x, b := y, c := z, tag := e.tag.toNat, target := g,
               parent := none, after := s5.unseen cl ctx }]) ∧
      (targetOf cl ctx e s4 = .ok g s5 → (s5.cluster cl).offers (queueOf cls) = false → exec i s = .next (blocked s1 cl ctx)) ∧
      (e.cmpl = false → ((s4.cluster cl).handleUsed e.handle.toNat = false ∨ (s4.cluster cl).handleCmpl e.handle.toNat = false) →
        exec i s = .next (takeTrap s1 cl ctx (trapOf Cause.seqChan (BitVec.ofNat 64 e.handle.toNat)) f.pc))

/-! ## Frames: what an instruction leaves alone -/

/-- R138, R139 to R143, R152, R154, R156, R159, R221, R222, R232, R279, R281, R282, R285, R298: an instruction that acts on registers
changes no byte of memory, whatever its outcome. Unless its firing ends with it (a kill), the firing keeps every register but the
destination, and what it has done on its handles; the flags, the control registers, the units of its cluster, memory and what is
on its way there, and every other cluster stay as they were. -/
def Obligations.RegisterFrame : Prop :=
  ∀ (i : Instr) (rs : List Reg) (s t : State) (cl ctx : Nat) (f : Firing) (s1 : State), regOnly i = some rs → Issues s cl ctx f s1 →
    exec i s = .next t →
    t.mem = s.mem ∧
    (∀ g, t.firing cl ctx = some g → SameRegs rs s t cl f g ∧ SameFiring f g ∧ SameFlags (s.cluster cl) (t.cluster cl) ∧
      SameSpecial (s.cluster cl) (t.cluster cl) ∧ SameUnits (s.cluster cl) (t.cluster cl) ∧
      (t.cluster cl).claims = (s.cluster cl).claims ∧ SamePackage s t ∧ SameOthers s t cl)

/-- R143, R146, R147, R148, R149, R150, R151, R229, R230, R309: an instruction that reads memory or scratchpad changes no byte but
those that a write, a near-memory operation or a held contribution of the package was on its way to; it changes no register but
its destinations, no flag, no control register and no unit of its cluster. What is on its way is log entry 6. -/
def Obligations.LoadFrame : Prop :=
  ∀ (i : Instr) (rs : List Reg) (s t : State) (cl ctx : Nat) (f : Firing) (s1 : State), loads i = some rs → Issues s cl ctx f s1 →
    exec i s = .next t →
    (∀ a, s.awaits a = false → t.mem.readByte a = s.mem.readByte a) ∧
    (∀ g, t.firing cl ctx = some g → SameRegs rs s t cl f g ∧ SameFiring f g ∧ SameFlags (s.cluster cl) (t.cluster cl) ∧
      SameSpecial (s.cluster cl) (t.cluster cl) ∧ SameUnits (s.cluster cl) (t.cluster cl) ∧ SameOthers s t cl ∧
      t.barriers = s.barriers ∧ t.hub = s.hub)

/-- R146, R147, R148, R150, R303, R304: what a store leaves alone. In FWD it is posted and changes no byte of memory in its step; in
REV it clears the adjoint cell of the element it names, whose four bytes `diffOf` gives at the address of its operands, and it
writes d with what the cell held. `sts` and `pushm` change the bytes of the scratchpad that they store to. R226, R236: `amo` and
`cas` change the bytes of their operand alone, beside those that something was on its way to. What is on its way is log entry 6. -/
def Obligations.StoreFrame : Prop :=
  (∀ p ∈ storeTable, ∀ (s t : State) (cl ctx : Nat) (f : Firing) (s1 : State) (d a : Reg) (i : BitVec 14), Issues s cl ctx f s1 →
    exec (p.1 d a i) s = .next t →
    ((s.cluster cl).dmode = 0 → t.mem = s.mem) ∧
    (∀ adr, s.awaits adr = false →
      (∀ x s2 s3 pa ms y cell, rd cl ctx a s1 = .ok x s2 → sqAddress cl (x + i.signExtend 64).toNat p.2 true s2 = .ok (pa, ms) s3 →
        diffOf s3 cl pa = some y → y.cell = some cell → adr < cell ∨ cell + 4 ≤ adr) →
      t.mem.readByte adr = s.mem.readByte adr) ∧
    (∀ g, t.firing cl ctx = some g → SameRegs (if (s.cluster cl).dmode = 0 then [] else [d]) s t cl f g ∧ SameFiring f g ∧
      SameFlags (s.cluster cl) (t.cluster cl) ∧ SameModes (s.cluster cl) (t.cluster cl) ∧ SameUnits (s.cluster cl) (t.cluster cl) ∧
      SameOthers s t cl ∧ t.barriers = s.barriers ∧ t.hub = s.hub)) ∧
  (∀ (s t : State) (cl ctx : Nat) (f : Firing) (s1 : State) (d a : Reg) (i : BitVec 14), Issues s cl ctx f s1 →
    exec (.sts d a i) s = .next t →
    t.mem = s.mem ∧
    (∀ g, t.firing cl ctx = some g → SameRegs [] s t cl f g ∧ SameFlags (s.cluster cl) (t.cluster cl) ∧
      SameSpecial (s.cluster cl) (t.cluster cl) ∧ SameOthers s t cl ∧
      SameUnits (s.cluster cl) { t.cluster cl with spad := (s.cluster cl).spad } ∧
      (∀ x s2 adr, rd cl ctx a s1 = .ok x s2 →
        (adr < (x + i.signExtend 64).toNat ∨ (x + i.signExtend 64).toNat + 8 ≤ adr) →
        (t.cluster cl).spad.readByte adr = (s.cluster cl).spad.readByte adr))) ∧
  (∀ (s t : State) (cl ctx : Nat) (f : Firing) (s1 : State) (d a : Reg), Issues s cl ctx f s1 → exec (.pushm d a) s = .next t →
    t.mem = s.mem ∧
    (∀ g, t.firing cl ctx = some g → SameRegs [52#6] s t cl f g ∧ SameFlags (s.cluster cl) (t.cluster cl) ∧
      SameSpecial (s.cluster cl) (t.cluster cl) ∧ SameOthers s t cl ∧
      SameUnits (s.cluster cl) { t.cluster cl with spad := (s.cluster cl).spad } ∧
      (∀ adr, (adr < (s.cluster cl).partBase ctx + f.sp.toNat ∨
          (s.cluster cl).partBase ctx + f.sp.toNat + 8 * (a.toNat - d.toNat + 1) ≤ adr) →
        (t.cluster cl).spad.readByte adr = (s.cluster cl).spad.readByte adr))) ∧
  (∀ (s t : State) (cl ctx : Nat) (f : Firing) (s1 : State) (i : Instr) (d a b : Reg) (o ty : BitVec 4), Issues s cl ctx f s1 →
     (i = .amo d a b o ty ∨ i = .cas d a b ty) → exec i s = .next t →
     (∀ adr, s.awaits adr = false →
       (∀ pa s2, atomicAddress cl ctx (some true) a ty.toNat s1 = .ok pa s2 → adr < pa ∨ pa + nmSize ty.toNat ≤ adr) →
       t.mem.readByte adr = s.mem.readByte adr) ∧
     (∀ g, t.firing cl ctx = some g → SameRegs [d] s t cl f g ∧ SameFiring f g ∧ SameFlags (s.cluster cl) (t.cluster cl) ∧
       SameSpecial (s.cluster cl) (t.cluster cl) ∧ SameUnits (s.cluster cl) (t.cluster cl) ∧ SameOthers s t cl ∧
       t.barriers = s.barriers ∧ t.hub = s.hub))

/-- R152 to R158, R180, R229, R232, R236, R237, R263, R283, R298: an instruction that posts, publishes, counts or asks changes no byte of memory in
its step, no register but its destination, no flag and no control register. Neither does an instruction that ends its firing
change a byte of memory. -/
def Obligations.PostFrame : Prop :=
  (∀ (i : Instr) (rs : List Reg) (s t : State) (cl ctx : Nat) (f : Firing) (s1 : State), posts i = some rs → Issues s cl ctx f s1 →
    exec i s = .next t →
    t.mem = s.mem ∧
    (∀ g, t.firing cl ctx = some g → SameRegs rs s t cl f g ∧ g.slot = f.slot ∧ g.wid = f.wid ∧ g.handling = f.handling ∧
      g.epc = f.epc ∧ SameFlags (s.cluster cl) (t.cluster cl) ∧ SameSpecial (s.cluster cl) (t.cluster cl))) ∧
  (∀ (i : Instr) (s t : State) (a : Reg), i ∈ [.fend, .aexit, .eret, .halt, .tkill a] → exec i s = .next t → t.mem = s.mem)

/-- R281, R308 to R310: the instructions of the control registers and the tape change no register but d, no flag but those `csrw` clears,
no unit, and of the control registers those they name. Memory changes only where something was on its way. -/
def Obligations.ControlFrame : Prop :=
  ∀ (s t : State) (cl ctx : Nat) (f : Firing) (s1 : State) (i : Instr) (d a b : Reg) (n : BitVec 6), Issues s cl ctx f s1 →
    i ∈ [.csrw a n, .dmode a, .tapeBase a b, .tapeLim a, .tapeMark d a] → exec i s = .next t →
    (∀ adr, s.awaits adr = false → t.mem.readByte adr = s.mem.readByte adr) ∧
    (∀ g, t.firing cl ctx = some g →
      SameRegs (if i = .tapeMark d a then [d] else []) s t cl f g ∧ g.slot = f.slot ∧ g.wid = f.wid ∧ g.handling = f.handling ∧
      g.adv = f.adv ∧ g.pub = f.pub ∧ g.written = f.written ∧ SameOthers s t cl ∧ t.barriers = s.barriers ∧ t.hub = s.hub ∧
      (i ≠ .csrw a 0x0C#6 → SameFlags (s.cluster cl) (t.cluster cl) ∧ SameUnits (s.cluster cl) (t.cluster cl)) ∧
      (i = .csrw a n → n ≠ 0x05#6 → SameSpecial (s.cluster cl) (t.cluster cl)) ∧
      (i = .csrw a n → SameSpecial (s.cluster cl) { t.cluster cl with lpend := (s.cluster cl).lpend }) ∧
      (i = .dmode a → SameSpecial (s.cluster cl) { t.cluster cl with dmode := (s.cluster cl).dmode }) ∧
      (i = .tapeBase a b → SameSpecial (s.cluster cl)
        { t.cluster cl with tapebase := (s.cluster cl).tapebase, tapeptr := (s.cluster cl).tapeptr }) ∧
      (i = .tapeLim a → SameSpecial (s.cluster cl) { t.cluster cl with tapelim := (s.cluster cl).tapelim }) ∧
      (i = .tapeMark d a → (t.cluster cl).dmode = (s.cluster cl).dmode ∧ (t.cluster cl).tapelim = (s.cluster cl).tapelim ∧
        (t.cluster cl).tapebase = (s.cluster cl).tapebase ∧ (t.cluster cl).owner = (s.cluster cl).owner ∧
        (t.cluster cl).spill = (s.cluster cl).spill))

/-! ## Configuration (R52, R60 to R63, R172) -/

/-- R61 to R63, R8: a stream that its checks accept waits to take effect, and one that they do not accept changes nothing but the fault
report, which then holds its cause. R62: once what
it replaces has carried EOS and its units are quiet, all its fields take effect at once, with no byte of memory changed. R52: a
replaced store that holds no phase returns its granules. A replaced channel on which no phase is in progress, since nothing has entered it yet or
its last phase has ended, counts as one that has carried EOS (`replacedIdle`, and `live = false` of the store): the model's choice, log entry 48.
Stores are log entry 32. -/
def Obligations.ConfigurationEvents : Prop :=
  (∀ (s : State) (cl : Nat) (ws : List Lane), (s.cluster cl).owner.isSome = true → (s.cluster cl).pending = none →
    (∀ x fs p, parseStream ws = .ok (x, fs) → checkFields s cl fs = .ok p →
      ∃ t, exec (.configCommit cl ws) s = .next t ∧ (t.cluster cl).pending = some p ∧ (t.cluster cl).cfg = (s.cluster cl).cfg ∧
        (t.cluster cl).chans = (s.cluster cl).chans ∧ SameOthers s t cl ∧ SamePackage s t) ∧
    (∀ c, parseStream ws = .error c → exec (.configCommit cl ws) s = .next (s.setCluster cl { s.cluster cl with report := c })) ∧
    (∀ x fs c, parseStream ws = .ok (x, fs) → checkFields s cl fs = .error c →
      exec (.configCommit cl ws) s = .next (s.setCluster cl { s.cluster cl with report := c }))) ∧
  (∀ (s : State) (cl : Nat) (p : Pending), (s.cluster cl).pending = some p →
    (s.replacedIdle p = true → busyUnit (s.cluster cl) p = false →
      ∃ t, exec (.configFieldsApply cl) s = .next t ∧ (t.cluster cl).pending = none ∧ p.due ≤ t.now ∧ t.mem = s.mem ∧
        (t.cluster cl).cfg = p.fields.foldl (fun m f => SMap.set m f.1 f.2) (s.cluster cl).cfg) ∧
    (s.replacedIdle p = false ∨ busyUnit (s.cluster cl) p = true → exec (.configFieldsApply cl) s = .next s)) ∧
  (∀ (s : State) (cl port k : Nat) (ch : Chan) (st : Store) (p : Pending) (c : Cluster), (k, c) ∈ s.clusters → c.pending = some p →
    (cl, port) ∈ p.replaced → (s.cluster cl).chan port = some ch → ch.live = false → ch.store = some st →
    ∃ t, exec (.storeRelease cl port) s = .next t ∧ (t.cluster cl).chan port = some { ch with store := some { st with granules := 0 } })

/-! ## Stores and spill rings (R53, R54, R171) -/

/-- R53, R54: a store takes a beat while it has taken fewer than δ more than it has issued, and a token at once; it issues the next
item into a free slot; an abort token, and a token that may not stand where it does, discards the phase and leaves as one abort
token. R177: while a block of the pool that its cluster's stores take is still a victim's, it takes nothing. R171: items go through
the spill ring in their sequence, and a full ring takes none. R86: the slots that a channel frees in a cycle are counted apart, and are not free
to its producer in that cycle. The four items at the consumer's end are log entry 32. -/
def Obligations.StoreEvents : Prop :=
  (∀ (s : State) (cl port : Nat) (ch : Chan) (st : Store) (it : Item) (rest : List Item), (s.cluster cl).chan port = some ch →
    ch.store = some st → ch.items = it :: rest → st.discard = false →
    ((s.cluster cl).poolBlocks.any (fun b => s.claimed cl (32 + b)) = true → exec (.storeAccept cl port) s = .next s) ∧
    ((s.cluster cl).poolBlocks.any (fun b => s.claimed cl (32 + b)) = false → st.ended = false → st.allows ch.op it = true →
      (it.token = true ∨ st.a < st.c + st.delta) →
      ∃ t, exec (.storeAccept cl port) s = .next t ∧
        (t.cluster cl).chan port = some (({ ch with items := rest, store := some (st.accept ch.op it) } : Chan).since s.now ch)) ∧
    (it.token = false → st.c + st.delta ≤ st.a → exec (.storeAccept cl port) s = .next s) ∧
    (st.ended = false → st.allows ch.op it = false → ch.out.length < 4 → ch.sink = false →
      ∃ t, exec (.storeAbort cl port) s = .next t ∧
        (t.cluster cl).chan port = some (({ ch with
          items := rest, store := some { st with periods := [], a := 0, c := 0, issued := 0, discard := !it.ends },
          out := ch.out ++ [.abort (match it with | .abort c => c | _ => Cause.ordStream)] } : Chan).since s.now ch))) ∧
  (∀ (o : Order) (st : Store) (b : Beat), (st.accept o (.data b)).a = st.a + 1 ∧ (st.accept o (.drop b)).a = st.a + 1) ∧
  (∀ (s : State) (cl port : Nat) (ch : Chan) (st u : Store) (it : Item), (s.cluster cl).chan port = some ch → ch.store = some st →
    ch.sink = false →
    (ch.out.length < 4 → st.trim.next ch = some (it, u) →
      ∃ t, exec (.storeIssue cl port) s = .next t ∧
        (t.cluster cl).chan port = some (({ ch with store := some u.trim, out := ch.out ++ [it] } : Chan).since s.now ch)) ∧
    (4 ≤ ch.out.length → exec (.storeIssue cl port) s = .next s)) ∧
  (∀ (ch : Chan) (st : Store) (p : Period) (ps : List Period), st.periods = p :: ps → p.pre = [] → st.drained ch.op p = false →
    (st.issued < p.beats.length ∨ p.closed = false) → st.a < st.c + st.delta → st.next ch = none) ∧
  (∀ (s : State) (cl port : Nat) (ch : Chan) (it : Item) (rest : List Item), (s.cluster cl).chan port = some ch →
    (∀ id more, ch.spilling = (id, it) :: more →
      (ch.ring.length < ch.ringSize → ∃ t, exec (.ringSpill cl port) s = .next t ∧
        (t.cluster cl).chan port = some { ch with spilling := more, ring := ch.ring ++ [it] }) ∧
      (ch.ringSize ≤ ch.ring.length → ∃ t, exec (.ringSpill cl port) s = .next t ∧ (t.cluster cl).chan port = some ch)) ∧
    (ch.ring = it :: rest → ch.inTrack < ch.depth → ch.sink = false →
      ∃ t, exec (.ringRefill cl port) s = .next t ∧
        (t.cluster cl).chan port = some (({ ch with ring := rest, items := ch.items ++ [it] } : Chan).since s.now ch)) ∧
    (ch.depth ≤ ch.inTrack → ∃ t, exec (.ringRefill cl port) s = .next t ∧ (t.cluster cl).chan port = some ch)) ∧
  (∀ (ch old : Chan) (now : Nat),
    (old.free < ch.free → ch.since now old =
      { ch with mark := now, took := (if ch.mark = now then ch.took else 0) + (ch.free - old.free) }) ∧
    (ch.free ≤ old.free → ch.since now old = ch))

/-! ## Compute elements (R84 to R89) -/

/-- R84 to R88: an element that is ready, with a beat at each used head and room on its outputs, fires: its beats enter the pipeline,
to leave six cycles on; the pipeline registers, the flags and the counters are those of the six stages and of one count. R62: one whose fields
a configuration is about to change does not. R69, R331: a stage that works lane by lane writes, in a lane whose predicate is true, the value of
its operation on the lanes that its sources name (R68), and elsewhere what its write mask says. The value is that of Tables 7.1 and 7.2 for
the integer and logic operations, saturation raising OF in the subword that it changes (R120, R121, R123, R124), and for the FP32 arithmetic of
R102 and the conversions of one value the exact result, rounded once by R28 to R30 to the format of R19; UF is left out. Of the lane operations
`rot.lanes`, `bcast` and `rsum.i32` are stated (R125, R127). The special functions, comparisons, packed, block-scaled and pixel forms, `crc32c` and
the flow nodes are left out. The cycle of the firing is the lower bound of log entry 2; readings of the element are log entry 18. -/
def Obligations.ElementFires : Prop :=
  (∀ (s : State) (cl ce : Nat) (c : Cluster) (x : Ce) (heads : List (Nat × Option Item)) (lc ws : List Nat) (shot : Shot),
    c = s.cluster cl → x = c.ce ce → heads = fronts s cl ce → heads ≠ [] → ceReady s cl ce = true → c.cePark ce = false →
    c.ceFlow ce ≠ 0xE1 → c.ceFlow ce ≠ 0xE4 → c.ceLag ce = false → heads.all (fun f => isBeat f.2) = true →
    stepCounters c ce x.lc = (lc, ws) → shot = runStages c x ce (headLanes heads) (firstDrop heads).isSome →
    (ceRoom s cl ce (1 + (wrapTokens c ce ws).length) = true →
      ∃ t fl, exec (.ceFire cl ce) s = .next t ∧ ((t.cluster cl).ce ce).pipe = x.pipe ++ [fl] ∧ fl.exit = fireCycle s x + 6 ∧
        ((t.cluster cl).ce ce).pregs = shot.ps.map beatOfLanes ∧ ((t.cluster cl).ce ce).flags = x.flags ||| shot.flags ∧
        ((t.cluster cl).ce ce).lc = lc ∧ t.mem = s.mem ∧
        (∀ st, c.routeOf ce 0 = some st → st ≠ 6 → firstDrop heads = none →
          fl.o0 = .data (beatOfLanes (shot.ps.getD (st - 1) [])) :: wrapTokens c ce ws) ∧
        (∀ b, c.routeOf ce 0 = some 1 → firstDrop heads = some b → fl.o0 = .drop b :: wrapTokens c ce ws)) ∧
    (ceRoom s cl ce (1 + (wrapTokens c ce ws).length) = false → exec (.ceFire cl ce) s = .next s)) ∧
  (∀ (s : State) (cl ce : Nat), s.settling cl ce = true → ((s.cluster cl).ce ce).lag = [] → exec (.ceFire cl ce) s = .next s) ∧
  (∀ (c : Cluster) (x : Ce) (n st l : Nat) (heads : List (List Nat)) (dropped : Bool) (t : Shot) (o : Option Order) (v : Nat → List Nat),
    c.stageOn n st = true → l < 32 → dMode (c.sdesc n st) % 8 ≠ 4 → v = (fun k => srcLanes c x n st heads t.ps (dSrc (c.sdesc n st) k)) →
    o = c.orderA n st →
    beatValue (c.sdesc n st) (c.spar n st) o (fun l => dWmask (c.sdesc n st) != 3 || lanePred (c.sdesc n st) t.ps l)
      (lanePred (c.sdesc n st) t.ps) (v 0) (v 1) = none →
    laneAt ((runStage c x n heads dropped t st).ps.getD t.ps.length []) l =
      (if lanePred (c.sdesc n st) t.ps l then
        (laneValue x (c.sdesc n st) (c.spar n st) l (fun _ => dMode (c.sdesc n st)) (fun _ => 0)
          (laneAt (v 0) l) (laneAt (v 1) l) (laneAt (v 2) l)).bits
       else if dWmask (c.sdesc n st) = 2 then laneAt (v 0) l else 0)) ∧
  (∀ (x : Ce) (d par l : Nat) (md u : Nat → Nat) (a b c : Lane),
    (∀ p ∈ wholeLaneTable, dOp d = p.1 → (laneValue x d par l md u a.toNat b.toNat c.toNat).bits = (p.2 a b c).toNat) ∧
    (∀ p ∈ halfLaneTable, dOp d = p.1 → (laneValue x d par l md u a.toNat b.toNat c.toNat).bits =
      (p.2 (a.extractLsb' 0 16) (b.extractLsb' 0 16) (c.extractLsb' 0 16)).toNat +
        65536 * (p.2 (a.extractLsb' 16 16) (b.extractLsb' 16 16) (c.extractLsb' 16 16)).toNat) ∧
    (∀ p ∈ byteLaneTable, dOp d = p.1 → ∀ k < 4, (laneValue x d par l md u a.toNat b.toNat c.toNat).bits / 2 ^ (8 * k) % 256 =
      (p.2 (a.extractLsb' (8 * k) 8) (b.extractLsb' (8 * k) 8)).toNat) ∧
    (∀ p ∈ satHalfTable, dOp d = p.1 → ∀ k w, k < 2 →
      w = p.2 (a.extractLsb' (16 * k) 16).toInt (b.extractLsb' (16 * k) 16).toInt (c.extractLsb' (16 * k) 16).toInt →
      (laneValue x d par l md u a.toNat b.toNat c.toNat).bits / 2 ^ (16 * k) % 65536 =
        (BitVec.ofInt 16 (if w < -32768 then -32768 else if 32767 < w then 32767 else w)).toNat ∧
      (laneValue x d par l md u a.toNat b.toNat c.toNat).flags k = (if w < -32768 ∨ 32767 < w then Flag.of else Flag.none)) ∧
    (∀ p ∈ satByteTable, dOp d = p.1 → ∀ k w, k < 4 → w = p.2 (a.extractLsb' (8 * k) 8).toNat (b.extractLsb' (8 * k) 8).toNat →
      (laneValue x d par l md u a.toNat b.toNat c.toNat).bits / 2 ^ (8 * k) % 256 =
        (BitVec.ofInt 8 (if w < 0 then 0 else if 255 < w then 255 else w)).toNat ∧
      (laneValue x d par l md u a.toNat b.toNat c.toNat).flags k = (if w < 0 ∨ 255 < w then Flag.of else Flag.none)) ∧
    (dOp d = 0x57 → (laneValue x d par l md u a.toNat b.toNat c.toNat).bits =
      (c + (List.range 4).foldl (fun t k => t + (a.extractLsb' (8 * k) 8).signExtend 32 * (b.extractLsb' (8 * k) 8).signExtend 32) 0#32).toNat) ∧
    (dOp d = 0x8D → (laneValue x d par l md u a.toNat b.toNat c.toNat).bits = ((List.range 32).filter (fun k => a.getLsbD k)).length) ∧
    (dOp d = 0x8F → par % 32 + par / 32 % 32 + 1 ≤ 32 → (laneValue x d par l md u a.toNat b.toNat c.toNat).bits =
      (if par / 1024 % 2 = 1 then (a.extractLsb' (par % 32) (par / 32 % 32 + 1)).signExtend 32
       else (a.extractLsb' (par % 32) (par / 32 % 32 + 1)).zeroExtend 32).toNat) ∧
    (dOp d = 0x90 → par % 32 + par / 32 % 32 + 1 ≤ 32 → ∀ i < 32, (laneValue x d par l md u a.toNat b.toNat c.toNat).bits.testBit i =
      (if par % 32 ≤ i ∧ i < par % 32 + par / 32 % 32 + 1 then b.getLsbD (i - par % 32) else a.getLsbD i)) ∧
    (dOp d = 0x92 → (laneValue x d par l md u a.toNat b.toNat c.toNat).bits = par % 2 ^ 32) ∧
    (dOp d = 0x93 → (laneValue x d par l md u a.toNat b.toNat c.toNat).bits =
      (((BitVec.ofNat 32 par).extractLsb' 0 16).signExtend 32 + BitVec.ofNat 32 l * ((BitVec.ofNat 32 par).extractLsb' 16 16).signExtend 32).toNat) ∧
    (dOp d = 0x94 → (laneValue x d par l md u a.toNat b.toNat c.toNat).bits =
      (BitVec.ofNat 32 (x.lc.getD (par % 4) 0) * ((BitVec.ofNat 32 par).extractLsb' 16 16).signExtend 32 + a).toNat) ∧
    (∀ p ∈ floatLaneTable, dOp d = p.1 → (laneValue x d par l md u a.toNat b.toNat c.toNat).bits =
      (p.2 (md 0) (u 0) (Fmt.f32.read a.toNat) (Fmt.f32.read b.toNat) (Fmt.f32.read c.toNat)).bits) ∧
    (∀ p ∈ [(0xC1, Fmt.bf16), (0xC3, Fmt.f16), (0xC4, Fmt.e4m3), (0xC5, Fmt.e5m2)], dOp d = p.1 →
      (laneValue x d par l md u a.toNat b.toNat c.toNat).bits = (convert p.2 (md 0) (u 0) (Fmt.f32.read a.toNat)).bits)) ∧
  (∀ f ∈ formats,
    (∀ v neg m e, v < 2 ^ (f.ebits + f.fbits + 1) → f.read v = .fin neg m e → 0 ≤ e + (f.bias + f.fbits : Nat) ∧
      m * 2 ^ (e + (f.bias + f.fbits : Nat)).toNat = f.mag (v % 2 ^ (f.ebits + f.fbits)) ∧ neg = v.testBit (f.ebits + f.fbits)) ∧
    (∀ (mode : Mode) (u m n k : Nat) (a b c : Bool) (e g h : Int), mode % 8 ≤ 4 →
      RoundsTo f mode u (if m = 0 ∧ n = 0 ∧ a = b then a else mode % 8 == 2) (Dyad.add (dyad a m e) (dyad b n g)).n (if e < g then e else g)
        (fadd f mode u (.fin a m e) (.fin b n g)) ∧
      RoundsTo f mode u (a != b) ((if a then -(m : Int) else m) * (if b then -(n : Int) else n)) (e + g)
        (fmul f mode u (.fin a m e) (.fin b n g)) ∧
      RoundsTo f mode u (if (m = 0 ∨ n = 0) ∧ k = 0 ∧ (a != b) = c then c else mode % 8 == 2)
        (Dyad.add { n := (if a then -(m : Int) else m) * (if b then -(n : Int) else n), e := e + g } (dyad c k h)).n
        (if e + g < h then e + g else h) (ffma f mode u (.fin a m e) (.fin b n g) (.fin c k h)) ∧
      RoundsTo f mode u a (if a then -(m : Int) else m) e (convert f mode u (.fin a m e))) ∧
    (∀ (mode : Mode) (u : Nat) (x y z : FVal),
      (x.isNan = true ∨ y.isNan = true → fadd f mode u x y = { bits := f.qnan, flags := if x.snan ∨ y.snan then Flag.nv else Flag.none } ∧
        fmul f mode u x y = { bits := f.qnan, flags := if x.snan ∨ y.snan then Flag.nv else Flag.none }) ∧
      (∀ a, fadd f mode u (.inf a) (.inf (!a)) = { bits := f.qnan, flags := Flag.nv }) ∧
      (∀ a m e, m = 0 → fmul f mode u (.inf a) (.fin false m e) = { bits := f.qnan, flags := Flag.nv } ∧
        ffma f mode u (.inf a) (.fin false m e) z = { bits := f.qnan, flags := Flag.nv }))) ∧
  (∀ (x y : Dyad) (E : Int), E = (if x.e < y.e then x.e else y.e) →
    (Dyad.add x y).e = E ∧ (Dyad.add x y).n = x.n * 2 ^ (x.e - E).toNat + y.n * 2 ^ (y.e - E).toNat) ∧
  (∀ (d par l : Nat) (o : Option Order) (count live : Nat → Bool) (a b : List Nat), (typeOf o < 12 ∨ 14 < typeOf o) →
    32 ≤ subsOf o * tyWidth (typeOf o) → l < 32 →
    (dOp d = 0xA1 → ∃ r f, beatValue d par o count live a b = some (r, f) ∧ f = Flag.none ∧ laneAt r l =
      (if lanesOf o ≤ l then 0 else if l + par % 32 < 32 then laneAt a (l + par % 32) % 2 ^ 32
       else if par / 32 % 2 = 1 then 0 else laneAt a (l + par % 32 - 32) % 2 ^ 32)) ∧
    (dOp d = 0xA2 → ∃ r f, beatValue d par o count live a b = some (r, f) ∧ f = Flag.none ∧
      laneAt r l = (if lanesOf o ≤ l then 0 else laneAt a (par % 32) % 2 ^ 32)) ∧
    (dOp d = 0xA6 → ∃ r f, beatValue d par o count live a b = some (r, f) ∧
      laneAt r l = (if par % 2 = 1 ∨ l = 0 then
        (((List.range 32).filter (fun k => decide (k < lanesOf o) && count k)).map (laneAt a)).sum % 2 ^ 32 else 0)))

/-- R85, R87, R89: a token that stands at every used head is taken from each and passes as one copy on each routed output: EOR, EOK and BOUND
enter the pipeline, EOS waits. An abort token at a head, and tokens that differ or stand beside a beat, end the phase: an abort token follows on
each routed output, and every used head discards its phase. EOS leaves on every routed output, with the counters reset, once the pipeline and
the skids are empty and each routed output has room, and not before; so does the token that a PARK steer has held, once no row is parked. The
oldest firing leaves the pipeline when six cycles have passed: with a free slot and an empty skid its items enter the channels of their output,
else they stand in the skid behind what it holds; what a skid holds leaves oldest first, once there is a slot. A token at the heads of a `merge`,
a `cnt`, a `bnd`, a PARK steer or an element with block lag is not in the first part. Log entries 2 and 18. -/
def Obligations.ElementTokens : Prop :=
  (∀ (s : State) (cl ce : Nat), ceReady s cl ce = true → idleHeads s cl ce = [] → (s.cluster cl).ceFlow ce ≠ 0xE1 →
    (s.cluster cl).ceFlow ce ≠ 0xE4 → (s.cluster cl).ceFlow ce ≠ 0xE5 → (s.cluster cl).cePark ce = false →
    (s.cluster cl).ceLag ce = false → fronts s cl ce ≠ [] → ceRoom s cl ce 1 = true →
    (∀ it, (fronts s cl ce).all (fun f => f.2 == some it) = true →
      (it = .eos → ∃ t, exec (.ceToken cl ce) s = .next t ∧ ((t.cluster cl).ce ce).eos = true ∧ t.mem = s.mem ∧
        SameChans (fireFronts s cl ce ((s.cluster cl).ceHeads ce)) t) ∧
      ((it = .eor ∨ it = .eok ∨ ∃ k, it = .bound k) → ∃ t fl, exec (.ceToken cl ce) s = .next t ∧
        SameChans (fireFronts s cl ce ((s.cluster cl).ceHeads ce)) t ∧
        ((t.cluster cl).ce ce).pipe = ((s.cluster cl).ce ce).pipe ++ [fl] ∧ fl.exit = fireCycle s ((s.cluster cl).ce ce) + 6 ∧
        fl.o0 = (if ((s.cluster cl).routeOf ce 0).isSome then [it] else []) ∧
        fl.o1 = (if ((s.cluster cl).routeOf ce 1).isSome then [it] else []))) ∧
    (∀ c : Cause, ((s.cluster cl).ce ce).parked = [] → (fronts s cl ce).all (fun f => f.2.isSome) = true →
      (fronts s cl ce).all (fun f => isBeat f.2) = false →
      (abortAmong (fronts s cl ce) = some c ∨ (abortAmong (fronts s cl ce) = none ∧ c = Cause.ordStream ∧
        ∀ it, (fronts s cl ce).all (fun f => f.2 == some it) = false)) →
      ∃ u fl, exec (.ceToken cl ce) s =
          .next (((s.cluster cl).ceHeads ce).foldl (fun s k => discardPhase s cl (portKey ce k)) u) ∧ SameChans s u ∧
        ((u.cluster cl).ce ce).pipe = ((s.cluster cl).ce ce).pipe ++ [fl] ∧
        fl.o0 = (if ((s.cluster cl).routeOf ce 0).isSome then [.abort c] else []) ∧
        fl.o1 = (if ((s.cluster cl).routeOf ce 1).isSome then [.abort c] else []))) ∧
  (∀ (s : State) (cl ce : Nat) (it : Item),
    (((s.cluster cl).ce ce).eos = true ∧ it = .eos) ∨ (((s.cluster cl).ce ce).eos = false ∧ ((s.cluster cl).ce ce).parked = [] ∧
      ((s.cluster cl).ce ce).heldTok = some it) →
    (((s.cluster cl).ce ce).pipe = [] → ((s.cluster cl).ce ce).skid0 = [] → ((s.cluster cl).ce ce).skid1 = [] → roomForEnd s cl ce = true →
      ∃ t, exec (.ceEosEmit cl ce) s = .next t ∧ ((t.cluster cl).ce ce).eos = false ∧ ((t.cluster cl).ce ce).heldTok = none ∧
        SameChans (((s.cluster cl).ceRouted ce).foldl (fun s o => sendItem s cl (portKey ce (4 + o)) it) s) t ∧
        (it = .eos → ((t.cluster cl).ce ce).lc = [0, 0, 0, 0] ∧ ((t.cluster cl).ce ce).started = false)) ∧
    (((s.cluster cl).ce ce).pipe ≠ [] ∨ ((s.cluster cl).ce ce).skid0 ≠ [] ∨ ((s.cluster cl).ce ce).skid1 ≠ [] ∨ roomForEnd s cl ce = false →
      exec (.ceEosEmit cl ce) s = .next s)) ∧
  (∀ (s : State) (cl ce : Nat) (fl : Flight) (rest : List Flight), ((s.cluster cl).ce ce).pipe = fl :: rest →
    ∃ u, SameChans s u ∧ u.now = Nat.max s.now fl.exit ∧ (u.cluster cl).ce ce = { (s.cluster cl).ce ce with pipe := rest } ∧
      exec (.pipelineExit cl ce) s = .next (leave (leave u cl ce 0 fl.o0) cl ce 1 fl.o1)) ∧
  (∀ (s : State) (cl ce o : Nat) (it : Item) (rest : List Item), o < 2 → leave s cl ce o [] = s ∧
    (((s.cluster cl).ce ce).skid o = [] → s.hasFree cl (portKey ce (4 + o)) 1 = true →
      leave s cl ce o (it :: rest) = leave (sendItem s cl (portKey ce (4 + o)) it) cl ce o rest) ∧
    (((s.cluster cl).ce ce).skid o ≠ [] ∨ s.hasFree cl (portKey ce (4 + o)) 1 = false →
      ∃ u, SameChans s u ∧ ((u.cluster cl).ce ce).skid o = ((s.cluster cl).ce ce).skid o ++ [it] ∧
        ((u.cluster cl).ce ce).skid (1 - o) = ((s.cluster cl).ce ce).skid (1 - o) ∧ leave s cl ce o (it :: rest) = leave u cl ce o rest)) ∧
  (∀ (s : State) (cl ce o : Nat) (it : Item) (rest : List Item), o < 2 → ((s.cluster cl).ce ce).skid o = it :: rest →
    (s.hasFree cl (portKey ce (4 + o)) 1 = true →
      ∃ u, SameChans s u ∧ ((u.cluster cl).ce ce).skid o = rest ∧ ((u.cluster cl).ce ce).skid (1 - o) = ((s.cluster cl).ce ce).skid (1 - o) ∧
        exec (.skidDrain cl ce o) s = .next (sendItem u cl (portKey ce (4 + o)) it)) ∧
    (s.hasFree cl (portKey ce (4 + o)) 1 = false → exec (.skidDrain cl ce o) s = .next s))

/-! ## Address generators, banks and control tokens (R163 to R168, R173, R174) -/

/-- R167, R173: a phase starts under the command that waits for it, or by a START or AUTO of its configuration, with its counters at
zero, and takes its START. The one phase that AUTO asks for comes before a command's. R249: a phase without a command that its configuration
forbids ends with an abort token of STR.ARG, which a reading generator sends and a writing one finds before all that its channel brings. R191: a
writing phase ends at EOS; a reading one sends the beat it holds. R163, R46: the unit that the bank grants next, round-robin among all that ask for
it, is the generator whose access is served: it reads or writes its 128 bytes, and a beat read has zero in the lanes and subwords that its order leaves out. Log entry 19. Completes: AG_PHASE_START, AG_BEAT,
BANK_GRANT. -/
def Obligations.GeneratorEvents : Prop :=
  (∀ (s : State) (cl g : Nat), g < 8 → ((s.cluster cl).ag g).phase = none → (s.cluster cl).agEn g = true →
    (s.cluster cl).owner.isSome = true → (s.cluster cl).stopping = false → s.settling cl (agEl g) = false →
    ((s.cluster cl).swTile (agEl g) = true → agEl g ∈ (s.cluster cl).starts) →
    (∀ r, ((s.cluster cl).ag g).auto = false → waitingRun (s.cluster cl) g = some r → ∃ t p, exec (.agPhaseStart cl g) s = .next t ∧ ((t.cluster cl).ag g).phase = some p ∧
      p.cmd = some r.cmd.id ∧ p.tc = [0, 0, 0, 0] ∧ p.t = 0 ∧ p.sub = r.cmd.sub ∧
      ((s.cluster cl).swTile (agEl g) = true → agEl g ∉ (t.cluster cl).starts)) ∧
    (((s.cluster cl).ag g).auto = true ∨ (waitingRun (s.cluster cl) g = none ∧ (s.cluster cl).swTile (agEl g) = true) →
      (genFault s cl g = false → ∃ t p, exec (.agPhaseStart cl g) s = .next t ∧ ((t.cluster cl).ag g).phase = some p ∧ p.cmd = none ∧
        p.tc = [0, 0, 0, 0] ∧ p.t = 0 ∧ p.full = false ∧ p.discard = false ∧ ((t.cluster cl).ag g).auto = false) ∧
      (genFault s cl g = true → ∃ t, exec (.agPhaseStart cl g) s = .next t ∧ ((t.cluster cl).ag g).auto = false ∧
        (emits s cl g = true → ∃ p, ((t.cluster cl).ag g).phase = some p ∧ p.full = true ∧ p.status = Cause.strArg) ∧
        (∀ ch, emits s cl g = false → (s.cluster cl).chan (agPort g) = some ch →
          ∃ p ch1, ((t.cluster cl).ag g).phase = some p ∧ p.discard = true ∧ p.status = Cause.strArg ∧
            (t.cluster cl).chan (agPort g) = some ch1 ∧ ch1.seen.head? = some (.abort Cause.strArg)) ∧
        (emits s cl g = false → (s.cluster cl).chan (agPort g) = none →
          ((t.cluster cl).ag g).phase = none ∧ ((t.cluster cl).ag g).last = Cause.strArg)))) ∧
  (∀ (s : State) (cl g : Nat) (p : Phase), ((s.cluster cl).ag g).phase = some p → ((s.cluster cl).ag g).req = none → p.buf = [] → p.full = true →
    emits s cl g = true → s.hasFree cl (agPort g) 1 = true →
    exec (.agBeat cl g) s = .next (finishPhase (sendItem s cl (agPort g) (.abort p.status)) cl g p p.status)) ∧
  (∀ (s : State) (cl g : Nat) (p : Phase), ((s.cluster cl).ag g).phase = some p → ((s.cluster cl).ag g).req = none →
    (emits s cl g = false → ((s.cluster cl).chan (agPort g)).bind (fun ch => ch.seen.head?) = some .eos →
      ∃ t, exec (.agBeat cl g) s = .next t ∧ ((t.cluster cl).ag g).phase = none) ∧
    (∀ b rest, emits s cl g = true → p.buf = b :: rest → p.records = false → s.hasFree cl (agPort g) 1 = true →
      exec (.agBeat cl g) s = .next (sendItem (stepBeat s cl g { p with buf := rest } (p.beats (portOrder s cl g))
        (entriesOf ((p.cmd.bind (s.cluster cl).run).map (·.cmd)))) cl (agPort g) (.data b)))) ∧
  (∀ (s : State) (cl bank g : Nat) (p : Phase) (r : BankReq), s.claimed cl bank = false →
    nextGrant (SMap.get (s.cluster cl).lastGrant 11 bank) ((s.cluster cl).asking bank) = some g →
    ((s.cluster cl).ag g).phase = some p → ((s.cluster cl).ag g).req = some r →
    (r.data = none → ∃ t q, exec (.bankGrant cl bank) s = .next t ∧ ((t.cluster cl).ag g).phase = some q ∧
      q.buf = [keepElems (portOrder s cl g) (Beat.ofBytes ((s.cluster cl).spad.readBytes 128 r.addr))] ∧ q.bytes = p.bytes + 128 ∧
      ((t.cluster cl).ag g).req = none ∧ (t.cluster cl).spad = (s.cluster cl).spad) ∧
    (∀ b, r.data = some b → ∃ t q, exec (.bankGrant cl bank) s = .next t ∧ ((t.cluster cl).ag g).phase = some q ∧
      q.bytes = p.bytes + 128 ∧ ((t.cluster cl).ag g).req = none ∧
      (t.cluster cl).spad = (s.cluster cl).spad.writeBytes r.addr b.toBytes))

/-- R165: at a hand-off the bank goes to its successor, or is free. R173: a START that arrives is kept; a DONE asks the generator's
phase to stop. R174: the entry of a copy retires once its last byte has been granted. Log entries 2 and 19. -/
def Obligations.TileEvents : Prop :=
  (∀ (s : State) (cl bank : Nat) (h : Handoff), (s.cluster cl).handoffs.find? (fun h => h.bank == bank) = some h →
    (s.cluster cl).swTile (0x10 + bank / 4) = false →
    ∃ t, exec (.bankHandoff cl bank) s = .next t ∧ h.due ≤ t.now ∧ (∀ h ∈ (t.cluster cl).handoffs, h.bank ≠ bank) ∧
      (((s.cluster cl).token bank).nv = true → ((t.cluster cl).token bank).own = ((s.cluster cl).token bank).nxt ∧
        ((t.cluster cl).token bank).ov = true ∧ ((t.cluster cl).token bank).nv = false) ∧
      (((s.cluster cl).token bank).nv = false → ((t.cluster cl).token bank).ov = false)) ∧
  (∀ (s : State) (cl k : Nat) (x : CtlTok), (s.cluster cl).ctlFly[k]? = some x →
    (x.done = false → (x.tile < 0x10 ∨ 0x18 ≤ x.tile) → ∃ t, exec (.controlTokenDeliver cl k) s = .next t ∧
      x.tile ∈ (t.cluster cl).starts ∧ x.due ≤ t.now ∧ (t.cluster cl).ctlFly = (s.cluster cl).ctlFly.eraseIdx k) ∧
    (∀ g p, x.done = true → x.tile = 0x18 + g → g < 8 → ((s.cluster cl).ag g).phase = some p →
      ∃ t, exec (.controlTokenDeliver cl k) s = .next t ∧ ((t.cluster cl).ag g).phase = some { p with stop := true } ∧
        (t.cluster cl).starts = (s.cluster cl).starts)) ∧
  (∀ (s : State) (cl k : Nat) (r : Range) (due : Nat), (s.cluster cl).board[k]? = some r → r.done = some due →
    ∃ t, exec (.scoreboardRetire cl k) s = .next t ∧ (t.cluster cl).board = (s.cluster cl).board.eraseIdx k ∧ due ≤ t.now)

/-! ## Engines (R180 to R182, R186, R195, R199) -/

/-- R181: the head of a queue whose turn it is leaves the queue and runs. R182: a command whose work is done and whose writes are performed
leaves its engine, and its completion goes to its handle as one beat of Table 10.2, or to its semaphore as one add of 1, or of
2^40 + 1 where it failed. R195: the follow-on of a `cp.mx` enters the MX queue, that of the copy that landed first before the others, and gives
its outcome to the `cp.mx`. R199: `mx.zero` leaves +0 in every accumulator of the
tiles it names and no band state, and the other tiles as they were. R186, R192 to R194, R197 to R199, R321 to R327: what each unit of a running
command moves in a turn of its own, for `str.m2s`, `str.s2m`, `str.cst`, the four `sbar.*`, `cp`, `cp.s`, the copy of `cp.mx`, `mx.ld`,
`mx.mma.*`, `mx.st`, the collectives, `co.put` and `co.get` within the package, `co.sig`, `sto.rd` and `dx.*`, with the sums of the matrix array
(R36 to R38) and of INT32 reductions. Port streams move with their generators (`GeneratorEvents`). What another package sends, the output of the
decompressors (`decompress`), band scales and the checks of `mx.mma.e2m1`, DROP rows, and the FP32 and BF16 reductions are not stated here. A unit
moves in a turn (log entry 1), reads at the home in it (log entry 36), and the stream engine needs no grant of a bank (`StreamGrant`, log entry 20);
`dx.*` is log entry 23, a collective's descriptor and peers log entries 22 and 37. -/
def Obligations.EngineEvents : Prop :=
  (∀ (s : State) (cl q : Nat) (x : Cmd) (rest : List Cmd), (16 ≤ q → portTake cl (q - 16) s = none) →
    (s.cluster cl).owner.isSome = true → enginesStopped s cl = false → s.abortingAt cl = none → ready s cl q = true →
    turnOf s cl q = true → (s.cluster cl).cmdQueue q = x :: rest →
    ∃ t, exec (.engineStart cl q) s = .next t ∧
      (x.cls ≤ 2 → (t.cluster cl).cmdQueue q = rest ∧ ∃ r ∈ (t.cluster cl).running, r.cmd = x) ∧
      (x.cls = 3 → x.sub = 9 → ∀ k, k < 4 →
        (∀ i j, i < 128 → j < 128 → (t.cluster cl).mx.at k i j = if bitAt x.cs k then 0#32 else (s.cluster cl).mx.at k i j) ∧
        (bitAt x.cs k = true → (t.cluster cl).mx.band.getD k none = none))) ∧
  EngineAccess ∧ StreamMoves ∧ StreamGrant ∧ CopyMoves ∧ MatrixMoves ∧ MatrixSums ∧ CollectiveMoves ∧ StorageMoves ∧
  (∀ (s : State) (cl id : Nat) (r : Run), (s.cluster cl).run id = some r → r.done = true → s.completed cl r = true →
    s.postsNext cl r = true → s.onWay (.completion cl id) = false → r.cmd.parent = none →
    ∃ t, exec (.completionPost cl id) s = .next t ∧ (t.cluster cl).run id = none ∧ t.mem = s.mem ∧
      (∀ h, r.cmd.target = .handle h → ∃ ch, (t.cluster cl).chan (portKey 0x20 h) = some ch ∧
        ch.items = (((s.cluster cl).chan (portKey 0x20 h)).getD completionChan).items ++
          [.data (BitVec.ofNat 1024 (completionWord r).toNat)]) ∧
      (∀ pa, r.cmd.target = .sem pa → ∃ o ∈ t.nmops, o.pa = pa ∧
        o.kind = .sig (if r.status = 0#16 then 1#64 else 0x10000000001#64))) ∧
  (∀ (s : State) (cl id p : Nat) (r y : Run), (s.cluster cl).run id = some r → r.done = true → s.completed cl r = true →
    s.postsNext cl r = true → s.onWay (.completion cl id) = false → r.cmd.parent = some p → p ≠ id → (s.cluster cl).run p = some y →
    ∃ t, exec (.completionPost cl id) s = .next t ∧ (t.cluster cl).run id = none ∧ t.mem = s.mem ∧
      (t.cluster cl).run p = some { y with done := true, status := if y.status = 0#16 then r.status else y.status }) ∧
  (∀ (s : State) (cl id : Nat) (r : Run), (s.cluster cl).run id = some r → r.done = false ∨ s.completed cl r = false ∨
      s.postsNext cl r = false ∨ s.onWay (.completion cl id) = true → exec (.completionPost cl id) s = .next s) ∧
  (∀ (s : State) (cl : Nat) (before after : List (Nat × Nat)) (r q : Run), s.settled = before ++ (cl, r.cmd.id) :: after →
    (cl, r.cmd.id) ∉ before → (cl, q.cmd.id) ∈ before → (s.cluster cl).run q.cmd.id = some q → s.completed cl q = true →
    q.cmd.target = r.cmd.target → s.postsNext cl r = false) ∧
  (∀ (c : Cluster) (r : Run), c.firstLanded = some r → r ∈ c.running ∧ r.landed = true ∧
    ∀ x ∈ c.running, x.landed = true → r.waits.headD 0 ≤ x.waits.headD 0) ∧
  (∀ (s : State) (cl id : Nat) (r : Run), (s.cluster cl).firstLanded = some r → r.cmd.id = id →
    (s.cluster cl).board.any (fun b => b.cmd == id) = false → ((s.cluster cl).queue 3).length < 16 →
    ∃ t x, exec (.followOnEnqueue cl id) s = .next t ∧ (t.cluster cl).queue 3 = (s.cluster cl).queue 3 ++ [x] ∧ x.cls = 3 ∧
      x.sub = r.cmd.followSub ∧ x.b = r.cmd.b ∧ x.c = r.cmd.followC ∧ x.parent = some id ∧ x.target = .none)

/-! ## Steps of the sequencer (R91, R92, R97, R98, R275) -/

/-- R92: a firing starts in the lowest free context, of the fireable actor that is next, with s1 the WID, s2 the firing number, s3 the
launch argument, every other s register and sp zero, at its entry; its start fetches code ahead (R259), and so changes no byte of memory
but those that something was on its way to. R62: none starts while the sequencer is about to change. R275: the trap actor's firing has the record in s4 on. R98: the
line a firing waits for enters the cache, and one that does not translate suspends the firing. R97: flits arrive, those of one
sender in their sequence. Code is translated and not checked against the lease: log entry 9. Completes: FIRING_START,
TRAP_ACTOR_FIRE, ICACHE_FILL, QUEUE_FLIT_ARRIVE. -/
def Obligations.SequencerEvents : Prop :=
  (∀ (s : State) (cl ctx m : Nat) (t : Task) (c : Cluster), c = (refresh s cl).cluster cl → s.fires cl = true → c.trapDue = none →
    s.settling cl 0x20 = false → c.freeCtx = some ctx → c.nextActor = some m → (refresh s cl).taskOf cl = some t →
    ∃ u g, exec (.firingStart cl) s = .next u ∧ u.firing cl ctx = some g ∧ g.slot = m ∧ g.pc = BitVec.ofNat 64 (c.slotEntry m) ∧
      g.wid = widOf t c m (c.slot m).firing ∧ g.s[0]? = some 0#64 ∧ g.s[1]? = some g.wid ∧ g.s[2]? = some (c.slot m).firing ∧
      g.s[3]? = some t.arg ∧ (∀ n, 4 ≤ n → n < 32 → g.s[n]? = some 0#64) ∧ g.sp = 0#64 ∧ g.handling = none ∧
      ((u.cluster cl).slot m).status = .running ∧ ((u.cluster cl).slot m).k = ((s.cluster cl).slot m).k ∧
      (∀ a, s.awaits a = false → u.mem.readByte a = s.mem.readByte a)) ∧
  (∀ (s : State) (cl : Nat), s.settling cl 0x20 = true → exec (.firingStart cl) s = .next s) ∧
  (∀ (s : State) (cl ctx m : Nat) (t : Task) (r : TrapRec) (rest : List TrapRec), s.fires cl = true →
    (s.cluster cl).trapDue = some m → (s.cluster cl).freeCtx = some ctx → (s.cluster cl).traps = r :: rest → s.taskOf cl = some t →
    ∃ u g, exec (.trapActorFire cl) s = .next u ∧ u.firing cl ctx = some g ∧ g.slot = m ∧ g.handling = some r ∧ g.epc = r.epc ∧
      g.pc = BitVec.ofNat 64 ((s.cluster cl).slotEntry m) ∧ (∀ k v, r.dwords[k]? = some v → g.s[4 + k]? = some v) ∧ g.sp = 0#64 ∧
      (u.cluster cl).traps = rest ∧ ((u.cluster cl).slot m).status = .running ∧
      (∀ a, s.awaits a = false → u.mem.readByte a = s.mem.readByte a)) ∧
  (∀ (s : State) (cl ctx : Nat) (f : Firing) (t : Task), s.firing cl ctx = some f → fetch s cl ctx = .miss → s.taskOf cl = some t →
    icacheWord (s.cluster cl) f.pc.toNat = none →
    (∀ bs s1, codeRead cl t (t.codeVA + 128 * (f.pc.toNat / 128)) 128 s = .ok bs s1 →
      ∃ u, exec (.icacheFill cl ctx) s = .next u ∧ u.mem = s1.mem ∧
        SMap.find (u.cluster cl).icache (f.pc.toNat / 128) = some (Beat.ofBytes bs)) ∧
    (∀ i, codeRead cl t (t.codeVA + 128 * (f.pc.toNat / 128)) 128 s = .trap i →
      exec (.icacheFill cl ctx) s = .next (takeTrap s cl ctx i f.pc))) ∧
  (∀ (s : State) (k : Nat) (f : Flit), s.flits[k]? = some f →
    ((∀ g ∈ s.flits.take k, ¬(g.fromCl = f.fromCl ∧ g.fromSlot = f.fromSlot ∧ g.toCl = f.toCl ∧ g.toSlot = f.toSlot ∧ g.qn = f.qn)) →
      ∃ t, exec (.queueFlitArrive k) s = .next t ∧ t.flits = s.flits.eraseIdx k ∧
        SMap.get (t.cluster f.toCl).qbufs [] (4 * f.toSlot + f.qn) =
          SMap.get (s.cluster f.toCl).qbufs [] (4 * f.toSlot + f.qn) ++ [f.v] ∧ SameOthers s t f.toCl) ∧
    (∀ g ∈ s.flits.take k, g.fromCl = f.fromCl → g.fromSlot = f.fromSlot → g.toCl = f.toCl → g.toSlot = f.toSlot → g.qn = f.qn →
      exec (.queueFlitArrive k) s = .next s))

/-! ## Links, frames and throttling (R208, R209, R215, R267, R319) -/

/-- R208, R215: a flit that fails its check at the next stop is sent again, four cycles later; one that passes goes on as it came, with no
failure counted. At its eighth failure in succession the access ends its gang with ERR.LOOP, or ERR.BRIDGE on a bridge; the flit is not
dropped (R206). R319: eight
failures of a Trelest Link flit take the port down. R209: every source has its class's quota at a frame's start. R267: above an inlet
of 40 degrees, below a flow of 4.0 L/min, or above the draw limit the module lowers BULK, then NORMAL, then HIGH, and within its limits
every quota is whole. One class is lowered at a time, and the quota it gets is a free value below its own: log entries 12 and 34; the
form of a flit is log entry 33. Completes: LOOP_FLIT_RETRANSMIT, LINK_RETRY, QOS_FRAME_BOUNDARY, THROTTLE. -/
def Obligations.LinkEvents : Prop :=
  (∀ (s : State) (k : Nat) (eh : BitVec 64) (lo hi : BitVec 256) (ec : BitVec 16),
    (s.net[k]? = none → exec (.loopFlitRetransmit k eh lo hi ec) s = .next s) ∧
    (∀ f, s.net[k]? = some f →
      ((f.received (ec ++ hi ++ lo ++ eh)).good = true → ∃ t, exec (.loopFlitRetransmit k eh lo hi ec) s = .next t ∧
        t.net = s.net.set k { f.received (ec ++ hi ++ lo ++ eh) with tries := 0 } ∧ s.now + 4 ≤ t.now ∧ t.mem = s.mem ∧ t.fw = s.fw) ∧
      ((f.received (ec ++ hi ++ lo ++ eh)).good = false → f.tries < 7 → ∃ t, exec (.loopFlitRetransmit k eh lo hi ec) s = .next t ∧
        t.net = s.net.set k { f with tries := f.tries + 1 } ∧ s.now + 4 ≤ t.now ∧ t.mem = s.mem ∧ t.fw = s.fw) ∧
      ((f.received (ec ++ hi ++ lo ++ eh)).good = false → 7 ≤ f.tries → ∃ t, exec (.loopFlitRetransmit k eh lo hi ec) s = .next t ∧ t.mem = s.mem ∧
        t.net = s.net.set k { f with tries := 0 } ∧ (∀ task x, f.task = some task → s.task task = some x → x.live = true → x.aborting = none → Aborted t task f.fault)))) ∧
  (∀ f : NetFlit, f.received 0#592 = f ∧ (f.good = true ↔ f.crc = flitCrc f.header f.payload) ∧
    (∀ d b i rest, f.legs = .bridge d b i :: rest → f.fault = Cause.errBridge) ∧
    (∀ d l p rest, f.legs = .loop d l p :: rest → f.fault = Cause.errLoop)) ∧
  (∀ (s : State) (port : Nat), port < 16 → port ∉ s.hub.linkDown →
    (∃ t, exec (.linkRetry port true) s = .next t ∧ SMap.find t.hub.linkRetry port = none ∧ t.hub.linkDown = s.hub.linkDown) ∧
    (SMap.get s.hub.linkRetry 0 port < 7 → ∃ t, exec (.linkRetry port false) s = .next t ∧
      SMap.find t.hub.linkRetry port = some (SMap.get s.hub.linkRetry 0 port + 1) ∧ t.hub.linkDown = s.hub.linkDown) ∧
    (7 ≤ SMap.get s.hub.linkRetry 0 port → ∃ t, exec (.linkRetry port false) s = .next t ∧ port ∈ t.hub.linkDown)) ∧
  (∀ (s : State) (port : Nat) (good : Bool), 16 ≤ port ∨ port ∈ s.hub.linkDown → exec (.linkRetry port good) s = .next s) ∧
  (∀ s : State, ∃ t, exec .qosFrameBoundary s = .next t ∧ s.now < t.now ∧ t.now % Config.frameCycles = 0 ∧
    (∀ d, d < 4 → (t.die d).quota = s.fw.quotas)) ∧
  (∀ (s : State) (m : Measure),
    (m.inlet ≤ 400 → 4000 ≤ m.flow → m.draw ≤ s.fw.drawLimit → ∃ t, exec (.throttle m) s = .next t ∧
      t.fw.quotas = [4096, 3072, 2048, 1024] ∧ t.fw.throttled = 0) ∧
    (400 < m.inlet ∨ m.flow < 4000 ∨ s.fw.drawLimit < m.draw →
      (∀ c, [3, 2, 1][s.fw.throttled]? = some c → ∃ t, exec (.throttle m) s = .next t ∧
        t.fw.throttled = s.fw.throttled + 1 ∧ t.fw.quotas.getD c 0 < [4096, 3072, 2048, 1024].getD c 0 ∧
        (∀ k, k ≠ c → t.fw.quotas.getD k 0 = s.fw.quotas.getD k 0)) ∧
      ([3, 2, 1][s.fw.throttled]? = none → exec (.throttle m) s = .next s)))

/-! ## Batches and notices (R213, R214) -/

/-- R213: an open batch closes 32 cycles after its first write; once all its writes are applied, its notices go to the three peer
dies. R214: a notice applies where A_r[w] = v[w] − 1 and A_r[k] ≥ v[k] elsewhere, among the 64 of the buffer that have come first; it drops its lines, and
raises A_r and D_r. Log entries 2 and 10. Completes: BATCH_CLOSE, NOTICE_SEND, NOTICE_APPLY. -/
def Obligations.OrderEvents : Prop :=
  (∀ (s : State) (die : Nat), ((s.die die).batch = none → exec (.batchClose die) s = .next s) ∧
    (∀ b, (s.die die).batch = some b → ∃ t, exec (.batchClose die) s = .next t ∧ (t.die die).batch = none ∧ b ∈ (t.die die).closed ∧
      b.since + 32 ≤ t.now ∧ t.mem = s.mem)) ∧
  (∀ (s : State) (die n : Nat) (b : Batch), die < 4 → (s.die die).closed.find? (fun b => b.num.toNat == n) = some b →
    (batchApplied s die b.num = true → ∃ t, exec (.noticeSend die n) s = .next t ∧ (∀ b ∈ (t.die die).closed, b.num.toNat ≠ n) ∧
      (∀ r, r < 4 → r ≠ die → (t.die r).notices = (s.die r).notices ++ [{ src := die, clock := b.clock, lines := b.lines, task := b.task }])) ∧
    (batchApplied s die b.num = false → exec (.noticeSend die n) s = .next s)) ∧
  (∀ (s : State) (die k : Nat) (n : Notice), (s.die die).notices[k]? = some n →
    ((s.die die).mayApply n = true → n ∈ (s.atDie die).take 64 → ∃ t, exec (.noticeApply die k) s = .next t ∧
      (t.die die).notices = (s.die die).notices.eraseIdx k ∧ (∀ l ∈ n.lines, SMap.find (t.die die).rdc l = none) ∧
      (t.die die).aVec = (s.die die).aVec.set n.src (clockAt n.clock n.src) ∧
      (t.die die).dVec = clockMax (s.die die).dVec (zeroClock.set n.src (clockAt n.clock n.src)) ∧ t.mem = s.mem) ∧
    ((s.die die).mayApply n = false ∨ n ∉ (s.atDie die).take 64 → exec (.noticeApply die k) s = .next s)) ∧
  (∀ (d : Die) (n : Notice), n.src < 4 → (d.mayApply n = true ↔ clockAt d.aVec n.src = clockAt n.clock n.src - 1#32 ∧
    (∀ k, k < 4 → k ≠ n.src → (clockAt n.clock k).toNat ≤ (clockAt d.aVec k).toNat)))

/-! ## Memory at its home (R147, R220, R226, R230, R242) -/

/-- R220, R147, R205: a posted write takes its place once nothing that must precede it waits (an earlier write of its sequencer or command
on its bytes, an earlier message from its stop to the same stop, a flit of its own): its bytes, and no others, change. R226, R229,
R236, R237: a near-memory operation takes its place likewise, behind earlier ones of its cluster on its bytes, and changes no byte
beyond its own and what was held for them; one that reads applies first what is held for its operand (R306). R209: an arrived message of an
earlier frame goes first. R317: neither acts while the host may hold a line that it writes. R217, R242: one that finds a line that it writes in
error ends its task's gang. R230: the waiters of a stack are tested again. R242: the scrub poisons the lines that have an error. Log entries 6,
10 and 25. -/
def Obligations.HomeEvents : Prop :=
  (∀ (s : State) (k : Nat) (r : MemReq), s.inflight[k]? = some r →
    (s.mayAct (.write r) = true → s.homeError r.pa r.bytes.length = none →
      ∃ t, exec (.appliedAtHome k) s = .next t ∧ t.inflight = s.inflight.eraseIdx k ∧ t.clusters = s.clusters ∧ t.nmops = s.nmops ∧
        (∀ j b, s.mem.wf = true → r.bytes[j]? = some b → t.mem.readByte (r.pa + j) = b) ∧
        (∀ a, r.covers a = false → t.mem.readByte a = s.mem.readByte a)) ∧
    (∀ c task x, s.mayAct (.write r) = true → s.homeError r.pa r.bytes.length = some c → r.task = some task → s.task task = some x →
      x.live = true → x.aborting = none → ∃ t, exec (.appliedAtHome k) s = .next t ∧ Aborted t task c ∧ t.mem = s.mem) ∧
    (s.mayAct (.write r) = false → exec (.appliedAtHome k) s = .next s) ∧
    (s.msgBlocked (.write r) = true ∨ s.hostHolds r.pa r.bytes.length = true → s.mayAct (.write r) = false)) ∧
  (∀ (s : State) (k : Nat) (o : NmOp), s.nmops[k]? = some o →
    (s.mayAct (.near o) = true → (Msg.near o).error s = none →
      ∃ t, exec (.nmUpdate k) s = .next t ∧ t.nmops = s.nmops.eraseIdx k ∧ t.clusters = s.clusters ∧ t.inflight = s.inflight ∧
        (∀ op ty v m, o.kind = .rmw op ty v → m = (flushHeld { s with nmops := s.nmops.eraseIdx k } o.pa (nmSize ty)).mem →
          t.mem = m.write (nmSize ty) o.pa (nmCompute op ty (m.read (nmSize ty) o.pa) (v.toNat % 2 ^ (8 * nmSize ty)))) ∧
        (∀ v m, o.kind = .sig v → m = (flushHeld { s with nmops := s.nmops.eraseIdx k } o.pa 8).mem →
          t.mem = m.write 8 o.pa ((m.read 8 o.pa + v.toNat) % 18446744073709551616)) ∧
        (∀ q bs, o.kind = .pair q bs → t.mem = (s.mem.writeBytes o.pa bs).writeBytes q bs) ∧
        (∀ a, o.covers a = false → (∀ h ∈ s.held, h.covers a = false) → t.mem.readByte a = s.mem.readByte a)) ∧
    (∀ c task x, s.mayAct (.near o) = true → (Msg.near o).error s = some c → o.task = some task → s.task task = some x →
      x.live = true → x.aborting = none → ∃ t, exec (.nmUpdate k) s = .next t ∧ Aborted t task c ∧ t.mem = s.mem) ∧
    (s.mayAct (.near o) = false → exec (.nmUpdate k) s = .next s) ∧
    (s.msgBlocked (.near o) = true → s.mayAct (.near o) = false)) ∧
  (∀ (s : State) (stack : Nat), ∃ t, exec (.semFrameReread stack) s = .next t ∧ t.mem = s.mem ∧
    (∀ w ∈ s.waiters, w.polling = false → stackOf w.pa = stack → semMeets s.mem w.pa w.target = true → { w with ok := true } ∈ t.waiters)) ∧
  (∀ (s : State) (cl ctx : Nat), ∃ t, exec (.semPollRetry cl ctx) s = .next t ∧ t.mem = s.mem ∧
    (∀ w ∈ s.waiters, w.polling = true → w.of cl ctx = true → semMeets s.mem w.pa w.target = true → { w with ok := true } ∈ t.waiters)) ∧
  (∀ (s : State) (stack : Nat) (bad : List Nat), stack < 8 → SMap.find (s.die (stack / 2)).scrubbed stack = none →
    ∃ t, exec (.hbmScrub stack bad) s = .next t ∧ (∀ l ∈ bad, 128 * l / Config.stackBytes = stack → l ∈ t.poison) ∧
      (∀ l ∈ s.poison, l ∈ t.poison) ∧ (∀ l ∈ t.poison, l ∈ s.poison ∨ l ∈ bad) ∧ t.mem = s.mem)

/-! ## Tasks (R177, R251, R257, R258, R268 to R274) -/

/-- R268: a launch whose object's checks pass, with no semaphore to wait for, becomes ready; one that they do not pass leaves its
queue and has ended with the fault, and no byte of memory has changed; so with a semaphore that is misaligned; until it starts nothing is put
in place (R8). R269, R258, R311: a ready head whose clusters are free runs once its streams commit and its data and code are placed, the tags of its
adjoint frames clear; one that a stale entry of the relocated-configuration cache refuses changes neither memory nor tag, and one whose data or
code cannot be placed no byte of memory; so with one whose stream is refused. It waits while the host may hold a line that the loader writes
(R317), and is placed anew where another task has taken its place (log entry 34). R268: gangs of
other packages are noted. R251: the windows of a tensor and its adjoint move to the least tail, once no write to a leaving frame is on its way; an error that the pager meets there aborts the gang (R242). Log entries 17,
24, 26 and 34. -/
def Obligations.LaunchEvents : Prop :=
  (∀ (s : State) (q t : Nat) (x : Task) (ld : Loaded), s.head q = some t → s.task t = some x → x.ready = false →
    SMap.find s.fw.objects x.handle = some ld →
    (∀ s1 y, prepare s x ld = .ok (s1, y) → x.sema = 0 → ∃ u, exec (.launchReady q) s = .next u ∧ u.task t = some { y with ready := true } ∧
      u.mem = s.mem ∧ u.fw.objects = s.fw.objects) ∧
    (∀ c info, prepare s x ld = .error (c, info) → ∃ u y, exec (.launchReady q) s = .next u ∧ u.task t = some y ∧
      y.status = .ended ∧ y.endCause = c ∧ y.refusal = info ∧ t ∉ SMap.get u.fw.queues [] q ∧ u.mem = s.mem) ∧
    (∀ s1 y, prepare s x ld = .ok (s1, y) → x.sema % 8 ≠ 0 → ∃ u z, exec (.launchReady q) s = .next u ∧ u.task t = some z ∧
      z.status = .ended ∧ z.endCause = Cause.seqAlign ∧ t ∉ SMap.get u.fw.queues [] q ∧ u.mem = s.mem) ∧
    (∀ s1 y s2, prepare s x ld = .ok (s1, y) → launchSema s q x = .wait s2 → exec (.launchReady q) s = .next s2 ∧ s2.mem = s.mem ∧
      s2.fw = s.fw ∧ s2.windows = s.windows)) ∧
  (∀ (s : State) (q t : Nat) (x : Task) (ld : Loaded) (rest : List (Nat × Nat × Task)) (l : List (Nat × Nat × Nat)) (s4 : State),
    readyHeads s = (q, t, x) :: rest → x.decided = true → displaced s t x = false → startHeld s x = false →
    (∀ cl ∈ x.clusters, (s.cluster cl).owner = none) →
    SMap.find s.fw.objects x.handle = some ld → relocCheck s.fw ld.obj.objid ld.obj.svn x.origins = .ok l →
    commitAll (beforeCommit s q t x ld l) ld.obj x.origins = .ok s4 →
    (∀ s5, placeObject s4 x ld = .ok s5 →
      exec .dispatch s = .next (clearTags s5 x) ∧ (clearTags s5 x).task t = some { x with status := .running, started := s.now }) ∧
    (∀ f, placeObject s4 x ld = .error f → ∃ u y, exec .dispatch s = .next u ∧ u.task t = some y ∧ y.status = .ended ∧
      y.endCause = f.cause ∧ y.refusal = f.where_ ∧ u.adjTags = s.adjTags ∧ u.mem = s.mem)) ∧
  (∀ (s : State) (q t : Nat) (x : Task) (ld : Loaded) (rest : List (Nat × Nat × Task)) (l : List (Nat × Nat × Nat)) (f : Cause),
    readyHeads s = (q, t, x) :: rest → x.decided = true → displaced s t x = false → startHeld s x = false →
    (∀ cl ∈ x.clusters, (s.cluster cl).owner = none) →
    SMap.find s.fw.objects x.handle = some ld → relocCheck s.fw ld.obj.objid ld.obj.svn x.origins = .ok l →
    commitAll (beforeCommit s q t x ld l) ld.obj x.origins = .error f →
    ∃ u y, exec .dispatch s = .next u ∧ u.task t = some y ∧ y.status = .ended ∧ y.endCause = f ∧ u.adjTags = s.adjTags ∧ u.mem = s.mem) ∧
  (∀ (s : State) (q t : Nat) (x : Task), readyHeads s = [(q, t, x)] → x.decided = true → displaced s t x = false → startHeld s x = true →
    (∀ cl ∈ x.clusters, (s.cluster cl).owner = none) → exec .dispatch s = .next s) ∧
  (∀ (s : State) (q t : Nat) (x y : Task) (rest : List (Nat × Nat × Task)), readyHeads s = (q, t, x) :: rest → x.decided = true →
    displaced s t x = true → y = { x with origins := [], clusters := [] } →
    (placementOf (s.setTask t y) y = none → exec .dispatch s = .next (s.setTask t y)) ∧
    (∀ os z, placementOf (s.setTask t y) y = some os → z = { y with origins := os, clusters := placedClusters (s.macrosOf x) os } →
      z.clusters.any (reservedAbove (s.setTask t y) x.cls).contains = false →
      exec .dispatch s = .next ((goHead (s.setTask t z) q t z).getD (s.setTask t z)))) ∧
  (∀ (s : State) (q t : Nat) (x : Task) (ld : Loaded) (rest : List (Nat × Nat × Task)) (l : List (Nat × Nat × Nat)),
    readyHeads s = (q, t, x) :: rest → x.decided = true → displaced s t x = false → startHeld s x = false →
    (∀ cl ∈ x.clusters, (s.cluster cl).owner = none) →
    SMap.find s.fw.objects x.handle = some ld → relocCheck s.fw ld.obj.objid ld.obj.svn x.origins = .error l →
    ∃ u y, exec .dispatch s = .next u ∧ u.task t = some y ∧ y.status = .ended ∧ y.endCause = Cause.secVersion ∧ u.adjTags = s.adjTags ∧
      u.mem = s.mem) ∧
  (∀ (s : State), readyHeads s = [] → exec .dispatch s = .next s) ∧
  (∀ (s : State) (pkg : Nat) (key : Word) (objid : Lane) (rank : Nat) (ended : Bool), key ≠ 0#64 → pkg ≠ Config.packageNumber →
    ∃ t, exec (.gangAnnounce pkg key objid rank ended) s = .next t ∧
      { pkg := pkg, key := key, objid := objid, rank := rank, ended := ended } ∈ t.fw.gangs ∧ t.mem = s.mem) ∧
  (∀ (s : State) (task tensor m : Nat) (t : Task), s.task task = some t → leastTail s task tensor (t.tensor tensor).layout = some m →
    (t.live = true → t.windows tensor ≠ [] → (∀ w ∈ t.windows tensor, slideBusy s task t w.1 (t.windowStart w.1 m) w.2 = false) →
      (t.windows tensor).findSome? (fun w => slideFault s task t w.1 (t.windowStart w.1 m) w.2) = none →
      ∃ u, exec (.windowMove task tensor) s = .next u ∧ SMap.find u.windows (4294967296 * task + tensor) = some m) ∧
    (∀ c, t.live = true → t.aborting = none → t.windows tensor ≠ [] →
      (∀ w ∈ t.windows tensor, slideBusy s task t w.1 (t.windowStart w.1 m) w.2 = false) →
      (t.windows tensor).findSome? (fun w => slideFault s task t w.1 (t.windowStart w.1 m) w.2) = some c →
      ∃ u, exec (.windowMove task tensor) s = .next u ∧ Aborted u task c ∧ u.mem = s.mem) ∧
    (t.live = false ∨ t.windows tensor = [] ∨ (∃ w ∈ t.windows tensor, slideBusy s task t w.1 (t.windowStart w.1 m) w.2 = true) →
      exec (.windowMove task tensor) s = .next s))

/-- R272: a pre-emption stops each cluster of the gang, and saves them once all have come to rest: the task is PREEMPTED and its
clusters are free. The context of a cluster is all of it, every firing in its context with its registers, and in the receive buffers of its
queues what they held and behind it the flits on their way there; a firing that was blocked starts its instruction again. R177: a unit that the
new owner needs is saved and tagged to it. R273: a pre-empted task goes on where its clusters are free: each takes its context back, with
channels, elements, registers, flags, accumulators and scratchpad as they were, the instruction cache empty, and the cycles that it was away
count against no budget. R178: the pool blocks and the matrix array are the task's again at once. R271: a task whose clusters have finished ends
with cause 0. R274: an uncorrectable error aborts the gang. That the end of a task waits for the writes on their way to the frames of its windows
(`frameBusy`) and for lines that the host may hold there (`windowsHeld`), and that an error the pager meets in a tile that it writes back
(`windowTiles`, `tileFault`) aborts the gang, is log entry 29. Log entries 15, 27 and 34. -/
def Obligations.TaskEvents : Prop :=
  (∀ (s : State) (t cl : Nat) (x : Task), s.task t = some x → x.yielding = true → x.aborting = none → (s.cluster cl).owner = some t →
    ((s.cluster cl).stopping = false → ∃ u, exec (.preemption t cl) s = .next u ∧ (u.cluster cl).stopping = true ∧ SameOthers s u cl) ∧
    ((∀ k ∈ s.clustersOf t, (s.cluster k).stopping = true ∧ quietCluster s k = true) → (s.cluster cl).stopping = true →
      ∃ u y, exec (.preemption t cl) s = .next u ∧ u.task t = some y ∧ y.status = .preempted ∧ y.yielding = false ∧
        (∀ k ∈ s.clustersOf t, (u.cluster k).owner = none ∧ (u.cluster k).claims = (s.cluster k).claims ∧
          { task := t, cl := k, ctx := contextOf s k, since := s.now } ∈ u.fw.saved) ∧
        (∀ v ∈ s.fw.saved, v ∈ u.fw.saved) ∧ u.mem = s.mem)) ∧
  (∀ (s : State) (cl : Nat),
    contextOf s cl = { s.cluster cl with qbufs := (contextOf s cl).qbufs, ctxs := (contextOf s cl).ctxs } ∧
    (∀ k f, s.firing cl k = some f →
      SMap.find (contextOf s cl).ctxs k = some (if f.suspended.isSome then f else { f with parked := true })) ∧
    (∀ q, SMap.get (contextOf s cl).qbufs [] q = SMap.get (s.cluster cl).qbufs [] q ++
      (s.flits.filter (fun f => f.toCl == cl && 4 * f.toSlot + f.qn == q)).map (fun f => f.v))) ∧
  (∀ (s : State) (cl unit t : Nat), (s.cluster cl).owner = some t → s.claimed cl unit = true →
    ∃ u, exec (.claimUnit cl unit) s = .next u ∧ SMap.find (u.cluster cl).claims unit = some t ∧ u.claimed cl unit = false) ∧
  (∀ (s : State) (t : Nat) (x : Task), s.task t = some x → x.status = .preempted → (∀ cl ∈ x.clusters, holderOf s cl = none) →
    ∃ u, exec (.resume t) s = .next u ∧ u.task t = some { x with status := .running } ∧ (∀ v ∈ u.fw.saved, v.task ≠ t) ∧ u.mem = s.mem ∧
      (∀ v ∈ s.fw.saved, v.task = t → (∀ w ∈ s.fw.saved, w.task = t → w.cl = v.cl → w = v) →
        u.cluster v.cl = { v.ctx with claims := (u.cluster v.cl).claims, lastIssue := (u.cluster v.cl).lastIssue, stopping := false,
                                      icache := [], ctxs := (u.cluster v.cl).ctxs } ∧
        (∀ k f, SMap.find v.ctx.ctxs k = some f →
          u.firing v.cl k = some { f with parked := false, started := f.started.map (fun n => n + (s.now - v.since)) }) ∧
        (∀ unit, 32 ≤ unit → SMap.find v.ctx.claims unit = some t → SMap.find (u.cluster v.cl).claims unit = some t))) ∧
  (∀ (s : State) (t : Nat) (x : Task), s.task t = some x → x.status = .running → x.aborting = none →
    (∀ cl ∈ s.clustersOf t, finishedCluster (s.cluster cl) = true) → (∀ e ∈ windowTiles x, frameBusy s e.2.2.frame = false) →
    windowsHeld s t x = false →
    ((∀ e ∈ windowTiles x, tileFault s t x e.1 e.2.1 e.2.2.frame = none) →
      ∃ u y, exec (.taskEnd t) s = .next u ∧ u.task t = some y ∧ y.status = .ended ∧ y.endCause = 0#16) ∧
    (∀ c, (windowTiles x).findSome? (fun e => tileFault s t x e.1 e.2.1 e.2.2.frame) = some c →
      ∃ u, exec (.taskEnd t) s = .next u ∧ Aborted u t c ∧ u.mem = s.mem)) ∧
  (∀ (s : State) (t : Nat) (x : Task) (c : Cause), Cause.classOf c = 10 → s.task t = some x → x.live = true → x.aborting = none →
    ∃ u, exec (.gangAbort t c) s = .next u ∧ Aborted u t c ∧ u.mem = s.mem)

/-! ## Experts (R289 to R296) -/

/-- R292, R293: a fetch that waits takes the region its landed slices have, or the lowest that is free, and is FETCHING. R325: the Read commands
of a slice from storage enter the queue pairs 0 to 3, and the slice lands after that; which of the four takes which is log entry 39. R292: each
landed slice raises PRE by one; the fetch ends at its target. R217, R242: a line in error where the slice is to lie aborts the gang that it is for,
and ends the fetch. R294: a slice that cannot be read ends the fetch and sets F, and the
landed slices stay. R295: once PRE reaches PFX the parked rows of the key are released, when the event has come to their die. R289: the uses of a die
reach LAST. Log entries 16 and 33. -/
def Obligations.ExpertEvents : Prop :=
  (∀ (s : State) (key : Lane) (f : Fetch) (e : Ert), fetchOf s key.toNat = some f → f.allocated = false → s.ert key.toNat = some e →
    (0 < e.pre → ∀ i ∈ [Instr.expertFetch key, .poolAllocRetry key], ∃ t, exec i s = .next t ∧
      t.ert key.toNat = some { e with state := 3 } ∧ fetchOf t key.toNat = some { f with allocated := true } ∧ t.mem = s.mem) ∧
    (∀ a, e.pre = 0 → poolFit s.hub e.bytes = some a → ∀ i ∈ [Instr.expertFetch key, .poolAllocRetry key], ∃ t, exec i s = .next t ∧
      t.ert key.toNat = some { e with state := 3, pool := a / 65536 } ∧ t.hub.pool = s.hub.pool ++ [(a, e.bytes)] ∧
      fetchOf t key.toNat = some { f with allocated := true })) ∧
  (∀ (s : State) (key : Lane) (f : Fetch) (e : Ert), fetchOf s key.toNat = some f → f.allocated = true → s.ert key.toNat = some e →
    (e.sk = true → e.pre < e.nsl → 0 < e.reads → e.reads ≤ Config.pairDepth →
      (∀ p ∈ s.hub.qpairs, p.1 < 4 → p.2.length + e.reads ≤ Config.pairDepth) →
      ∃ t, exec (.expertFetch key) s = .next t ∧ t.sliceAsked key.toNat = true ∧ t.mem = s.mem) ∧
    (e.sk = true → s.sliceAsked key.toNat = false → exec (.sliceLanded key) s = .next s) ∧
    (∀ c task x, sourceBad s e = false → e.pre < e.nsl → s.hostHolds (e.pool * 65536 + e.pre * e.sliceBytes) e.sliceBytes = false →
      (e.sk = true → s.sliceAsked key.toNat = true) → s.homeError (e.pool * 65536 + e.pre * e.sliceBytes) e.sliceBytes = some c →
      f.task = some task → s.task task = some x → x.live = true → x.aborting = none →
      ∃ t g, exec (.sliceLanded key) s = .next t ∧ Aborted t task c ∧ t.mem = s.mem ∧ t.ert key.toNat = some g ∧ g.failed = true ∧
        g.pre = e.pre ∧ fetchOf t key.toNat = none) ∧
    (sourceBad s e = false → e.pre < e.nsl → s.hostHolds (e.pool * 65536 + e.pre * e.sliceBytes) e.sliceBytes = false →
      (e.sk = true → s.sliceAsked key.toNat = true) → s.homeError (e.pool * 65536 + e.pre * e.sliceBytes) e.sliceBytes = none →
      ∃ t g, exec (.sliceLanded key) s = .next t ∧ t.ert key.toNat = some g ∧ g.pre = e.pre + 1 ∧
      g.failed = e.failed ∧ g.pin = e.pin ∧ g.pool = e.pool ∧
      (Nat.min f.target e.nsl ≤ e.pre + 1 → g.state = (if e.pre + 1 = e.nsl then 2 else 1) ∧ fetchOf t key.toNat = none) ∧
      (e.pre + 1 < Nat.min f.target e.nsl → g.state = e.state ∧ fetchOf t key.toNat = some f)) ∧
    ((e.sk = true ∨ sourceBad s e = true) → ∃ t g, exec (.fetchFail key) s = .next t ∧ t.ert key.toNat = some g ∧ g.failed = true ∧
      g.pre = e.pre ∧ g.state = (if e.pre = 0 then 0 else 1) ∧ fetchOf t key.toNat = none)) ∧
  (∀ (s : State) (die : Nat) (key : Lane) (e : Ert), s.ert key.toNat = some e →
    (e.pfx ≤ e.pre → s.onWay (.sliceReady key.toNat die) = false → s.onWay (.ertUpdate key.toNat die) = false → ∃ t, exec (.brambleRelease die key) s = .next t ∧
      (∀ cl n, dieOf cl = die → ∀ r ∈ ((t.cluster cl).ce n).parked, r.key = key → r.releasing = true) ∧ t.mem = s.mem) ∧
    (e.pre < e.pfx ∨ s.onWay (.sliceReady key.toNat die) = true ∨ s.onWay (.ertUpdate key.toNat die) = true → exec (.brambleRelease die key) s = .next s)) ∧
  (∀ (s : State) (die : Nat), ∃ t, exec (.useReport die) s = .next t ∧ (t.die die).uses = [] ∧
    (∀ u ∈ (s.die die).uses, ∀ e, s.ert u.1 = some e → ∃ g, t.ert u.1 = some g ∧ u.2 ≤ g.last))

/-! ## From outside the package (R262, R266, R316 to R320, R324) -/

/-- R316: a host line that is snooped is in no RDC, and the host writes its own memory once none holds the old line. R317, R319, R320: accesses
of the host and of other packages read and write this package's HBM at its home; the host may hold a line that it has read, until it has
answered the hub's snoop, and no write of another package goes there before; a remote signal adds to a semaphore; a member's collective command is noted once. R266: power-on leaves
every field at its Reset value and keeps the fuses. R262: the block takes writes while no command runs, the doorbell starts one.
What other packages and the host do is log entries 22 and 25; what power-on keeps is log entry 24. -/
def Obligations.OutsideEvents : Prop :=
  (∀ (s : State) (pa : Nat), regionOf pa = 3 → ∃ t, exec (.hostSnoop pa) s = .next t ∧ t.mem = s.mem ∧
    (∀ d, SMap.find (t.die d).rdc (pa / 128) = none)) ∧
  (∀ (s : State) (pkg pa : Nat) (bytes : List Byte) (i : Instr), s.held = [] →
    (i = .hostHdmAccess pa (some bytes) ∧ (hbmOpen s pa bytes.length = true ∨ hostMemory pa bytes.length = true)) ∨
      (i = .remotePackageAccess pkg pa (.write bytes) ∧ pkg ≠ Config.packageNumber ∧ hbmOpen s pa bytes.length = true ∧
        s.hostHolds pa bytes.length = false) →
      ∃ t, exec i s = .next t ∧ t.mem = s.mem.writeBytes pa bytes ∧ t.clusters = s.clusters ∧
        (∀ d, ∀ line ∈ linesOf pa bytes.length, SMap.find (t.die d).rdc line = none)) ∧
  (∀ (s : State) (pkg pa : Nat) (bytes : List Byte), s.hostHolds pa bytes.length = true →
    exec (.remotePackageAccess pkg pa (.write bytes)) s = .next s) ∧
  (∀ (s : State) (pkg pa n : Nat), s.held = [] → pkg ≠ Config.packageNumber →
    (∃ t, exec (.hostHdmAccess pa none) s = .next t ∧ t.mem = s.mem ∧
      (hbmOpen s (pa / 128 * 128) 128 = true → pa / 128 ∈ t.hostLines)) ∧
    (∃ t, exec (.remotePackageAccess pkg pa (.read n)) s = .next t ∧ t.mem = s.mem)) ∧
  (∀ (s : State) (line : Nat), line ∈ s.hostLines →
    (s.agenda = [.hubSnoop line] → ∃ t, step s = .next t ∧ line ∈ t.snoops ∧ line ∈ t.hostLines ∧ t.mem = s.mem) ∧
    (s.agenda = [.hostAnswer line none] → line ∈ s.snoops → ∃ t, step s = .next t ∧ line ∉ t.snoops ∧ line ∉ t.hostLines ∧ t.mem = s.mem)) ∧
  (∀ (s : State) (pkg pa : Nat) (v : Word), s.held = [] → pkg ≠ Config.packageNumber → hbmOpen s pa 8 = true → s.hostHolds pa 8 = false →
    pa % 8 = 0 → ∃ t, exec (.remotePackageAccess pkg pa (.sig v)) s = .next t ∧
      t.mem = s.mem.write 8 pa ((s.mem.read 8 pa + v.toNat) % 18446744073709551616)) ∧
  (∀ (s : State) (pkg pa : Nat) (key : Word) (objid id : Lane) (k rank typ op n sz : Nat) (src : List Byte), pkg ≠ Config.packageNumber →
    (∀ p ∈ s.peers, ¬(p.key = key ∧ p.objid = objid ∧ p.id = id ∧ p.k = k ∧ p.rank = rank)) →
    ∃ t, exec (.remotePackageAccess pkg pa (.collective key objid id k rank typ op n sz src)) s = .next t ∧ t.peers = s.peers ++
      [{ key := key, objid := objid, id := id, k := k, rank := rank, typ := typ, op := op, n := n, s := sz, src := src }]) ∧
  (∀ (s : State) (defect : Bool), ∃ t, exec (.powerOn defect) s = .next t ∧ t.mem = [] ∧ t.clusters = [] ∧ t.dies = [] ∧
    t.fw.tasks = [] ∧ t.fw.objects = [] ∧ t.hub.ert = [] ∧ t.fw.fuse = s.fw.fuse ∧ t.fw.bistOk = !defect ∧
    t.fw.status = (if defect then Cause.fwBist.zeroExtend 64 else 0#64)) ∧
  (∀ (s : State) (v : Word),
    (∀ k, k < 8 → s.fw.busy = false → ∃ t, exec (.hostRegWrite (8 * k) v) s = .next t ∧ t.fw.block = s.fw.block.set k v ∧
      t.fw.busy = false ∧ t.mem = s.mem) ∧
    (∀ k, k < 9 → s.fw.busy = true → exec (.hostRegWrite (8 * k) v) s = .next s) ∧
    (s.fw.busy = false → v.getLsbD 0 = true →
      (s.arg 0 ≤ 13 → ∃ t, exec (.hostRegWrite 0x40 v) s = .next t ∧ t.fw.busy = true ∧ t.fw.block = s.fw.block) ∧
      (13 < s.arg 0 → ∃ t, exec (.hostRegWrite 0x40 v) s = .next t ∧ Finished s t Cause.fwCmd)) ∧
    (∃ t, exec (.hostRegWrite 0x58 v) s = .next t ∧ t.fw.ie = v.getLsbD 0 ∧ t.fw.block = s.fw.block))

/-! ## The firmware (R250, R258, R260 to R264, R268, R269, R274, R287) -/

/-- R260 to R262: objects. LOAD gives an object that its checks accept the next handle, and refuses another with the check's fault;
UNLOAD, UNLEASE and MAP are refused with LEASE.BUSY while a task needs the object; LEASE walks and installs, once the host holds none of the
lines that it writes (R317); MAP sets the root table. Objects in section form, placement and refusals: log entries 7, 13 and 24. -/
def Obligations.ObjectCommands : Prop :=
  ∀ s : State, s.fw.busy = true →
    (s.arg 0 = 2 → s.fw.bistOk = true → s.arg 2 ≠ 1 →
      (SMap.find s.fw.images (s.arg 1) = none → ∃ t, exec .load s = .next t ∧ Finished s t Cause.loadFormat ∧ t.fw.objects = s.fw.objects) ∧
      (∀ o, SMap.find s.fw.images (s.arg 1) = some o →
        (∀ c, loadFault s.fw o = some c → ∃ t, exec .load s = .next t ∧ Finished s t c ∧ t.fw.objects = s.fw.objects) ∧
        (∀ l, loadFault s.fw o = none → relocStale s.fw o.objid (fun _ => true) = some l →
          ∃ t, exec .load s = .next t ∧ Finished s t Cause.secVersion ∧ t.fw.objects = s.fw.objects ∧ t.fw.reloc = l) ∧
        (loadFault s.fw o = none → relocStale s.fw o.objid (fun _ => true) = none → ∃ t, exec .load s = .next t ∧ Finished s t 0#16 ∧ t.fw.nextHandle = s.fw.nextHandle + 1 ∧
          SMap.find t.fw.objects s.fw.nextHandle = some { obj := o, root := none, leased := false }))) ∧
    (s.arg 0 = 3 → (SMap.find s.fw.objects (s.arg 1)).isSome = true →
      (objectBusy s (s.arg 1) = false → ∃ t, exec .unload s = .next t ∧ Finished s t 0#16 ∧ SMap.find t.fw.objects (s.arg 1) = none) ∧
      (objectBusy s (s.arg 1) = true → ∃ t, exec .unload s = .next t ∧ Finished s t Cause.leaseBusy ∧ t.fw.objects = s.fw.objects)) ∧
    (∀ ld root, s.arg 0 = 4 → SMap.find s.fw.objects (s.arg 1) = some ld → ld.root = some root → ld.leased = false →
      (installHeld s root ld.obj = true → exec .lease s = .next s) ∧
      (∀ f, installHeld s root ld.obj = false → leasesFault s root ld.obj.allLeases = some f → ∃ t, exec .lease s = .next t ∧ Finished s t f.cause ∧ t.mem = s.mem) ∧
      (∀ s1, installHeld s root ld.obj = false → leasesFault s root ld.obj.allLeases = none → install s root ld.obj = .ok s1 →
        ∃ t, exec .lease s = .next t ∧ Finished s1 t 0#16 ∧ t.mem = s1.mem ∧ SMap.find t.fw.objects (s.arg 1) = some { ld with leased := true })) ∧
    (∀ ld, s.arg 0 = 5 → SMap.find s.fw.objects (s.arg 1) = some ld →
      (leaseHeld s (s.arg 1) = false → ∃ t, exec .unlease s = .next t ∧ Finished s t 0#16 ∧
        SMap.find t.fw.objects (s.arg 1) = some { ld with leased := false }) ∧
      (leaseHeld s (s.arg 1) = true → ∃ t, exec .unlease s = .next t ∧ Finished s t Cause.leaseBusy ∧ t.fw.objects = s.fw.objects)) ∧
    (∀ ld, s.arg 0 = 6 → SMap.find s.fw.objects (s.arg 1) = some ld →
      (leaseHeld s (s.arg 1) = false → s.arg 2 % 4096 = 0 → s.arg 2 < Config.hbmLimit → ∃ t g, exec .map s = .next t ∧ Finished s t 0#16 ∧
        SMap.find t.fw.objects (s.arg 1) = some g ∧ g.root = some (s.arg 2) ∧ g.obj = ld.obj ∧
        (∀ k x, s.task k = some x → x.handle = s.arg 1 → x.status = .queued → t.task k = some { x with root := s.arg 2 })) ∧
      (leaseHeld s (s.arg 1) = true → ld.root ≠ some (s.arg 2) → ∃ t, exec .map s = .next t ∧ Finished s t Cause.leaseBusy ∧
        t.fw.objects = s.fw.objects))

/-- R261, R268, R269, R274, R277: tasks. LAUNCH queues a task of a loaded object, or refuses it; PREEMPT asks a running task to yield;
KILL ends one with KILLED; TRAPRPT leaves its last trap record; RESET kills every task and leaves memory, the fuses and the
completion count, binds the storage of a 4,096-byte LBA format to handles 0 upward (R325), and reports FW.BIST where the self-test finds a defect; QUERY answers the fuse counter and a task's status, and sets
the draw limit. A hit on an entry below the fuse counter in the relocated-configuration cache refuses a LAUNCH with SEC.VERSION. The form of results, task numbers and what RESET keeps: log
entries 24 and 28. -/
def Obligations.TaskCommands : Prop :=
  ∀ s : State, s.fw.busy = true →
    (∀ ld, s.arg 0 = 7 → SMap.find s.fw.objects (s.arg 1) = some ld →
      (launchFault s ld (s.arg 2) (s.arg 3) = none → relocStale s.fw ld.obj.objid (fun k =>
          ((placeAll ld.obj.macros (fun _ => false)).getD []).any (fun p => clusterAt p.1 p.2 == k)) = none → ∃ t y, exec .launch s = .next t ∧ Finished s t 0#16 ∧
        t.task s.taskNumber = some y ∧ y.status = .queued ∧ y.handle = s.arg 1 ∧ y.rank = s.arg 3 ∧ y.cls = ld.obj.cls ∧
        SMap.get t.fw.queues [] (s.arg 2) = SMap.get s.fw.queues [] (s.arg 2) ++ [s.taskNumber]) ∧
      (∀ l, launchFault s ld (s.arg 2) (s.arg 3) = none → relocStale s.fw ld.obj.objid (fun k =>
          ((placeAll ld.obj.macros (fun _ => false)).getD []).any (fun p => clusterAt p.1 p.2 == k)) = some l →
        ∃ t, exec .launch s = .next t ∧ Finished s t Cause.secVersion ∧ t.fw.queues = s.fw.queues ∧ t.fw.tasks = s.fw.tasks) ∧
      (∀ c, launchFault s ld (s.arg 2) (s.arg 3) = some c → ∃ t, exec .launch s = .next t ∧ Finished s t c ∧ t.fw.queues = s.fw.queues ∧
        t.fw.tasks = s.fw.tasks)) ∧
    (∀ x, s.arg 0 = 8 → s.task (s.arg 1) = some x → x.status = .running →
      (preemptDenied s (s.arg 1) x = false → ∃ t, exec .preempt s = .next t ∧ Finished s t 0#16 ∧
        t.task (s.arg 1) = some { x with yielding := true }) ∧
      (preemptDenied s (s.arg 1) x = true → ∃ t, exec .preempt s = .next t ∧ Finished s t Cause.preDenied ∧ t.fw.tasks = s.fw.tasks)) ∧
    (∀ x, s.arg 0 = 9 → s.task (s.arg 1) = some x → x.status ≠ .ended → ∃ t y, exec .kill s = .next t ∧ Finished s t 0#16 ∧
      t.task (s.arg 1) = some y ∧ y.status = .ended ∧ y.endCause = Cause.killed ∧ t.mem = s.mem) ∧
    (∀ x r, s.arg 0 = 10 → s.task (s.arg 1) = some x → x.ring.getLast? = some r → ∃ t, exec .trapRpt s = .next t ∧ Finished s t 0#16 ∧
      t.fw.block = r.dwords ∧ t.fw.tasks = s.fw.tasks) ∧
    (s.arg 0 = 0 → ∃ t, exec .reset s = .next t ∧ Finished s t (if s.fw.defect then Cause.fwBist else 0#16) ∧
      t.fw.bistOk = !s.fw.defect ∧ t.mem = s.mem ∧ t.clusters = [] ∧ t.fw.queues = [] ∧
      t.fw.objects = [] ∧ t.hub.ert = [] ∧ t.hub.namespaces = s.hub.enumerated ∧ t.fw.fuse = s.fw.fuse ∧ (∀ k y, t.task k = some y → y.status = .ended)) ∧
    (s.arg 0 = 1 → (∃ t, exec .query s = .next t ∧ t.fw.busy = false ∧ t.fw.count = s.fw.count + 1#64 ∧ t.mem = s.mem) ∧
      (s.arg 1 = 1 → s.fw.fuse < 256 → ∃ t, exec .query s = .next t ∧ t.fw.status = BitVec.ofNat 64 (s.fw.fuse * 65536)) ∧
      (s.arg 1 = 4 → s.arg 2 ≠ 0 → ∃ t, exec .query s = .next t ∧ t.fw.drawLimit = s.arg 2) ∧
      (∀ x, s.arg 1 = 2 → s.task (s.arg 2) = some x → ∃ t, exec .query s = .next t ∧
        t.fw.status = BitVec.ofNat 64 (x.report % 281474976710656 * 65536)))

/-- R261, R264, R287: ERTCFG writes the table from an array that its checks accept; MONITOR binds a unit to an event on every die and
refuses a number out of range; FUSEADV raises the counter alone. A command that the block does not hold, or whose doorbell is not
rung, does nothing. MONITOR's form: log entry 28. -/
def Obligations.DeviceCommands : Prop :=
  (∀ s : State, s.fw.busy = true →
    (∀ tbl, s.arg 0 = 11 → expertTask s = false → 0 < s.arg 2 → s.arg 2 ≤ 65536 → poolBad (s.arg 3) (s.arg 4) = false →
      ertEntries s.mem (s.arg 1) (s.arg 2) = some tbl → ∃ t, exec .ertcfg s = .next t ∧ Finished s t 0#16 ∧ t.hub.ert = tbl ∧
        t.hub.poolBase = s.arg 3 ∧ t.hub.poolSize = s.arg 4 ∧ t.hub.pool = [] ∧ t.mem = s.mem ∧
        (∀ d key, (t.die d).cachesErt key = false)) ∧
    (s.arg 0 = 11 → expertTask s = false → (s.arg 2 = 0 ∨ 65536 < s.arg 2 ∨ poolBad (s.arg 3) (s.arg 4) = true) →
      ∃ t, exec .ertcfg s = .next t ∧ Finished s t Cause.ertCfg ∧ t.hub = s.hub) ∧
    (s.arg 0 = 12 → (64 ≤ s.arg 1 ∨ 8 ≤ s.arg 2) → ∃ t, exec .monitor s = .next t ∧ Finished s t Cause.monArg ∧ t.dies = s.dies) ∧
    (s.arg 0 = 12 → s.arg 1 < 64 → s.arg 2 < 8 → ∃ t, exec .monitor s = .next t ∧ Finished s t 0#16 ∧
      (∀ d, d < 4 → SMap.find (t.die d).monitors (s.arg 1) = some (Monitor.cleared (s.arg 2)))) ∧
    (s.arg 0 = 13 → (s.fw.fuse < s.arg 1 ∧ s.arg 1 ≤ 255 → ∃ t, exec .fuseadv s = .next t ∧ Finished s t 0#16 ∧ t.fw.fuse = s.arg 1) ∧
      (s.arg 1 ≤ s.fw.fuse ∨ 255 < s.arg 1 → ∃ t, exec .fuseadv s = .next t ∧ Finished s t Cause.secFuse ∧ t.fw.fuse = s.fw.fuse))) ∧
  (∀ (s : State) (p : Instr × Nat), p ∈ [(Instr.reset, 0), (.query, 1), (.load, 2), (.unload, 3), (.lease, 4), (.unlease, 5), (.map, 6), (.launch, 7),
    (.preempt, 8), (.kill, 9), (.trapRpt, 10), (.ertcfg, 11), (.monitor, 12), (.fuseadv, 13)] →
    (s.fw.busy = false ∨ s.arg 0 ≠ p.2) → exec p.1 s = .next s)
end

