-- ==== Sys2Proof/Laws/Memory.lean ====
section
/-! SUPPORT. Memory: every operation keeps the canonical form, a read after a write to the same place gives what was written, and
a write leaves every other place alone. -/

namespace Sys2Proof.Machine

/-! ## The canonical form -/

theorem Memory.sortedFrom_mono {m : Memory} {lo hi : Nat} (h : hi ≤ lo) (hm : m.sortedFrom lo = true) : m.sortedFrom hi = true := by
  cases m with
  | nil => rfl
  | cons e m =>
    obtain ⟨k, v⟩ := e
    simp only [Memory.sortedFrom, Bool.and_eq_true, decide_eq_true_eq] at hm ⊢
    exact ⟨⟨by omega, hm.1.2⟩, hm.2⟩

theorem Memory.sortedFrom_writeByte {m : Memory} {lo a : Nat} (b : Byte) (hl : lo ≤ a) (hm : m.sortedFrom lo = true) :
    (m.writeByte a b).sortedFrom lo = true := by
  induction m generalizing lo with
  | nil => by_cases h : b = Memory.blank <;> simp [Memory.writeByte, Memory.sortedFrom, h, hl]
  | cons e m ih =>
    obtain ⟨k, v⟩ := e
    have hm0 := hm
    simp only [Memory.sortedFrom, Bool.and_eq_true, decide_eq_true_eq, bne_iff_ne] at hm
    obtain ⟨⟨h1, h2⟩, h3⟩ := hm
    simp only [Memory.writeByte]
    split
    · split
      · exact hm0
      · rename_i hk hb
        simp only [Memory.sortedFrom, Bool.and_eq_true, decide_eq_true_eq, bne_iff_ne]
        exact ⟨⟨hl, hb⟩, ⟨by omega, h2⟩, h3⟩
    · split
      · rename_i hk he
        subst he
        split
        · exact Memory.sortedFrom_mono (by omega) h3
        · rename_i hb
          simp only [Memory.sortedFrom, Bool.and_eq_true, decide_eq_true_eq, bne_iff_ne]
          exact ⟨⟨hl, hb⟩, h3⟩
      · simp only [Memory.sortedFrom, Bool.and_eq_true, decide_eq_true_eq, bne_iff_ne]
        exact ⟨⟨h1, h2⟩, ih (by omega) h3⟩

theorem Memory.wf_writeByte {m : Memory} (a : Nat) (b : Byte) (h : m.wf = true) : (m.writeByte a b).wf = true :=
  Memory.sortedFrom_writeByte b (Nat.zero_le a) h

theorem Memory.wf_writeBytes {m : Memory} (a : Nat) (bs : List Byte) (h : m.wf = true) : (m.writeBytes a bs).wf = true := by
  induction bs generalizing m a with
  | nil => exact h
  | cons b bs ih => exact ih (a + 1) (Memory.wf_writeByte a b h)

theorem Memory.wf_write {m : Memory} (n a v : Nat) (h : m.wf = true) : (m.write n a v).wf = true :=
  Memory.wf_writeBytes a _ h

theorem Memory.wf_writeBeat {m : Memory} (a : Nat) (b : Beat) (h : m.wf = true) : (m.writeBeat a b).wf = true :=
  Memory.wf_write 128 a _ h

theorem Memory.sortedFrom_filter {m : Memory} (p : Host.Cell → Bool) {lo : Nat} (h : m.sortedFrom lo = true) :
    Memory.sortedFrom lo (m.filter p) = true := by
  induction m generalizing lo with
  | nil => rfl
  | cons e m ih =>
    obtain ⟨k, v⟩ := e
    simp only [Memory.sortedFrom, Bool.and_eq_true, decide_eq_true_eq] at h
    rw [List.filter_cons]
    split
    · simp only [Memory.sortedFrom, Bool.and_eq_true, decide_eq_true_eq]
      exact ⟨h.1, ih h.2⟩
    · exact ih (Memory.sortedFrom_mono (by omega) h.2)

theorem Memory.wf_filter {m : Memory} (p : Host.Cell → Bool) (h : m.wf = true) : Memory.wf (m.filter p) = true :=
  Memory.sortedFrom_filter p h

theorem Memory.wf_erase {m : Memory} (a n : Nat) (h : m.wf = true) : (m.erase a n).wf = true := Memory.wf_filter _ h

/-- Cells written one after another. -/
theorem Memory.wf_foldl_writeByte {α : Type} (xs : List α) (at_ : α → Nat) (val : α → Byte) {m : Memory} (h : m.wf = true) :
    Memory.wf (xs.foldl (fun m x => m.writeByte (at_ x) (val x)) m) = true := by
  induction xs generalizing m with
  | nil => exact h
  | cons x xs ih => exact ih (Memory.wf_writeByte _ _ h)

theorem Memory.wf_copy {m : Memory} (src dst n : Nat) (h : m.wf = true) : (m.copy src dst n).wf = true := by
  unfold Memory.copy
  exact Memory.wf_foldl_writeByte _ _ _ (Memory.wf_filter _ h)

/-! ## Reading after writing -/

theorem Memory.readByte_below {m : Memory} {lo a : Nat} (ha : a < lo) (h : m.sortedFrom lo = true) : m.readByte a = Memory.blank := by
  induction m generalizing lo with
  | nil => rfl
  | cons e m ih =>
    obtain ⟨k, v⟩ := e
    simp only [Memory.sortedFrom, Bool.and_eq_true, decide_eq_true_eq] at h
    simp only [Memory.readByte]
    rw [if_neg (by omega)]
    exact ih (by omega) h.2

theorem Memory.readByte_writeByte_from {m : Memory} {lo : Nat} (a : Nat) (b : Byte) (h : m.sortedFrom lo = true) :
    (m.writeByte a b).readByte a = b := by
  induction m generalizing lo with
  | nil => by_cases hb : b = Memory.blank <;> simp [Memory.writeByte, Memory.readByte, hb]
  | cons e m ih =>
    obtain ⟨k, v⟩ := e
    have h0 := h
    simp only [Memory.sortedFrom, Bool.and_eq_true, decide_eq_true_eq] at h
    simp only [Memory.writeByte]
    split
    · rename_i hk
      split
      · rename_i hb
        simp only [Memory.readByte]
        rw [if_neg (by omega), hb]
        exact Memory.readByte_below (lo := k + 1) (by omega) h.2
      · simp [Memory.readByte]
    · split
      · rename_i he
        split
        · rename_i hb
          rw [hb]; exact Memory.readByte_below (lo := k + 1) (by omega) h.2
        · simp [Memory.readByte]
      · rename_i h1 h2
        simp only [Memory.readByte]
        rw [if_neg (by omega)]
        exact ih h.2

/-- A byte reads as it was written. -/
theorem Memory.readByte_writeByte_same {m : Memory} (a : Nat) (b : Byte) (h : m.wf = true) : (m.writeByte a b).readByte a = b :=
  Memory.readByte_writeByte_from a b h

/-- Writing a byte leaves every other byte alone. -/
theorem Memory.readByte_writeByte_other (m : Memory) (a c : Nat) (b : Byte) (h : c ≠ a) : (m.writeByte a b).readByte c = m.readByte c := by
  induction m with
  | nil => by_cases hb : b = Memory.blank <;> simp [Memory.writeByte, Memory.readByte, hb, Ne.symm h]
  | cons e m ih =>
    obtain ⟨k, v⟩ := e
    simp only [Memory.writeByte]
    split
    · split
      · rfl
      · simp [Memory.readByte, Ne.symm h]
    · split
      · rename_i he
        subst he
        split <;> simp [Memory.readByte, Ne.symm h]
      · simp only [Memory.readByte, ih]

/-- Writing bytes leaves every byte outside them alone. -/
theorem Memory.readByte_writeBytes_other (m : Memory) (a c : Nat) (bs : List Byte) (h : c < a ∨ a + bs.length ≤ c) :
    (m.writeBytes a bs).readByte c = m.readByte c := by
  induction bs generalizing m a with
  | nil => rfl
  | cons b bs ih =>
    simp only [List.length_cons] at h
    simp only [Memory.writeBytes]
    rw [ih _ _ (by omega), Memory.readByte_writeByte_other _ _ _ _ (by omega)]

/-- Bytes read as they were written. -/
theorem Memory.readByte_writeBytes_same {m : Memory} (a j : Nat) (bs : List Byte) (b : Byte) (h : m.wf = true) (hj : bs[j]? = some b) :
    (m.writeBytes a bs).readByte (a + j) = b := by
  induction bs generalizing m a j with
  | nil => simp at hj
  | cons x bs ih =>
    cases j with
    | zero =>
      simp only [List.getElem?_cons_zero, Option.some.injEq] at hj
      simp only [Memory.writeBytes, Nat.add_zero]
      rw [Memory.readByte_writeBytes_other _ _ _ _ (by omega), Memory.readByte_writeByte_same a x h, hj]
    | succ j =>
      simp only [List.getElem?_cons_succ] at hj
      have := ih (a + 1) j (Memory.wf_writeByte a x h) hj
      rw [← this]
      simp only [Memory.writeBytes]
      congr 1; omega

@[simp] theorem Memory.length_readBytes (m : Memory) (n a : Nat) : (m.readBytes n a).length = n := by
  induction n generalizing a with
  | zero => rfl
  | succ n ih => simp [Memory.readBytes, ih]

theorem Memory.readBytes_congr {m k : Memory} (n a : Nat) (h : ∀ j, j < n → k.readByte (a + j) = m.readByte (a + j)) :
    k.readBytes n a = m.readBytes n a := by
  induction n generalizing a with
  | zero => rfl
  | succ n ih =>
    simp only [Memory.readBytes]
    congr 1
    · exact h 0 (by omega)
    · exact ih (a + 1) (fun j hj => by have := h (j + 1) (by omega); rw [show a + 1 + j = a + (j + 1) by omega]; exact this)

/-- What was written reads back whole. -/
theorem Memory.readBytes_writeBytes_same {m : Memory} (a : Nat) (bs : List Byte) (h : m.wf = true) :
    (m.writeBytes a bs).readBytes bs.length a = bs := by
  induction bs generalizing m a with
  | nil => rfl
  | cons b bs ih =>
    simp only [List.length_cons, Memory.readBytes, Memory.writeBytes]
    congr 1
    · rw [Memory.readByte_writeBytes_other _ _ _ _ (by omega), Memory.readByte_writeByte_same a b h]
    · exact ih (a + 1) (Memory.wf_writeByte a b h)

theorem Memory.writeBytes_append (m : Memory) (a : Nat) (xs ys : List Byte) :
    m.writeBytes a (xs ++ ys) = (m.writeBytes a xs).writeBytes (a + xs.length) ys := by
  induction xs generalizing m a with
  | nil => rfl
  | cons x xs ih =>
    simp only [List.cons_append, Memory.writeBytes, List.length_cons]
    rw [ih]; congr 1; omega

/-! ## Bytes and numbers (R3) -/

@[simp] theorem length_bytesOfNat (n v : Nat) : (bytesOfNat n v).length = n := by
  induction n generalizing v with
  | zero => rfl
  | succ n ih => simp [bytesOfNat, ih]

/-- The n low bytes of a value hold it modulo 256^n. -/
theorem natOfBytes_bytesOfNat (n v : Nat) : natOfBytes (bytesOfNat n v) = v % 256 ^ n := by
  induction n generalizing v with
  | zero => simp [bytesOfNat, natOfBytes, Nat.mod_one]
  | succ n ih =>
    have e : natOfBytes (bytesOfNat (n + 1) v) = natOfBytes (bytesOfNat n (v / 256)) * 256 + v % 256 := by
      simp [bytesOfNat, natOfBytes, BitVec.toNat_ofNat]
    rw [e, ih, Nat.pow_succ, Nat.mul_comm (256 ^ n) 256, Nat.mod_mul]
    omega

/-- A value reads back modulo 256^n. -/
theorem Memory.read_write_same {m : Memory} (n a v : Nat) (h : m.wf = true) : (m.write n a v).read n a = v % 256 ^ n := by
  have := Memory.readBytes_writeBytes_same a (bytesOfNat n v) h
  rw [length_bytesOfNat] at this
  unfold Memory.read Memory.write
  rw [this, natOfBytes_bytesOfNat]

end Sys2Proof.Machine
end

