-- ==== Sys2Proof/Laws/Tables.lean ====
section
/-! SUPPORT. Sparse tables: what reading gives after a change. -/

namespace Sys2Proof.Machine

@[simp] theorem SMap.find_set_same {α : Type} (m : SMap α) (i : Nat) (v : α) : SMap.find (SMap.set m i v) i = some v := by
  induction m with
  | nil => simp [SMap.set, SMap.find]
  | cons e m ih =>
    obtain ⟨k, x⟩ := e
    simp only [SMap.set]
    split
    · simp [SMap.find]
    · split
      · simp [SMap.find]
      · rename_i h; simp only [SMap.find]; rw [if_neg (fun e => h e.symm)]; exact ih

theorem SMap.find_set_other {α : Type} (m : SMap α) (i j : Nat) (v : α) (h : j ≠ i) : SMap.find (SMap.set m i v) j = SMap.find m j := by
  induction m with
  | nil => simp [SMap.set, SMap.find, Ne.symm h]
  | cons e m ih =>
    obtain ⟨k, x⟩ := e
    simp only [SMap.set]
    split
    · simp [SMap.find, Ne.symm h]
    · split
      · rename_i e; subst e; simp [SMap.find, Ne.symm h]
      · simp only [SMap.find, ih]

@[simp] theorem SMap.get_set_same {α : Type} (m : SMap α) (d : α) (i : Nat) (v : α) : SMap.get (SMap.set m i v) d i = v := by
  simp [SMap.get]

theorem SMap.get_set_other {α : Type} (m : SMap α) (d : α) (i j : Nat) (v : α) (h : j ≠ i) :
    SMap.get (SMap.set m i v) d j = SMap.get m d j := by
  simp [SMap.get, SMap.find_set_other m i j v h]

@[simp] theorem SMap.find_del_same {α : Type} (m : SMap α) (i : Nat) : SMap.find (SMap.del m i) i = none := by
  induction m with
  | nil => rfl
  | cons e m ih =>
    obtain ⟨k, x⟩ := e
    by_cases h : k = i
    · simpa [SMap.del, h] using ih
    · simp only [SMap.del, List.filter_cons] at ih ⊢
      simp [h, SMap.find, ih]

theorem SMap.find_del_other {α : Type} (m : SMap α) (i j : Nat) (h : j ≠ i) : SMap.find (SMap.del m i) j = SMap.find m j := by
  induction m with
  | nil => rfl
  | cons e m ih =>
    obtain ⟨k, x⟩ := e
    by_cases hk : k = i
    · subst hk; simp only [SMap.del, List.filter_cons] at ih ⊢; simp [SMap.find, Ne.symm h, ih]
    · simp only [SMap.del, List.filter_cons] at ih ⊢
      simp [hk, SMap.find, ih]

/-- A change of every value keeps the keys. -/
theorem SMap.find_map {α : Type} (m : SMap α) (f : Nat → α → α) (i : Nat) :
    SMap.find (m.map (fun e => (e.1, f e.1 e.2))) i = (SMap.find m i).map (f i) := by
  induction m with
  | nil => rfl
  | cons e m ih =>
    obtain ⟨k, x⟩ := e
    by_cases h : k = i
    · subst h; simp [SMap.find]
    · simp [SMap.find, h, ih]

end Sys2Proof.Machine
end

