-- ==== Sys2Proof/Laws/State.lean ====
section
/-! SUPPORT. What each update of the state leaves: one lemma a field, and what a unit reads after a change. -/

namespace Sys2Proof.Machine

/-! ## Fields of the state -/

/-! ### setCluster -/

@[simp] theorem State.setCluster_now (s : State) (cl : Nat) (c : Cluster) : (s.setCluster cl c).now = s.now := rfl
@[simp] theorem State.setCluster_tscBase (s : State) (cl : Nat) (c : Cluster) : (s.setCluster cl c).tscBase = s.tscBase := rfl
@[simp] theorem State.setCluster_mem (s : State) (cl : Nat) (c : Cluster) : (s.setCluster cl c).mem = s.mem := rfl
@[simp] theorem State.setCluster_poison (s : State) (cl : Nat) (c : Cluster) : (s.setCluster cl c).poison = s.poison := rfl
@[simp] theorem State.setCluster_ecc (s : State) (cl : Nat) (c : Cluster) : (s.setCluster cl c).ecc = s.ecc := rfl
@[simp] theorem State.setCluster_stamps (s : State) (cl : Nat) (c : Cluster) : (s.setCluster cl c).stamps = s.stamps := rfl
@[simp] theorem State.setCluster_writers (s : State) (cl : Nat) (c : Cluster) : (s.setCluster cl c).writers = s.writers := rfl
@[simp] theorem State.setCluster_inflight (s : State) (cl : Nat) (c : Cluster) : (s.setCluster cl c).inflight = s.inflight := rfl
@[simp] theorem State.setCluster_nmops (s : State) (cl : Nat) (c : Cluster) : (s.setCluster cl c).nmops = s.nmops := rfl
@[simp] theorem State.setCluster_net (s : State) (cl : Nat) (c : Cluster) : (s.setCluster cl c).net = s.net := rfl
@[simp] theorem State.setCluster_asked (s : State) (cl : Nat) (c : Cluster) : (s.setCluster cl c).asked = s.asked := rfl
@[simp] theorem State.setCluster_hostLines (s : State) (cl : Nat) (c : Cluster) : (s.setCluster cl c).hostLines = s.hostLines := rfl
@[simp] theorem State.setCluster_snoops (s : State) (cl : Nat) (c : Cluster) : (s.setCluster cl c).snoops = s.snoops := rfl
@[simp] theorem State.setCluster_waiters (s : State) (cl : Nat) (c : Cluster) : (s.setCluster cl c).waiters = s.waiters := rfl
@[simp] theorem State.setCluster_cancels (s : State) (cl : Nat) (c : Cluster) : (s.setCluster cl c).cancels = s.cancels := rfl
@[simp] theorem State.setCluster_settled (s : State) (cl : Nat) (c : Cluster) : (s.setCluster cl c).settled = s.settled := rfl
@[simp] theorem State.setCluster_barriers (s : State) (cl : Nat) (c : Cluster) : (s.setCluster cl c).barriers = s.barriers := rfl
@[simp] theorem State.setCluster_adjTags (s : State) (cl : Nat) (c : Cluster) : (s.setCluster cl c).adjTags = s.adjTags := rfl
@[simp] theorem State.setCluster_held (s : State) (cl : Nat) (c : Cluster) : (s.setCluster cl c).held = s.held := rfl
@[simp] theorem State.setCluster_bounce (s : State) (cl : Nat) (c : Cluster) : (s.setCluster cl c).bounce = s.bounce := rfl
@[simp] theorem State.setCluster_windows (s : State) (cl : Nat) (c : Cluster) : (s.setCluster cl c).windows = s.windows := rfl
@[simp] theorem State.setCluster_flits (s : State) (cl : Nat) (c : Cluster) : (s.setCluster cl c).flits = s.flits := rfl
@[simp] theorem State.setCluster_dies (s : State) (cl : Nat) (c : Cluster) : (s.setCluster cl c).dies = s.dies := rfl
@[simp] theorem State.setCluster_hub (s : State) (cl : Nat) (c : Cluster) : (s.setCluster cl c).hub = s.hub := rfl
@[simp] theorem State.setCluster_fw (s : State) (cl : Nat) (c : Cluster) : (s.setCluster cl c).fw = s.fw := rfl
@[simp] theorem State.setCluster_peers (s : State) (cl : Nat) (c : Cluster) : (s.setCluster cl c).peers = s.peers := rfl
@[simp] theorem State.setCluster_agenda (s : State) (cl : Nat) (c : Cluster) : (s.setCluster cl c).agenda = s.agenda := rfl
@[simp] theorem State.setCluster_cur (s : State) (cl : Nat) (c : Cluster) : (s.setCluster cl c).cur = s.cur := rfl
@[simp] theorem State.setCluster_freeCtr (s : State) (cl : Nat) (c : Cluster) : (s.setCluster cl c).freeCtr = s.freeCtr := rfl
@[simp] theorem State.setCluster_nextId (s : State) (cl : Nat) (c : Cluster) : (s.setCluster cl c).nextId = s.nextId := rfl

/-! ### modCluster -/

@[simp] theorem State.modCluster_now (s : State) (cl : Nat) (f : Cluster → Cluster) : (s.modCluster cl f).now = s.now := rfl
@[simp] theorem State.modCluster_tscBase (s : State) (cl : Nat) (f : Cluster → Cluster) : (s.modCluster cl f).tscBase = s.tscBase := rfl
@[simp] theorem State.modCluster_mem (s : State) (cl : Nat) (f : Cluster → Cluster) : (s.modCluster cl f).mem = s.mem := rfl
@[simp] theorem State.modCluster_poison (s : State) (cl : Nat) (f : Cluster → Cluster) : (s.modCluster cl f).poison = s.poison := rfl
@[simp] theorem State.modCluster_ecc (s : State) (cl : Nat) (f : Cluster → Cluster) : (s.modCluster cl f).ecc = s.ecc := rfl
@[simp] theorem State.modCluster_stamps (s : State) (cl : Nat) (f : Cluster → Cluster) : (s.modCluster cl f).stamps = s.stamps := rfl
@[simp] theorem State.modCluster_writers (s : State) (cl : Nat) (f : Cluster → Cluster) : (s.modCluster cl f).writers = s.writers := rfl
@[simp] theorem State.modCluster_inflight (s : State) (cl : Nat) (f : Cluster → Cluster) : (s.modCluster cl f).inflight = s.inflight := rfl
@[simp] theorem State.modCluster_nmops (s : State) (cl : Nat) (f : Cluster → Cluster) : (s.modCluster cl f).nmops = s.nmops := rfl
@[simp] theorem State.modCluster_net (s : State) (cl : Nat) (f : Cluster → Cluster) : (s.modCluster cl f).net = s.net := rfl
@[simp] theorem State.modCluster_asked (s : State) (cl : Nat) (f : Cluster → Cluster) : (s.modCluster cl f).asked = s.asked := rfl
@[simp] theorem State.modCluster_hostLines (s : State) (cl : Nat) (f : Cluster → Cluster) : (s.modCluster cl f).hostLines = s.hostLines := rfl
@[simp] theorem State.modCluster_snoops (s : State) (cl : Nat) (f : Cluster → Cluster) : (s.modCluster cl f).snoops = s.snoops := rfl
@[simp] theorem State.modCluster_waiters (s : State) (cl : Nat) (f : Cluster → Cluster) : (s.modCluster cl f).waiters = s.waiters := rfl
@[simp] theorem State.modCluster_cancels (s : State) (cl : Nat) (f : Cluster → Cluster) : (s.modCluster cl f).cancels = s.cancels := rfl
@[simp] theorem State.modCluster_settled (s : State) (cl : Nat) (f : Cluster → Cluster) : (s.modCluster cl f).settled = s.settled := rfl
@[simp] theorem State.modCluster_barriers (s : State) (cl : Nat) (f : Cluster → Cluster) : (s.modCluster cl f).barriers = s.barriers := rfl
@[simp] theorem State.modCluster_adjTags (s : State) (cl : Nat) (f : Cluster → Cluster) : (s.modCluster cl f).adjTags = s.adjTags := rfl
@[simp] theorem State.modCluster_held (s : State) (cl : Nat) (f : Cluster → Cluster) : (s.modCluster cl f).held = s.held := rfl
@[simp] theorem State.modCluster_bounce (s : State) (cl : Nat) (f : Cluster → Cluster) : (s.modCluster cl f).bounce = s.bounce := rfl
@[simp] theorem State.modCluster_windows (s : State) (cl : Nat) (f : Cluster → Cluster) : (s.modCluster cl f).windows = s.windows := rfl
@[simp] theorem State.modCluster_flits (s : State) (cl : Nat) (f : Cluster → Cluster) : (s.modCluster cl f).flits = s.flits := rfl
@[simp] theorem State.modCluster_dies (s : State) (cl : Nat) (f : Cluster → Cluster) : (s.modCluster cl f).dies = s.dies := rfl
@[simp] theorem State.modCluster_hub (s : State) (cl : Nat) (f : Cluster → Cluster) : (s.modCluster cl f).hub = s.hub := rfl
@[simp] theorem State.modCluster_fw (s : State) (cl : Nat) (f : Cluster → Cluster) : (s.modCluster cl f).fw = s.fw := rfl
@[simp] theorem State.modCluster_peers (s : State) (cl : Nat) (f : Cluster → Cluster) : (s.modCluster cl f).peers = s.peers := rfl
@[simp] theorem State.modCluster_agenda (s : State) (cl : Nat) (f : Cluster → Cluster) : (s.modCluster cl f).agenda = s.agenda := rfl
@[simp] theorem State.modCluster_cur (s : State) (cl : Nat) (f : Cluster → Cluster) : (s.modCluster cl f).cur = s.cur := rfl
@[simp] theorem State.modCluster_freeCtr (s : State) (cl : Nat) (f : Cluster → Cluster) : (s.modCluster cl f).freeCtr = s.freeCtr := rfl
@[simp] theorem State.modCluster_nextId (s : State) (cl : Nat) (f : Cluster → Cluster) : (s.modCluster cl f).nextId = s.nextId := rfl

/-! ### setDie -/

@[simp] theorem State.setDie_now (s : State) (d : Nat) (x : Die) : (s.setDie d x).now = s.now := rfl
@[simp] theorem State.setDie_tscBase (s : State) (d : Nat) (x : Die) : (s.setDie d x).tscBase = s.tscBase := rfl
@[simp] theorem State.setDie_mem (s : State) (d : Nat) (x : Die) : (s.setDie d x).mem = s.mem := rfl
@[simp] theorem State.setDie_poison (s : State) (d : Nat) (x : Die) : (s.setDie d x).poison = s.poison := rfl
@[simp] theorem State.setDie_ecc (s : State) (d : Nat) (x : Die) : (s.setDie d x).ecc = s.ecc := rfl
@[simp] theorem State.setDie_stamps (s : State) (d : Nat) (x : Die) : (s.setDie d x).stamps = s.stamps := rfl
@[simp] theorem State.setDie_writers (s : State) (d : Nat) (x : Die) : (s.setDie d x).writers = s.writers := rfl
@[simp] theorem State.setDie_inflight (s : State) (d : Nat) (x : Die) : (s.setDie d x).inflight = s.inflight := rfl
@[simp] theorem State.setDie_nmops (s : State) (d : Nat) (x : Die) : (s.setDie d x).nmops = s.nmops := rfl
@[simp] theorem State.setDie_net (s : State) (d : Nat) (x : Die) : (s.setDie d x).net = s.net := rfl
@[simp] theorem State.setDie_asked (s : State) (d : Nat) (x : Die) : (s.setDie d x).asked = s.asked := rfl
@[simp] theorem State.setDie_hostLines (s : State) (d : Nat) (x : Die) : (s.setDie d x).hostLines = s.hostLines := rfl
@[simp] theorem State.setDie_snoops (s : State) (d : Nat) (x : Die) : (s.setDie d x).snoops = s.snoops := rfl
@[simp] theorem State.setDie_waiters (s : State) (d : Nat) (x : Die) : (s.setDie d x).waiters = s.waiters := rfl
@[simp] theorem State.setDie_cancels (s : State) (d : Nat) (x : Die) : (s.setDie d x).cancels = s.cancels := rfl
@[simp] theorem State.setDie_settled (s : State) (d : Nat) (x : Die) : (s.setDie d x).settled = s.settled := rfl
@[simp] theorem State.setDie_barriers (s : State) (d : Nat) (x : Die) : (s.setDie d x).barriers = s.barriers := rfl
@[simp] theorem State.setDie_adjTags (s : State) (d : Nat) (x : Die) : (s.setDie d x).adjTags = s.adjTags := rfl
@[simp] theorem State.setDie_held (s : State) (d : Nat) (x : Die) : (s.setDie d x).held = s.held := rfl
@[simp] theorem State.setDie_bounce (s : State) (d : Nat) (x : Die) : (s.setDie d x).bounce = s.bounce := rfl
@[simp] theorem State.setDie_windows (s : State) (d : Nat) (x : Die) : (s.setDie d x).windows = s.windows := rfl
@[simp] theorem State.setDie_flits (s : State) (d : Nat) (x : Die) : (s.setDie d x).flits = s.flits := rfl
@[simp] theorem State.setDie_clusters (s : State) (d : Nat) (x : Die) : (s.setDie d x).clusters = s.clusters := rfl
@[simp] theorem State.setDie_hub (s : State) (d : Nat) (x : Die) : (s.setDie d x).hub = s.hub := rfl
@[simp] theorem State.setDie_fw (s : State) (d : Nat) (x : Die) : (s.setDie d x).fw = s.fw := rfl
@[simp] theorem State.setDie_peers (s : State) (d : Nat) (x : Die) : (s.setDie d x).peers = s.peers := rfl
@[simp] theorem State.setDie_agenda (s : State) (d : Nat) (x : Die) : (s.setDie d x).agenda = s.agenda := rfl
@[simp] theorem State.setDie_cur (s : State) (d : Nat) (x : Die) : (s.setDie d x).cur = s.cur := rfl
@[simp] theorem State.setDie_freeCtr (s : State) (d : Nat) (x : Die) : (s.setDie d x).freeCtr = s.freeCtr := rfl
@[simp] theorem State.setDie_nextId (s : State) (d : Nat) (x : Die) : (s.setDie d x).nextId = s.nextId := rfl

/-! ### modDie -/

@[simp] theorem State.modDie_now (s : State) (d : Nat) (f : Die → Die) : (s.modDie d f).now = s.now := rfl
@[simp] theorem State.modDie_tscBase (s : State) (d : Nat) (f : Die → Die) : (s.modDie d f).tscBase = s.tscBase := rfl
@[simp] theorem State.modDie_mem (s : State) (d : Nat) (f : Die → Die) : (s.modDie d f).mem = s.mem := rfl
@[simp] theorem State.modDie_poison (s : State) (d : Nat) (f : Die → Die) : (s.modDie d f).poison = s.poison := rfl
@[simp] theorem State.modDie_ecc (s : State) (d : Nat) (f : Die → Die) : (s.modDie d f).ecc = s.ecc := rfl
@[simp] theorem State.modDie_stamps (s : State) (d : Nat) (f : Die → Die) : (s.modDie d f).stamps = s.stamps := rfl
@[simp] theorem State.modDie_writers (s : State) (d : Nat) (f : Die → Die) : (s.modDie d f).writers = s.writers := rfl
@[simp] theorem State.modDie_inflight (s : State) (d : Nat) (f : Die → Die) : (s.modDie d f).inflight = s.inflight := rfl
@[simp] theorem State.modDie_nmops (s : State) (d : Nat) (f : Die → Die) : (s.modDie d f).nmops = s.nmops := rfl
@[simp] theorem State.modDie_net (s : State) (d : Nat) (f : Die → Die) : (s.modDie d f).net = s.net := rfl
@[simp] theorem State.modDie_asked (s : State) (d : Nat) (f : Die → Die) : (s.modDie d f).asked = s.asked := rfl
@[simp] theorem State.modDie_hostLines (s : State) (d : Nat) (f : Die → Die) : (s.modDie d f).hostLines = s.hostLines := rfl
@[simp] theorem State.modDie_snoops (s : State) (d : Nat) (f : Die → Die) : (s.modDie d f).snoops = s.snoops := rfl
@[simp] theorem State.modDie_waiters (s : State) (d : Nat) (f : Die → Die) : (s.modDie d f).waiters = s.waiters := rfl
@[simp] theorem State.modDie_cancels (s : State) (d : Nat) (f : Die → Die) : (s.modDie d f).cancels = s.cancels := rfl
@[simp] theorem State.modDie_settled (s : State) (d : Nat) (f : Die → Die) : (s.modDie d f).settled = s.settled := rfl
@[simp] theorem State.modDie_barriers (s : State) (d : Nat) (f : Die → Die) : (s.modDie d f).barriers = s.barriers := rfl
@[simp] theorem State.modDie_adjTags (s : State) (d : Nat) (f : Die → Die) : (s.modDie d f).adjTags = s.adjTags := rfl
@[simp] theorem State.modDie_held (s : State) (d : Nat) (f : Die → Die) : (s.modDie d f).held = s.held := rfl
@[simp] theorem State.modDie_bounce (s : State) (d : Nat) (f : Die → Die) : (s.modDie d f).bounce = s.bounce := rfl
@[simp] theorem State.modDie_windows (s : State) (d : Nat) (f : Die → Die) : (s.modDie d f).windows = s.windows := rfl
@[simp] theorem State.modDie_flits (s : State) (d : Nat) (f : Die → Die) : (s.modDie d f).flits = s.flits := rfl
@[simp] theorem State.modDie_clusters (s : State) (d : Nat) (f : Die → Die) : (s.modDie d f).clusters = s.clusters := rfl
@[simp] theorem State.modDie_hub (s : State) (d : Nat) (f : Die → Die) : (s.modDie d f).hub = s.hub := rfl
@[simp] theorem State.modDie_fw (s : State) (d : Nat) (f : Die → Die) : (s.modDie d f).fw = s.fw := rfl
@[simp] theorem State.modDie_peers (s : State) (d : Nat) (f : Die → Die) : (s.modDie d f).peers = s.peers := rfl
@[simp] theorem State.modDie_agenda (s : State) (d : Nat) (f : Die → Die) : (s.modDie d f).agenda = s.agenda := rfl
@[simp] theorem State.modDie_cur (s : State) (d : Nat) (f : Die → Die) : (s.modDie d f).cur = s.cur := rfl
@[simp] theorem State.modDie_freeCtr (s : State) (d : Nat) (f : Die → Die) : (s.modDie d f).freeCtr = s.freeCtr := rfl
@[simp] theorem State.modDie_nextId (s : State) (d : Nat) (f : Die → Die) : (s.modDie d f).nextId = s.nextId := rfl

/-! ### setTask -/

@[simp] theorem State.setTask_now (s : State) (k : Nat) (x : Task) : (s.setTask k x).now = s.now := rfl
@[simp] theorem State.setTask_tscBase (s : State) (k : Nat) (x : Task) : (s.setTask k x).tscBase = s.tscBase := rfl
@[simp] theorem State.setTask_mem (s : State) (k : Nat) (x : Task) : (s.setTask k x).mem = s.mem := rfl
@[simp] theorem State.setTask_poison (s : State) (k : Nat) (x : Task) : (s.setTask k x).poison = s.poison := rfl
@[simp] theorem State.setTask_ecc (s : State) (k : Nat) (x : Task) : (s.setTask k x).ecc = s.ecc := rfl
@[simp] theorem State.setTask_stamps (s : State) (k : Nat) (x : Task) : (s.setTask k x).stamps = s.stamps := rfl
@[simp] theorem State.setTask_writers (s : State) (k : Nat) (x : Task) : (s.setTask k x).writers = s.writers := rfl
@[simp] theorem State.setTask_inflight (s : State) (k : Nat) (x : Task) : (s.setTask k x).inflight = s.inflight := rfl
@[simp] theorem State.setTask_nmops (s : State) (k : Nat) (x : Task) : (s.setTask k x).nmops = s.nmops := rfl
@[simp] theorem State.setTask_net (s : State) (k : Nat) (x : Task) : (s.setTask k x).net = s.net := rfl
@[simp] theorem State.setTask_asked (s : State) (k : Nat) (x : Task) : (s.setTask k x).asked = s.asked := rfl
@[simp] theorem State.setTask_hostLines (s : State) (k : Nat) (x : Task) : (s.setTask k x).hostLines = s.hostLines := rfl
@[simp] theorem State.setTask_snoops (s : State) (k : Nat) (x : Task) : (s.setTask k x).snoops = s.snoops := rfl
@[simp] theorem State.setTask_waiters (s : State) (k : Nat) (x : Task) : (s.setTask k x).waiters = s.waiters := rfl
@[simp] theorem State.setTask_cancels (s : State) (k : Nat) (x : Task) : (s.setTask k x).cancels = s.cancels := rfl
@[simp] theorem State.setTask_settled (s : State) (k : Nat) (x : Task) : (s.setTask k x).settled = s.settled := rfl
@[simp] theorem State.setTask_barriers (s : State) (k : Nat) (x : Task) : (s.setTask k x).barriers = s.barriers := rfl
@[simp] theorem State.setTask_adjTags (s : State) (k : Nat) (x : Task) : (s.setTask k x).adjTags = s.adjTags := rfl
@[simp] theorem State.setTask_held (s : State) (k : Nat) (x : Task) : (s.setTask k x).held = s.held := rfl
@[simp] theorem State.setTask_bounce (s : State) (k : Nat) (x : Task) : (s.setTask k x).bounce = s.bounce := rfl
@[simp] theorem State.setTask_windows (s : State) (k : Nat) (x : Task) : (s.setTask k x).windows = s.windows := rfl
@[simp] theorem State.setTask_flits (s : State) (k : Nat) (x : Task) : (s.setTask k x).flits = s.flits := rfl
@[simp] theorem State.setTask_dies (s : State) (k : Nat) (x : Task) : (s.setTask k x).dies = s.dies := rfl
@[simp] theorem State.setTask_clusters (s : State) (k : Nat) (x : Task) : (s.setTask k x).clusters = s.clusters := rfl
@[simp] theorem State.setTask_hub (s : State) (k : Nat) (x : Task) : (s.setTask k x).hub = s.hub := rfl
@[simp] theorem State.setTask_peers (s : State) (k : Nat) (x : Task) : (s.setTask k x).peers = s.peers := rfl
@[simp] theorem State.setTask_agenda (s : State) (k : Nat) (x : Task) : (s.setTask k x).agenda = s.agenda := rfl
@[simp] theorem State.setTask_cur (s : State) (k : Nat) (x : Task) : (s.setTask k x).cur = s.cur := rfl
@[simp] theorem State.setTask_freeCtr (s : State) (k : Nat) (x : Task) : (s.setTask k x).freeCtr = s.freeCtr := rfl
@[simp] theorem State.setTask_nextId (s : State) (k : Nat) (x : Task) : (s.setTask k x).nextId = s.nextId := rfl

/-! ### setFiring -/

@[simp] theorem State.setFiring_now (s : State) (cl ctx : Nat) (f : Firing) : (s.setFiring cl ctx f).now = s.now := rfl
@[simp] theorem State.setFiring_tscBase (s : State) (cl ctx : Nat) (f : Firing) : (s.setFiring cl ctx f).tscBase = s.tscBase := rfl
@[simp] theorem State.setFiring_mem (s : State) (cl ctx : Nat) (f : Firing) : (s.setFiring cl ctx f).mem = s.mem := rfl
@[simp] theorem State.setFiring_poison (s : State) (cl ctx : Nat) (f : Firing) : (s.setFiring cl ctx f).poison = s.poison := rfl
@[simp] theorem State.setFiring_ecc (s : State) (cl ctx : Nat) (f : Firing) : (s.setFiring cl ctx f).ecc = s.ecc := rfl
@[simp] theorem State.setFiring_stamps (s : State) (cl ctx : Nat) (f : Firing) : (s.setFiring cl ctx f).stamps = s.stamps := rfl
@[simp] theorem State.setFiring_writers (s : State) (cl ctx : Nat) (f : Firing) : (s.setFiring cl ctx f).writers = s.writers := rfl
@[simp] theorem State.setFiring_inflight (s : State) (cl ctx : Nat) (f : Firing) : (s.setFiring cl ctx f).inflight = s.inflight := rfl
@[simp] theorem State.setFiring_nmops (s : State) (cl ctx : Nat) (f : Firing) : (s.setFiring cl ctx f).nmops = s.nmops := rfl
@[simp] theorem State.setFiring_net (s : State) (cl ctx : Nat) (f : Firing) : (s.setFiring cl ctx f).net = s.net := rfl
@[simp] theorem State.setFiring_asked (s : State) (cl ctx : Nat) (f : Firing) : (s.setFiring cl ctx f).asked = s.asked := rfl
@[simp] theorem State.setFiring_hostLines (s : State) (cl ctx : Nat) (f : Firing) : (s.setFiring cl ctx f).hostLines = s.hostLines := rfl
@[simp] theorem State.setFiring_snoops (s : State) (cl ctx : Nat) (f : Firing) : (s.setFiring cl ctx f).snoops = s.snoops := rfl
@[simp] theorem State.setFiring_waiters (s : State) (cl ctx : Nat) (f : Firing) : (s.setFiring cl ctx f).waiters = s.waiters := rfl
@[simp] theorem State.setFiring_cancels (s : State) (cl ctx : Nat) (f : Firing) : (s.setFiring cl ctx f).cancels = s.cancels := rfl
@[simp] theorem State.setFiring_settled (s : State) (cl ctx : Nat) (f : Firing) : (s.setFiring cl ctx f).settled = s.settled := rfl
@[simp] theorem State.setFiring_barriers (s : State) (cl ctx : Nat) (f : Firing) : (s.setFiring cl ctx f).barriers = s.barriers := rfl
@[simp] theorem State.setFiring_adjTags (s : State) (cl ctx : Nat) (f : Firing) : (s.setFiring cl ctx f).adjTags = s.adjTags := rfl
@[simp] theorem State.setFiring_held (s : State) (cl ctx : Nat) (f : Firing) : (s.setFiring cl ctx f).held = s.held := rfl
@[simp] theorem State.setFiring_bounce (s : State) (cl ctx : Nat) (f : Firing) : (s.setFiring cl ctx f).bounce = s.bounce := rfl
@[simp] theorem State.setFiring_windows (s : State) (cl ctx : Nat) (f : Firing) : (s.setFiring cl ctx f).windows = s.windows := rfl
@[simp] theorem State.setFiring_flits (s : State) (cl ctx : Nat) (f : Firing) : (s.setFiring cl ctx f).flits = s.flits := rfl
@[simp] theorem State.setFiring_dies (s : State) (cl ctx : Nat) (f : Firing) : (s.setFiring cl ctx f).dies = s.dies := rfl
@[simp] theorem State.setFiring_hub (s : State) (cl ctx : Nat) (f : Firing) : (s.setFiring cl ctx f).hub = s.hub := rfl
@[simp] theorem State.setFiring_fw (s : State) (cl ctx : Nat) (f : Firing) : (s.setFiring cl ctx f).fw = s.fw := rfl
@[simp] theorem State.setFiring_peers (s : State) (cl ctx : Nat) (f : Firing) : (s.setFiring cl ctx f).peers = s.peers := rfl
@[simp] theorem State.setFiring_agenda (s : State) (cl ctx : Nat) (f : Firing) : (s.setFiring cl ctx f).agenda = s.agenda := rfl
@[simp] theorem State.setFiring_cur (s : State) (cl ctx : Nat) (f : Firing) : (s.setFiring cl ctx f).cur = s.cur := rfl
@[simp] theorem State.setFiring_freeCtr (s : State) (cl ctx : Nat) (f : Firing) : (s.setFiring cl ctx f).freeCtr = s.freeCtr := rfl
@[simp] theorem State.setFiring_nextId (s : State) (cl ctx : Nat) (f : Firing) : (s.setFiring cl ctx f).nextId = s.nextId := rfl

/-! ### delFiring -/

@[simp] theorem State.delFiring_now (s : State) (cl ctx : Nat) : (s.delFiring cl ctx).now = s.now := rfl
@[simp] theorem State.delFiring_tscBase (s : State) (cl ctx : Nat) : (s.delFiring cl ctx).tscBase = s.tscBase := rfl
@[simp] theorem State.delFiring_mem (s : State) (cl ctx : Nat) : (s.delFiring cl ctx).mem = s.mem := rfl
@[simp] theorem State.delFiring_poison (s : State) (cl ctx : Nat) : (s.delFiring cl ctx).poison = s.poison := rfl
@[simp] theorem State.delFiring_ecc (s : State) (cl ctx : Nat) : (s.delFiring cl ctx).ecc = s.ecc := rfl
@[simp] theorem State.delFiring_stamps (s : State) (cl ctx : Nat) : (s.delFiring cl ctx).stamps = s.stamps := rfl
@[simp] theorem State.delFiring_writers (s : State) (cl ctx : Nat) : (s.delFiring cl ctx).writers = s.writers := rfl
@[simp] theorem State.delFiring_inflight (s : State) (cl ctx : Nat) : (s.delFiring cl ctx).inflight = s.inflight := rfl
@[simp] theorem State.delFiring_nmops (s : State) (cl ctx : Nat) : (s.delFiring cl ctx).nmops = s.nmops := rfl
@[simp] theorem State.delFiring_net (s : State) (cl ctx : Nat) : (s.delFiring cl ctx).net = s.net := rfl
@[simp] theorem State.delFiring_asked (s : State) (cl ctx : Nat) : (s.delFiring cl ctx).asked = s.asked := rfl
@[simp] theorem State.delFiring_hostLines (s : State) (cl ctx : Nat) : (s.delFiring cl ctx).hostLines = s.hostLines := rfl
@[simp] theorem State.delFiring_snoops (s : State) (cl ctx : Nat) : (s.delFiring cl ctx).snoops = s.snoops := rfl
@[simp] theorem State.delFiring_waiters (s : State) (cl ctx : Nat) : (s.delFiring cl ctx).waiters = s.waiters := rfl
@[simp] theorem State.delFiring_cancels (s : State) (cl ctx : Nat) : (s.delFiring cl ctx).cancels = s.cancels := rfl
@[simp] theorem State.delFiring_settled (s : State) (cl ctx : Nat) : (s.delFiring cl ctx).settled = s.settled := rfl
@[simp] theorem State.delFiring_barriers (s : State) (cl ctx : Nat) : (s.delFiring cl ctx).barriers = s.barriers := rfl
@[simp] theorem State.delFiring_adjTags (s : State) (cl ctx : Nat) : (s.delFiring cl ctx).adjTags = s.adjTags := rfl
@[simp] theorem State.delFiring_held (s : State) (cl ctx : Nat) : (s.delFiring cl ctx).held = s.held := rfl
@[simp] theorem State.delFiring_bounce (s : State) (cl ctx : Nat) : (s.delFiring cl ctx).bounce = s.bounce := rfl
@[simp] theorem State.delFiring_windows (s : State) (cl ctx : Nat) : (s.delFiring cl ctx).windows = s.windows := rfl
@[simp] theorem State.delFiring_flits (s : State) (cl ctx : Nat) : (s.delFiring cl ctx).flits = s.flits := rfl
@[simp] theorem State.delFiring_dies (s : State) (cl ctx : Nat) : (s.delFiring cl ctx).dies = s.dies := rfl
@[simp] theorem State.delFiring_hub (s : State) (cl ctx : Nat) : (s.delFiring cl ctx).hub = s.hub := rfl
@[simp] theorem State.delFiring_fw (s : State) (cl ctx : Nat) : (s.delFiring cl ctx).fw = s.fw := rfl
@[simp] theorem State.delFiring_peers (s : State) (cl ctx : Nat) : (s.delFiring cl ctx).peers = s.peers := rfl
@[simp] theorem State.delFiring_agenda (s : State) (cl ctx : Nat) : (s.delFiring cl ctx).agenda = s.agenda := rfl
@[simp] theorem State.delFiring_cur (s : State) (cl ctx : Nat) : (s.delFiring cl ctx).cur = s.cur := rfl
@[simp] theorem State.delFiring_freeCtr (s : State) (cl ctx : Nat) : (s.delFiring cl ctx).freeCtr = s.freeCtr := rfl
@[simp] theorem State.delFiring_nextId (s : State) (cl ctx : Nat) : (s.delFiring cl ctx).nextId = s.nextId := rfl

/-! ### upTo -/

@[simp] theorem State.upTo_tscBase (s : State) (n : Nat) : (s.upTo n).tscBase = s.tscBase := rfl
@[simp] theorem State.upTo_mem (s : State) (n : Nat) : (s.upTo n).mem = s.mem := rfl
@[simp] theorem State.upTo_poison (s : State) (n : Nat) : (s.upTo n).poison = s.poison := rfl
@[simp] theorem State.upTo_ecc (s : State) (n : Nat) : (s.upTo n).ecc = s.ecc := rfl
@[simp] theorem State.upTo_stamps (s : State) (n : Nat) : (s.upTo n).stamps = s.stamps := rfl
@[simp] theorem State.upTo_writers (s : State) (n : Nat) : (s.upTo n).writers = s.writers := rfl
@[simp] theorem State.upTo_inflight (s : State) (n : Nat) : (s.upTo n).inflight = s.inflight := rfl
@[simp] theorem State.upTo_nmops (s : State) (n : Nat) : (s.upTo n).nmops = s.nmops := rfl
@[simp] theorem State.upTo_net (s : State) (n : Nat) : (s.upTo n).net = s.net := rfl
@[simp] theorem State.upTo_asked (s : State) (n : Nat) : (s.upTo n).asked = s.asked := rfl
@[simp] theorem State.upTo_hostLines (s : State) (n : Nat) : (s.upTo n).hostLines = s.hostLines := rfl
@[simp] theorem State.upTo_snoops (s : State) (n : Nat) : (s.upTo n).snoops = s.snoops := rfl
@[simp] theorem State.upTo_waiters (s : State) (n : Nat) : (s.upTo n).waiters = s.waiters := rfl
@[simp] theorem State.upTo_cancels (s : State) (n : Nat) : (s.upTo n).cancels = s.cancels := rfl
@[simp] theorem State.upTo_settled (s : State) (n : Nat) : (s.upTo n).settled = s.settled := rfl
@[simp] theorem State.upTo_barriers (s : State) (n : Nat) : (s.upTo n).barriers = s.barriers := rfl
@[simp] theorem State.upTo_adjTags (s : State) (n : Nat) : (s.upTo n).adjTags = s.adjTags := rfl
@[simp] theorem State.upTo_held (s : State) (n : Nat) : (s.upTo n).held = s.held := rfl
@[simp] theorem State.upTo_bounce (s : State) (n : Nat) : (s.upTo n).bounce = s.bounce := rfl
@[simp] theorem State.upTo_windows (s : State) (n : Nat) : (s.upTo n).windows = s.windows := rfl
@[simp] theorem State.upTo_flits (s : State) (n : Nat) : (s.upTo n).flits = s.flits := rfl
@[simp] theorem State.upTo_dies (s : State) (n : Nat) : (s.upTo n).dies = s.dies := rfl
@[simp] theorem State.upTo_clusters (s : State) (n : Nat) : (s.upTo n).clusters = s.clusters := rfl
@[simp] theorem State.upTo_hub (s : State) (n : Nat) : (s.upTo n).hub = s.hub := rfl
@[simp] theorem State.upTo_fw (s : State) (n : Nat) : (s.upTo n).fw = s.fw := rfl
@[simp] theorem State.upTo_peers (s : State) (n : Nat) : (s.upTo n).peers = s.peers := rfl
@[simp] theorem State.upTo_agenda (s : State) (n : Nat) : (s.upTo n).agenda = s.agenda := rfl
@[simp] theorem State.upTo_cur (s : State) (n : Nat) : (s.upTo n).cur = s.cur := rfl
@[simp] theorem State.upTo_freeCtr (s : State) (n : Nat) : (s.upTo n).freeCtr = s.freeCtr := rfl
@[simp] theorem State.upTo_nextId (s : State) (n : Nat) : (s.upTo n).nextId = s.nextId := rfl

/-! ### modTask and modChan -/

@[simp] theorem State.modTask_now (s : State) (k : Nat) (f : Task → Task) : (s.modTask k f).now = s.now := by unfold State.modTask; split <;> rfl
@[simp] theorem State.modTask_tscBase (s : State) (k : Nat) (f : Task → Task) : (s.modTask k f).tscBase = s.tscBase := by unfold State.modTask; split <;> rfl
@[simp] theorem State.modTask_mem (s : State) (k : Nat) (f : Task → Task) : (s.modTask k f).mem = s.mem := by unfold State.modTask; split <;> rfl
@[simp] theorem State.modTask_poison (s : State) (k : Nat) (f : Task → Task) : (s.modTask k f).poison = s.poison := by unfold State.modTask; split <;> rfl
@[simp] theorem State.modTask_ecc (s : State) (k : Nat) (f : Task → Task) : (s.modTask k f).ecc = s.ecc := by unfold State.modTask; split <;> rfl
@[simp] theorem State.modTask_stamps (s : State) (k : Nat) (f : Task → Task) : (s.modTask k f).stamps = s.stamps := by unfold State.modTask; split <;> rfl
@[simp] theorem State.modTask_writers (s : State) (k : Nat) (f : Task → Task) : (s.modTask k f).writers = s.writers := by unfold State.modTask; split <;> rfl
@[simp] theorem State.modTask_inflight (s : State) (k : Nat) (f : Task → Task) : (s.modTask k f).inflight = s.inflight := by unfold State.modTask; split <;> rfl
@[simp] theorem State.modTask_nmops (s : State) (k : Nat) (f : Task → Task) : (s.modTask k f).nmops = s.nmops := by unfold State.modTask; split <;> rfl
@[simp] theorem State.modTask_net (s : State) (k : Nat) (f : Task → Task) : (s.modTask k f).net = s.net := by unfold State.modTask; split <;> rfl
@[simp] theorem State.modTask_asked (s : State) (k : Nat) (f : Task → Task) : (s.modTask k f).asked = s.asked := by unfold State.modTask; split <;> rfl
@[simp] theorem State.modTask_hostLines (s : State) (k : Nat) (f : Task → Task) : (s.modTask k f).hostLines = s.hostLines := by unfold State.modTask; split <;> rfl
@[simp] theorem State.modTask_snoops (s : State) (k : Nat) (f : Task → Task) : (s.modTask k f).snoops = s.snoops := by unfold State.modTask; split <;> rfl
@[simp] theorem State.modTask_waiters (s : State) (k : Nat) (f : Task → Task) : (s.modTask k f).waiters = s.waiters := by unfold State.modTask; split <;> rfl
@[simp] theorem State.modTask_cancels (s : State) (k : Nat) (f : Task → Task) : (s.modTask k f).cancels = s.cancels := by unfold State.modTask; split <;> rfl
@[simp] theorem State.modTask_settled (s : State) (k : Nat) (f : Task → Task) : (s.modTask k f).settled = s.settled := by unfold State.modTask; split <;> rfl
@[simp] theorem State.modTask_barriers (s : State) (k : Nat) (f : Task → Task) : (s.modTask k f).barriers = s.barriers := by unfold State.modTask; split <;> rfl
@[simp] theorem State.modTask_adjTags (s : State) (k : Nat) (f : Task → Task) : (s.modTask k f).adjTags = s.adjTags := by unfold State.modTask; split <;> rfl
@[simp] theorem State.modTask_held (s : State) (k : Nat) (f : Task → Task) : (s.modTask k f).held = s.held := by unfold State.modTask; split <;> rfl
@[simp] theorem State.modTask_bounce (s : State) (k : Nat) (f : Task → Task) : (s.modTask k f).bounce = s.bounce := by unfold State.modTask; split <;> rfl
@[simp] theorem State.modTask_windows (s : State) (k : Nat) (f : Task → Task) : (s.modTask k f).windows = s.windows := by unfold State.modTask; split <;> rfl
@[simp] theorem State.modTask_flits (s : State) (k : Nat) (f : Task → Task) : (s.modTask k f).flits = s.flits := by unfold State.modTask; split <;> rfl
@[simp] theorem State.modTask_dies (s : State) (k : Nat) (f : Task → Task) : (s.modTask k f).dies = s.dies := by unfold State.modTask; split <;> rfl
@[simp] theorem State.modTask_clusters (s : State) (k : Nat) (f : Task → Task) : (s.modTask k f).clusters = s.clusters := by unfold State.modTask; split <;> rfl
@[simp] theorem State.modTask_hub (s : State) (k : Nat) (f : Task → Task) : (s.modTask k f).hub = s.hub := by unfold State.modTask; split <;> rfl
@[simp] theorem State.modTask_peers (s : State) (k : Nat) (f : Task → Task) : (s.modTask k f).peers = s.peers := by unfold State.modTask; split <;> rfl
@[simp] theorem State.modTask_agenda (s : State) (k : Nat) (f : Task → Task) : (s.modTask k f).agenda = s.agenda := by unfold State.modTask; split <;> rfl
@[simp] theorem State.modTask_cur (s : State) (k : Nat) (f : Task → Task) : (s.modTask k f).cur = s.cur := by unfold State.modTask; split <;> rfl
@[simp] theorem State.modTask_freeCtr (s : State) (k : Nat) (f : Task → Task) : (s.modTask k f).freeCtr = s.freeCtr := by unfold State.modTask; split <;> rfl
@[simp] theorem State.modTask_nextId (s : State) (k : Nat) (f : Task → Task) : (s.modTask k f).nextId = s.nextId := by unfold State.modTask; split <;> rfl

/-! ### tick -/

@[simp] theorem State.tick_tscBase (s : State) (cl : Nat) : (s.tick cl).tscBase = s.tscBase := rfl
@[simp] theorem State.tick_mem (s : State) (cl : Nat) : (s.tick cl).mem = s.mem := rfl
@[simp] theorem State.tick_poison (s : State) (cl : Nat) : (s.tick cl).poison = s.poison := rfl
@[simp] theorem State.tick_ecc (s : State) (cl : Nat) : (s.tick cl).ecc = s.ecc := rfl
@[simp] theorem State.tick_stamps (s : State) (cl : Nat) : (s.tick cl).stamps = s.stamps := rfl
@[simp] theorem State.tick_writers (s : State) (cl : Nat) : (s.tick cl).writers = s.writers := rfl
@[simp] theorem State.tick_inflight (s : State) (cl : Nat) : (s.tick cl).inflight = s.inflight := rfl
@[simp] theorem State.tick_nmops (s : State) (cl : Nat) : (s.tick cl).nmops = s.nmops := rfl
@[simp] theorem State.tick_net (s : State) (cl : Nat) : (s.tick cl).net = s.net := rfl
@[simp] theorem State.tick_asked (s : State) (cl : Nat) : (s.tick cl).asked = s.asked := rfl
@[simp] theorem State.tick_hostLines (s : State) (cl : Nat) : (s.tick cl).hostLines = s.hostLines := rfl
@[simp] theorem State.tick_snoops (s : State) (cl : Nat) : (s.tick cl).snoops = s.snoops := rfl
@[simp] theorem State.tick_waiters (s : State) (cl : Nat) : (s.tick cl).waiters = s.waiters := rfl
@[simp] theorem State.tick_cancels (s : State) (cl : Nat) : (s.tick cl).cancels = s.cancels := rfl
@[simp] theorem State.tick_settled (s : State) (cl : Nat) : (s.tick cl).settled = s.settled := rfl
@[simp] theorem State.tick_barriers (s : State) (cl : Nat) : (s.tick cl).barriers = s.barriers := rfl
@[simp] theorem State.tick_adjTags (s : State) (cl : Nat) : (s.tick cl).adjTags = s.adjTags := rfl
@[simp] theorem State.tick_held (s : State) (cl : Nat) : (s.tick cl).held = s.held := rfl
@[simp] theorem State.tick_bounce (s : State) (cl : Nat) : (s.tick cl).bounce = s.bounce := rfl
@[simp] theorem State.tick_windows (s : State) (cl : Nat) : (s.tick cl).windows = s.windows := rfl
@[simp] theorem State.tick_flits (s : State) (cl : Nat) : (s.tick cl).flits = s.flits := rfl
@[simp] theorem State.tick_dies (s : State) (cl : Nat) : (s.tick cl).dies = s.dies := rfl
@[simp] theorem State.tick_hub (s : State) (cl : Nat) : (s.tick cl).hub = s.hub := rfl
@[simp] theorem State.tick_fw (s : State) (cl : Nat) : (s.tick cl).fw = s.fw := rfl
@[simp] theorem State.tick_peers (s : State) (cl : Nat) : (s.tick cl).peers = s.peers := rfl
@[simp] theorem State.tick_agenda (s : State) (cl : Nat) : (s.tick cl).agenda = s.agenda := rfl
@[simp] theorem State.tick_cur (s : State) (cl : Nat) : (s.tick cl).cur = s.cur := rfl
@[simp] theorem State.tick_freeCtr (s : State) (cl : Nat) : (s.tick cl).freeCtr = s.freeCtr := rfl
@[simp] theorem State.tick_nextId (s : State) (cl : Nat) : (s.tick cl).nextId = s.nextId := rfl

/-! ## Fields of a cluster -/

/-! ### setCe -/

@[simp] theorem Cluster.setCe_cfg (c : Cluster) (n : Nat) (x : Ce) : (c.setCe n x).cfg = c.cfg := rfl
@[simp] theorem Cluster.setCe_pending (c : Cluster) (n : Nat) (x : Ce) : (c.setCe n x).pending = c.pending := rfl
@[simp] theorem Cluster.setCe_report (c : Cluster) (n : Nat) (x : Ce) : (c.setCe n x).report = c.report := rfl
@[simp] theorem Cluster.setCe_agMode (c : Cluster) (n : Nat) (x : Ce) : (c.setCe n x).agMode = c.agMode := rfl
@[simp] theorem Cluster.setCe_owner (c : Cluster) (n : Nat) (x : Ce) : (c.setCe n x).owner = c.owner := rfl
@[simp] theorem Cluster.setCe_widDie (c : Cluster) (n : Nat) (x : Ce) : (c.setCe n x).widDie = c.widDie := rfl
@[simp] theorem Cluster.setCe_widMacro (c : Cluster) (n : Nat) (x : Ce) : (c.setCe n x).widMacro = c.widMacro := rfl
@[simp] theorem Cluster.setCe_widCluster (c : Cluster) (n : Nat) (x : Ce) : (c.setCe n x).widCluster = c.widCluster := rfl
@[simp] theorem Cluster.setCe_chans (c : Cluster) (n : Nat) (x : Ce) : (c.setCe n x).chans = c.chans := rfl
@[simp] theorem Cluster.setCe_ags (c : Cluster) (n : Nat) (x : Ce) : (c.setCe n x).ags = c.ags := rfl
@[simp] theorem Cluster.setCe_tokens (c : Cluster) (n : Nat) (x : Ce) : (c.setCe n x).tokens = c.tokens := rfl
@[simp] theorem Cluster.setCe_handoffs (c : Cluster) (n : Nat) (x : Ce) : (c.setCe n x).handoffs = c.handoffs := rfl
@[simp] theorem Cluster.setCe_spad (c : Cluster) (n : Nat) (x : Ce) : (c.setCe n x).spad = c.spad := rfl
@[simp] theorem Cluster.setCe_lastGrant (c : Cluster) (n : Nat) (x : Ce) : (c.setCe n x).lastGrant = c.lastGrant := rfl
@[simp] theorem Cluster.setCe_wants (c : Cluster) (n : Nat) (x : Ce) : (c.setCe n x).wants = c.wants := rfl
@[simp] theorem Cluster.setCe_board (c : Cluster) (n : Nat) (x : Ce) : (c.setCe n x).board = c.board := rfl
@[simp] theorem Cluster.setCe_starts (c : Cluster) (n : Nat) (x : Ce) : (c.setCe n x).starts = c.starts := rfl
@[simp] theorem Cluster.setCe_looping (c : Cluster) (n : Nat) (x : Ce) : (c.setCe n x).looping = c.looping := rfl
@[simp] theorem Cluster.setCe_ctlFly (c : Cluster) (n : Nat) (x : Ce) : (c.setCe n x).ctlFly = c.ctlFly := rfl
@[simp] theorem Cluster.setCe_mx (c : Cluster) (n : Nat) (x : Ce) : (c.setCe n x).mx = c.mx := rfl
@[simp] theorem Cluster.setCe_claims (c : Cluster) (n : Nat) (x : Ce) : (c.setCe n x).claims = c.claims := rfl
@[simp] theorem Cluster.setCe_poolBlocks (c : Cluster) (n : Nat) (x : Ce) : (c.setCe n x).poolBlocks = c.poolBlocks := rfl
@[simp] theorem Cluster.setCe_queues (c : Cluster) (n : Nat) (x : Ce) : (c.setCe n x).queues = c.queues := rfl
@[simp] theorem Cluster.setCe_portq (c : Cluster) (n : Nat) (x : Ce) : (c.setCe n x).portq = c.portq := rfl
@[simp] theorem Cluster.setCe_portEnd (c : Cluster) (n : Nat) (x : Ce) : (c.setCe n x).portEnd = c.portEnd := rfl
@[simp] theorem Cluster.setCe_running (c : Cluster) (n : Nat) (x : Ce) : (c.setCe n x).running = c.running := rfl
@[simp] theorem Cluster.setCe_lastq (c : Cluster) (n : Nat) (x : Ce) : (c.setCe n x).lastq = c.lastq := rfl
@[simp] theorem Cluster.setCe_stopping (c : Cluster) (n : Nat) (x : Ce) : (c.setCe n x).stopping = c.stopping := rfl
@[simp] theorem Cluster.setCe_slots (c : Cluster) (n : Nat) (x : Ce) : (c.setCe n x).slots = c.slots := rfl
@[simp] theorem Cluster.setCe_ctxs (c : Cluster) (n : Nat) (x : Ce) : (c.setCe n x).ctxs = c.ctxs := rfl
@[simp] theorem Cluster.setCe_qbufs (c : Cluster) (n : Nat) (x : Ce) : (c.setCe n x).qbufs = c.qbufs := rfl
@[simp] theorem Cluster.setCe_icache (c : Cluster) (n : Nat) (x : Ce) : (c.setCe n x).icache = c.icache := rfl
@[simp] theorem Cluster.setCe_dmode (c : Cluster) (n : Nat) (x : Ce) : (c.setCe n x).dmode = c.dmode := rfl
@[simp] theorem Cluster.setCe_tapeptr (c : Cluster) (n : Nat) (x : Ce) : (c.setCe n x).tapeptr = c.tapeptr := rfl
@[simp] theorem Cluster.setCe_tapelim (c : Cluster) (n : Nat) (x : Ce) : (c.setCe n x).tapelim = c.tapelim := rfl
@[simp] theorem Cluster.setCe_tapebase (c : Cluster) (n : Nat) (x : Ce) : (c.setCe n x).tapebase = c.tapebase := rfl
@[simp] theorem Cluster.setCe_tapeseq (c : Cluster) (n : Nat) (x : Ce) : (c.setCe n x).tapeseq = c.tapeseq := rfl
@[simp] theorem Cluster.setCe_lscale (c : Cluster) (n : Nat) (x : Ce) : (c.setCe n x).lscale = c.lscale := rfl
@[simp] theorem Cluster.setCe_lpend (c : Cluster) (n : Nat) (x : Ce) : (c.setCe n x).lpend = c.lpend := rfl
@[simp] theorem Cluster.setCe_lsepoch (c : Cluster) (n : Nat) (x : Ce) : (c.setCe n x).lsepoch = c.lsepoch := rfl
@[simp] theorem Cluster.setCe_spill (c : Cluster) (n : Nat) (x : Ce) : (c.setCe n x).spill = c.spill := rfl
@[simp] theorem Cluster.setCe_traps (c : Cluster) (n : Nat) (x : Ce) : (c.setCe n x).traps = c.traps := rfl
@[simp] theorem Cluster.setCe_xfences (c : Cluster) (n : Nat) (x : Ce) : (c.setCe n x).xfences = c.xfences := rfl
@[simp] theorem Cluster.setCe_accSeq (c : Cluster) (n : Nat) (x : Ce) : (c.setCe n x).accSeq = c.accSeq := rfl
@[simp] theorem Cluster.setCe_tileTags (c : Cluster) (n : Nat) (x : Ce) : (c.setCe n x).tileTags = c.tileTags := rfl
@[simp] theorem Cluster.setCe_lastIssue (c : Cluster) (n : Nat) (x : Ce) : (c.setCe n x).lastIssue = c.lastIssue := rfl
@[simp] theorem Cluster.setCe_lastCtx (c : Cluster) (n : Nat) (x : Ce) : (c.setCe n x).lastCtx = c.lastCtx := rfl
@[simp] theorem Cluster.setCe_readBefore (c : Cluster) (n : Nat) (x : Ce) : (c.setCe n x).readBefore = c.readBefore := rfl

/-! ### setAg -/

@[simp] theorem Cluster.setAg_cfg (c : Cluster) (n : Nat) (x : Ag) : (c.setAg n x).cfg = c.cfg := rfl
@[simp] theorem Cluster.setAg_pending (c : Cluster) (n : Nat) (x : Ag) : (c.setAg n x).pending = c.pending := rfl
@[simp] theorem Cluster.setAg_report (c : Cluster) (n : Nat) (x : Ag) : (c.setAg n x).report = c.report := rfl
@[simp] theorem Cluster.setAg_agMode (c : Cluster) (n : Nat) (x : Ag) : (c.setAg n x).agMode = c.agMode := rfl
@[simp] theorem Cluster.setAg_owner (c : Cluster) (n : Nat) (x : Ag) : (c.setAg n x).owner = c.owner := rfl
@[simp] theorem Cluster.setAg_widDie (c : Cluster) (n : Nat) (x : Ag) : (c.setAg n x).widDie = c.widDie := rfl
@[simp] theorem Cluster.setAg_widMacro (c : Cluster) (n : Nat) (x : Ag) : (c.setAg n x).widMacro = c.widMacro := rfl
@[simp] theorem Cluster.setAg_widCluster (c : Cluster) (n : Nat) (x : Ag) : (c.setAg n x).widCluster = c.widCluster := rfl
@[simp] theorem Cluster.setAg_chans (c : Cluster) (n : Nat) (x : Ag) : (c.setAg n x).chans = c.chans := rfl
@[simp] theorem Cluster.setAg_ces (c : Cluster) (n : Nat) (x : Ag) : (c.setAg n x).ces = c.ces := rfl
@[simp] theorem Cluster.setAg_tokens (c : Cluster) (n : Nat) (x : Ag) : (c.setAg n x).tokens = c.tokens := rfl
@[simp] theorem Cluster.setAg_handoffs (c : Cluster) (n : Nat) (x : Ag) : (c.setAg n x).handoffs = c.handoffs := rfl
@[simp] theorem Cluster.setAg_spad (c : Cluster) (n : Nat) (x : Ag) : (c.setAg n x).spad = c.spad := rfl
@[simp] theorem Cluster.setAg_lastGrant (c : Cluster) (n : Nat) (x : Ag) : (c.setAg n x).lastGrant = c.lastGrant := rfl
@[simp] theorem Cluster.setAg_wants (c : Cluster) (n : Nat) (x : Ag) : (c.setAg n x).wants = c.wants := rfl
@[simp] theorem Cluster.setAg_board (c : Cluster) (n : Nat) (x : Ag) : (c.setAg n x).board = c.board := rfl
@[simp] theorem Cluster.setAg_starts (c : Cluster) (n : Nat) (x : Ag) : (c.setAg n x).starts = c.starts := rfl
@[simp] theorem Cluster.setAg_looping (c : Cluster) (n : Nat) (x : Ag) : (c.setAg n x).looping = c.looping := rfl
@[simp] theorem Cluster.setAg_ctlFly (c : Cluster) (n : Nat) (x : Ag) : (c.setAg n x).ctlFly = c.ctlFly := rfl
@[simp] theorem Cluster.setAg_mx (c : Cluster) (n : Nat) (x : Ag) : (c.setAg n x).mx = c.mx := rfl
@[simp] theorem Cluster.setAg_claims (c : Cluster) (n : Nat) (x : Ag) : (c.setAg n x).claims = c.claims := rfl
@[simp] theorem Cluster.setAg_poolBlocks (c : Cluster) (n : Nat) (x : Ag) : (c.setAg n x).poolBlocks = c.poolBlocks := rfl
@[simp] theorem Cluster.setAg_queues (c : Cluster) (n : Nat) (x : Ag) : (c.setAg n x).queues = c.queues := rfl
@[simp] theorem Cluster.setAg_portq (c : Cluster) (n : Nat) (x : Ag) : (c.setAg n x).portq = c.portq := rfl
@[simp] theorem Cluster.setAg_portEnd (c : Cluster) (n : Nat) (x : Ag) : (c.setAg n x).portEnd = c.portEnd := rfl
@[simp] theorem Cluster.setAg_running (c : Cluster) (n : Nat) (x : Ag) : (c.setAg n x).running = c.running := rfl
@[simp] theorem Cluster.setAg_lastq (c : Cluster) (n : Nat) (x : Ag) : (c.setAg n x).lastq = c.lastq := rfl
@[simp] theorem Cluster.setAg_stopping (c : Cluster) (n : Nat) (x : Ag) : (c.setAg n x).stopping = c.stopping := rfl
@[simp] theorem Cluster.setAg_slots (c : Cluster) (n : Nat) (x : Ag) : (c.setAg n x).slots = c.slots := rfl
@[simp] theorem Cluster.setAg_ctxs (c : Cluster) (n : Nat) (x : Ag) : (c.setAg n x).ctxs = c.ctxs := rfl
@[simp] theorem Cluster.setAg_qbufs (c : Cluster) (n : Nat) (x : Ag) : (c.setAg n x).qbufs = c.qbufs := rfl
@[simp] theorem Cluster.setAg_icache (c : Cluster) (n : Nat) (x : Ag) : (c.setAg n x).icache = c.icache := rfl
@[simp] theorem Cluster.setAg_dmode (c : Cluster) (n : Nat) (x : Ag) : (c.setAg n x).dmode = c.dmode := rfl
@[simp] theorem Cluster.setAg_tapeptr (c : Cluster) (n : Nat) (x : Ag) : (c.setAg n x).tapeptr = c.tapeptr := rfl
@[simp] theorem Cluster.setAg_tapelim (c : Cluster) (n : Nat) (x : Ag) : (c.setAg n x).tapelim = c.tapelim := rfl
@[simp] theorem Cluster.setAg_tapebase (c : Cluster) (n : Nat) (x : Ag) : (c.setAg n x).tapebase = c.tapebase := rfl
@[simp] theorem Cluster.setAg_tapeseq (c : Cluster) (n : Nat) (x : Ag) : (c.setAg n x).tapeseq = c.tapeseq := rfl
@[simp] theorem Cluster.setAg_lscale (c : Cluster) (n : Nat) (x : Ag) : (c.setAg n x).lscale = c.lscale := rfl
@[simp] theorem Cluster.setAg_lpend (c : Cluster) (n : Nat) (x : Ag) : (c.setAg n x).lpend = c.lpend := rfl
@[simp] theorem Cluster.setAg_lsepoch (c : Cluster) (n : Nat) (x : Ag) : (c.setAg n x).lsepoch = c.lsepoch := rfl
@[simp] theorem Cluster.setAg_spill (c : Cluster) (n : Nat) (x : Ag) : (c.setAg n x).spill = c.spill := rfl
@[simp] theorem Cluster.setAg_traps (c : Cluster) (n : Nat) (x : Ag) : (c.setAg n x).traps = c.traps := rfl
@[simp] theorem Cluster.setAg_xfences (c : Cluster) (n : Nat) (x : Ag) : (c.setAg n x).xfences = c.xfences := rfl
@[simp] theorem Cluster.setAg_accSeq (c : Cluster) (n : Nat) (x : Ag) : (c.setAg n x).accSeq = c.accSeq := rfl
@[simp] theorem Cluster.setAg_tileTags (c : Cluster) (n : Nat) (x : Ag) : (c.setAg n x).tileTags = c.tileTags := rfl
@[simp] theorem Cluster.setAg_lastIssue (c : Cluster) (n : Nat) (x : Ag) : (c.setAg n x).lastIssue = c.lastIssue := rfl
@[simp] theorem Cluster.setAg_lastCtx (c : Cluster) (n : Nat) (x : Ag) : (c.setAg n x).lastCtx = c.lastCtx := rfl
@[simp] theorem Cluster.setAg_readBefore (c : Cluster) (n : Nat) (x : Ag) : (c.setAg n x).readBefore = c.readBefore := rfl

/-! ### setSlot -/

@[simp] theorem Cluster.setSlot_cfg (c : Cluster) (n : Nat) (x : Slot) : (c.setSlot n x).cfg = c.cfg := rfl
@[simp] theorem Cluster.setSlot_pending (c : Cluster) (n : Nat) (x : Slot) : (c.setSlot n x).pending = c.pending := rfl
@[simp] theorem Cluster.setSlot_report (c : Cluster) (n : Nat) (x : Slot) : (c.setSlot n x).report = c.report := rfl
@[simp] theorem Cluster.setSlot_agMode (c : Cluster) (n : Nat) (x : Slot) : (c.setSlot n x).agMode = c.agMode := rfl
@[simp] theorem Cluster.setSlot_owner (c : Cluster) (n : Nat) (x : Slot) : (c.setSlot n x).owner = c.owner := rfl
@[simp] theorem Cluster.setSlot_widDie (c : Cluster) (n : Nat) (x : Slot) : (c.setSlot n x).widDie = c.widDie := rfl
@[simp] theorem Cluster.setSlot_widMacro (c : Cluster) (n : Nat) (x : Slot) : (c.setSlot n x).widMacro = c.widMacro := rfl
@[simp] theorem Cluster.setSlot_widCluster (c : Cluster) (n : Nat) (x : Slot) : (c.setSlot n x).widCluster = c.widCluster := rfl
@[simp] theorem Cluster.setSlot_chans (c : Cluster) (n : Nat) (x : Slot) : (c.setSlot n x).chans = c.chans := rfl
@[simp] theorem Cluster.setSlot_ces (c : Cluster) (n : Nat) (x : Slot) : (c.setSlot n x).ces = c.ces := rfl
@[simp] theorem Cluster.setSlot_ags (c : Cluster) (n : Nat) (x : Slot) : (c.setSlot n x).ags = c.ags := rfl
@[simp] theorem Cluster.setSlot_tokens (c : Cluster) (n : Nat) (x : Slot) : (c.setSlot n x).tokens = c.tokens := rfl
@[simp] theorem Cluster.setSlot_handoffs (c : Cluster) (n : Nat) (x : Slot) : (c.setSlot n x).handoffs = c.handoffs := rfl
@[simp] theorem Cluster.setSlot_spad (c : Cluster) (n : Nat) (x : Slot) : (c.setSlot n x).spad = c.spad := rfl
@[simp] theorem Cluster.setSlot_lastGrant (c : Cluster) (n : Nat) (x : Slot) : (c.setSlot n x).lastGrant = c.lastGrant := rfl
@[simp] theorem Cluster.setSlot_wants (c : Cluster) (n : Nat) (x : Slot) : (c.setSlot n x).wants = c.wants := rfl
@[simp] theorem Cluster.setSlot_board (c : Cluster) (n : Nat) (x : Slot) : (c.setSlot n x).board = c.board := rfl
@[simp] theorem Cluster.setSlot_starts (c : Cluster) (n : Nat) (x : Slot) : (c.setSlot n x).starts = c.starts := rfl
@[simp] theorem Cluster.setSlot_looping (c : Cluster) (n : Nat) (x : Slot) : (c.setSlot n x).looping = c.looping := rfl
@[simp] theorem Cluster.setSlot_ctlFly (c : Cluster) (n : Nat) (x : Slot) : (c.setSlot n x).ctlFly = c.ctlFly := rfl
@[simp] theorem Cluster.setSlot_mx (c : Cluster) (n : Nat) (x : Slot) : (c.setSlot n x).mx = c.mx := rfl
@[simp] theorem Cluster.setSlot_claims (c : Cluster) (n : Nat) (x : Slot) : (c.setSlot n x).claims = c.claims := rfl
@[simp] theorem Cluster.setSlot_poolBlocks (c : Cluster) (n : Nat) (x : Slot) : (c.setSlot n x).poolBlocks = c.poolBlocks := rfl
@[simp] theorem Cluster.setSlot_queues (c : Cluster) (n : Nat) (x : Slot) : (c.setSlot n x).queues = c.queues := rfl
@[simp] theorem Cluster.setSlot_portq (c : Cluster) (n : Nat) (x : Slot) : (c.setSlot n x).portq = c.portq := rfl
@[simp] theorem Cluster.setSlot_portEnd (c : Cluster) (n : Nat) (x : Slot) : (c.setSlot n x).portEnd = c.portEnd := rfl
@[simp] theorem Cluster.setSlot_running (c : Cluster) (n : Nat) (x : Slot) : (c.setSlot n x).running = c.running := rfl
@[simp] theorem Cluster.setSlot_lastq (c : Cluster) (n : Nat) (x : Slot) : (c.setSlot n x).lastq = c.lastq := rfl
@[simp] theorem Cluster.setSlot_stopping (c : Cluster) (n : Nat) (x : Slot) : (c.setSlot n x).stopping = c.stopping := rfl
@[simp] theorem Cluster.setSlot_ctxs (c : Cluster) (n : Nat) (x : Slot) : (c.setSlot n x).ctxs = c.ctxs := rfl
@[simp] theorem Cluster.setSlot_qbufs (c : Cluster) (n : Nat) (x : Slot) : (c.setSlot n x).qbufs = c.qbufs := rfl
@[simp] theorem Cluster.setSlot_icache (c : Cluster) (n : Nat) (x : Slot) : (c.setSlot n x).icache = c.icache := rfl
@[simp] theorem Cluster.setSlot_dmode (c : Cluster) (n : Nat) (x : Slot) : (c.setSlot n x).dmode = c.dmode := rfl
@[simp] theorem Cluster.setSlot_tapeptr (c : Cluster) (n : Nat) (x : Slot) : (c.setSlot n x).tapeptr = c.tapeptr := rfl
@[simp] theorem Cluster.setSlot_tapelim (c : Cluster) (n : Nat) (x : Slot) : (c.setSlot n x).tapelim = c.tapelim := rfl
@[simp] theorem Cluster.setSlot_tapebase (c : Cluster) (n : Nat) (x : Slot) : (c.setSlot n x).tapebase = c.tapebase := rfl
@[simp] theorem Cluster.setSlot_tapeseq (c : Cluster) (n : Nat) (x : Slot) : (c.setSlot n x).tapeseq = c.tapeseq := rfl
@[simp] theorem Cluster.setSlot_lscale (c : Cluster) (n : Nat) (x : Slot) : (c.setSlot n x).lscale = c.lscale := rfl
@[simp] theorem Cluster.setSlot_lpend (c : Cluster) (n : Nat) (x : Slot) : (c.setSlot n x).lpend = c.lpend := rfl
@[simp] theorem Cluster.setSlot_lsepoch (c : Cluster) (n : Nat) (x : Slot) : (c.setSlot n x).lsepoch = c.lsepoch := rfl
@[simp] theorem Cluster.setSlot_spill (c : Cluster) (n : Nat) (x : Slot) : (c.setSlot n x).spill = c.spill := rfl
@[simp] theorem Cluster.setSlot_traps (c : Cluster) (n : Nat) (x : Slot) : (c.setSlot n x).traps = c.traps := rfl
@[simp] theorem Cluster.setSlot_xfences (c : Cluster) (n : Nat) (x : Slot) : (c.setSlot n x).xfences = c.xfences := rfl
@[simp] theorem Cluster.setSlot_accSeq (c : Cluster) (n : Nat) (x : Slot) : (c.setSlot n x).accSeq = c.accSeq := rfl
@[simp] theorem Cluster.setSlot_tileTags (c : Cluster) (n : Nat) (x : Slot) : (c.setSlot n x).tileTags = c.tileTags := rfl
@[simp] theorem Cluster.setSlot_lastIssue (c : Cluster) (n : Nat) (x : Slot) : (c.setSlot n x).lastIssue = c.lastIssue := rfl
@[simp] theorem Cluster.setSlot_lastCtx (c : Cluster) (n : Nat) (x : Slot) : (c.setSlot n x).lastCtx = c.lastCtx := rfl
@[simp] theorem Cluster.setSlot_readBefore (c : Cluster) (n : Nat) (x : Slot) : (c.setSlot n x).readBefore = c.readBefore := rfl

/-! ### setChan -/

@[simp] theorem Cluster.setChan_cfg (c : Cluster) (n : Nat) (x : Chan) : (c.setChan n x).cfg = c.cfg := rfl
@[simp] theorem Cluster.setChan_pending (c : Cluster) (n : Nat) (x : Chan) : (c.setChan n x).pending = c.pending := rfl
@[simp] theorem Cluster.setChan_report (c : Cluster) (n : Nat) (x : Chan) : (c.setChan n x).report = c.report := rfl
@[simp] theorem Cluster.setChan_agMode (c : Cluster) (n : Nat) (x : Chan) : (c.setChan n x).agMode = c.agMode := rfl
@[simp] theorem Cluster.setChan_owner (c : Cluster) (n : Nat) (x : Chan) : (c.setChan n x).owner = c.owner := rfl
@[simp] theorem Cluster.setChan_widDie (c : Cluster) (n : Nat) (x : Chan) : (c.setChan n x).widDie = c.widDie := rfl
@[simp] theorem Cluster.setChan_widMacro (c : Cluster) (n : Nat) (x : Chan) : (c.setChan n x).widMacro = c.widMacro := rfl
@[simp] theorem Cluster.setChan_widCluster (c : Cluster) (n : Nat) (x : Chan) : (c.setChan n x).widCluster = c.widCluster := rfl
@[simp] theorem Cluster.setChan_ces (c : Cluster) (n : Nat) (x : Chan) : (c.setChan n x).ces = c.ces := rfl
@[simp] theorem Cluster.setChan_ags (c : Cluster) (n : Nat) (x : Chan) : (c.setChan n x).ags = c.ags := rfl
@[simp] theorem Cluster.setChan_tokens (c : Cluster) (n : Nat) (x : Chan) : (c.setChan n x).tokens = c.tokens := rfl
@[simp] theorem Cluster.setChan_handoffs (c : Cluster) (n : Nat) (x : Chan) : (c.setChan n x).handoffs = c.handoffs := rfl
@[simp] theorem Cluster.setChan_spad (c : Cluster) (n : Nat) (x : Chan) : (c.setChan n x).spad = c.spad := rfl
@[simp] theorem Cluster.setChan_lastGrant (c : Cluster) (n : Nat) (x : Chan) : (c.setChan n x).lastGrant = c.lastGrant := rfl
@[simp] theorem Cluster.setChan_wants (c : Cluster) (n : Nat) (x : Chan) : (c.setChan n x).wants = c.wants := rfl
@[simp] theorem Cluster.setChan_board (c : Cluster) (n : Nat) (x : Chan) : (c.setChan n x).board = c.board := rfl
@[simp] theorem Cluster.setChan_starts (c : Cluster) (n : Nat) (x : Chan) : (c.setChan n x).starts = c.starts := rfl
@[simp] theorem Cluster.setChan_looping (c : Cluster) (n : Nat) (x : Chan) : (c.setChan n x).looping = c.looping := rfl
@[simp] theorem Cluster.setChan_ctlFly (c : Cluster) (n : Nat) (x : Chan) : (c.setChan n x).ctlFly = c.ctlFly := rfl
@[simp] theorem Cluster.setChan_mx (c : Cluster) (n : Nat) (x : Chan) : (c.setChan n x).mx = c.mx := rfl
@[simp] theorem Cluster.setChan_claims (c : Cluster) (n : Nat) (x : Chan) : (c.setChan n x).claims = c.claims := rfl
@[simp] theorem Cluster.setChan_poolBlocks (c : Cluster) (n : Nat) (x : Chan) : (c.setChan n x).poolBlocks = c.poolBlocks := rfl
@[simp] theorem Cluster.setChan_queues (c : Cluster) (n : Nat) (x : Chan) : (c.setChan n x).queues = c.queues := rfl
@[simp] theorem Cluster.setChan_portq (c : Cluster) (n : Nat) (x : Chan) : (c.setChan n x).portq = c.portq := rfl
@[simp] theorem Cluster.setChan_portEnd (c : Cluster) (n : Nat) (x : Chan) : (c.setChan n x).portEnd = c.portEnd := rfl
@[simp] theorem Cluster.setChan_running (c : Cluster) (n : Nat) (x : Chan) : (c.setChan n x).running = c.running := rfl
@[simp] theorem Cluster.setChan_lastq (c : Cluster) (n : Nat) (x : Chan) : (c.setChan n x).lastq = c.lastq := rfl
@[simp] theorem Cluster.setChan_stopping (c : Cluster) (n : Nat) (x : Chan) : (c.setChan n x).stopping = c.stopping := rfl
@[simp] theorem Cluster.setChan_slots (c : Cluster) (n : Nat) (x : Chan) : (c.setChan n x).slots = c.slots := rfl
@[simp] theorem Cluster.setChan_ctxs (c : Cluster) (n : Nat) (x : Chan) : (c.setChan n x).ctxs = c.ctxs := rfl
@[simp] theorem Cluster.setChan_qbufs (c : Cluster) (n : Nat) (x : Chan) : (c.setChan n x).qbufs = c.qbufs := rfl
@[simp] theorem Cluster.setChan_icache (c : Cluster) (n : Nat) (x : Chan) : (c.setChan n x).icache = c.icache := rfl
@[simp] theorem Cluster.setChan_dmode (c : Cluster) (n : Nat) (x : Chan) : (c.setChan n x).dmode = c.dmode := rfl
@[simp] theorem Cluster.setChan_tapeptr (c : Cluster) (n : Nat) (x : Chan) : (c.setChan n x).tapeptr = c.tapeptr := rfl
@[simp] theorem Cluster.setChan_tapelim (c : Cluster) (n : Nat) (x : Chan) : (c.setChan n x).tapelim = c.tapelim := rfl
@[simp] theorem Cluster.setChan_tapebase (c : Cluster) (n : Nat) (x : Chan) : (c.setChan n x).tapebase = c.tapebase := rfl
@[simp] theorem Cluster.setChan_tapeseq (c : Cluster) (n : Nat) (x : Chan) : (c.setChan n x).tapeseq = c.tapeseq := rfl
@[simp] theorem Cluster.setChan_lscale (c : Cluster) (n : Nat) (x : Chan) : (c.setChan n x).lscale = c.lscale := rfl
@[simp] theorem Cluster.setChan_lpend (c : Cluster) (n : Nat) (x : Chan) : (c.setChan n x).lpend = c.lpend := rfl
@[simp] theorem Cluster.setChan_lsepoch (c : Cluster) (n : Nat) (x : Chan) : (c.setChan n x).lsepoch = c.lsepoch := rfl
@[simp] theorem Cluster.setChan_spill (c : Cluster) (n : Nat) (x : Chan) : (c.setChan n x).spill = c.spill := rfl
@[simp] theorem Cluster.setChan_traps (c : Cluster) (n : Nat) (x : Chan) : (c.setChan n x).traps = c.traps := rfl
@[simp] theorem Cluster.setChan_xfences (c : Cluster) (n : Nat) (x : Chan) : (c.setChan n x).xfences = c.xfences := rfl
@[simp] theorem Cluster.setChan_accSeq (c : Cluster) (n : Nat) (x : Chan) : (c.setChan n x).accSeq = c.accSeq := rfl
@[simp] theorem Cluster.setChan_tileTags (c : Cluster) (n : Nat) (x : Chan) : (c.setChan n x).tileTags = c.tileTags := rfl
@[simp] theorem Cluster.setChan_lastIssue (c : Cluster) (n : Nat) (x : Chan) : (c.setChan n x).lastIssue = c.lastIssue := rfl
@[simp] theorem Cluster.setChan_lastCtx (c : Cluster) (n : Nat) (x : Chan) : (c.setChan n x).lastCtx = c.lastCtx := rfl
@[simp] theorem Cluster.setChan_readBefore (c : Cluster) (n : Nat) (x : Chan) : (c.setChan n x).readBefore = c.readBefore := rfl

/-! ### setQueue -/

@[simp] theorem Cluster.setQueue_cfg (c : Cluster) (n : Nat) (x : List Cmd) : (c.setQueue n x).cfg = c.cfg := rfl
@[simp] theorem Cluster.setQueue_pending (c : Cluster) (n : Nat) (x : List Cmd) : (c.setQueue n x).pending = c.pending := rfl
@[simp] theorem Cluster.setQueue_report (c : Cluster) (n : Nat) (x : List Cmd) : (c.setQueue n x).report = c.report := rfl
@[simp] theorem Cluster.setQueue_agMode (c : Cluster) (n : Nat) (x : List Cmd) : (c.setQueue n x).agMode = c.agMode := rfl
@[simp] theorem Cluster.setQueue_owner (c : Cluster) (n : Nat) (x : List Cmd) : (c.setQueue n x).owner = c.owner := rfl
@[simp] theorem Cluster.setQueue_widDie (c : Cluster) (n : Nat) (x : List Cmd) : (c.setQueue n x).widDie = c.widDie := rfl
@[simp] theorem Cluster.setQueue_widMacro (c : Cluster) (n : Nat) (x : List Cmd) : (c.setQueue n x).widMacro = c.widMacro := rfl
@[simp] theorem Cluster.setQueue_widCluster (c : Cluster) (n : Nat) (x : List Cmd) : (c.setQueue n x).widCluster = c.widCluster := rfl
@[simp] theorem Cluster.setQueue_chans (c : Cluster) (n : Nat) (x : List Cmd) : (c.setQueue n x).chans = c.chans := rfl
@[simp] theorem Cluster.setQueue_ces (c : Cluster) (n : Nat) (x : List Cmd) : (c.setQueue n x).ces = c.ces := rfl
@[simp] theorem Cluster.setQueue_ags (c : Cluster) (n : Nat) (x : List Cmd) : (c.setQueue n x).ags = c.ags := rfl
@[simp] theorem Cluster.setQueue_tokens (c : Cluster) (n : Nat) (x : List Cmd) : (c.setQueue n x).tokens = c.tokens := rfl
@[simp] theorem Cluster.setQueue_handoffs (c : Cluster) (n : Nat) (x : List Cmd) : (c.setQueue n x).handoffs = c.handoffs := rfl
@[simp] theorem Cluster.setQueue_spad (c : Cluster) (n : Nat) (x : List Cmd) : (c.setQueue n x).spad = c.spad := rfl
@[simp] theorem Cluster.setQueue_lastGrant (c : Cluster) (n : Nat) (x : List Cmd) : (c.setQueue n x).lastGrant = c.lastGrant := rfl
@[simp] theorem Cluster.setQueue_wants (c : Cluster) (n : Nat) (x : List Cmd) : (c.setQueue n x).wants = c.wants := rfl
@[simp] theorem Cluster.setQueue_board (c : Cluster) (n : Nat) (x : List Cmd) : (c.setQueue n x).board = c.board := rfl
@[simp] theorem Cluster.setQueue_starts (c : Cluster) (n : Nat) (x : List Cmd) : (c.setQueue n x).starts = c.starts := rfl
@[simp] theorem Cluster.setQueue_looping (c : Cluster) (n : Nat) (x : List Cmd) : (c.setQueue n x).looping = c.looping := rfl
@[simp] theorem Cluster.setQueue_ctlFly (c : Cluster) (n : Nat) (x : List Cmd) : (c.setQueue n x).ctlFly = c.ctlFly := rfl
@[simp] theorem Cluster.setQueue_mx (c : Cluster) (n : Nat) (x : List Cmd) : (c.setQueue n x).mx = c.mx := rfl
@[simp] theorem Cluster.setQueue_claims (c : Cluster) (n : Nat) (x : List Cmd) : (c.setQueue n x).claims = c.claims := rfl
@[simp] theorem Cluster.setQueue_poolBlocks (c : Cluster) (n : Nat) (x : List Cmd) : (c.setQueue n x).poolBlocks = c.poolBlocks := rfl
@[simp] theorem Cluster.setQueue_portq (c : Cluster) (n : Nat) (x : List Cmd) : (c.setQueue n x).portq = c.portq := rfl
@[simp] theorem Cluster.setQueue_portEnd (c : Cluster) (n : Nat) (x : List Cmd) : (c.setQueue n x).portEnd = c.portEnd := rfl
@[simp] theorem Cluster.setQueue_running (c : Cluster) (n : Nat) (x : List Cmd) : (c.setQueue n x).running = c.running := rfl
@[simp] theorem Cluster.setQueue_lastq (c : Cluster) (n : Nat) (x : List Cmd) : (c.setQueue n x).lastq = c.lastq := rfl
@[simp] theorem Cluster.setQueue_stopping (c : Cluster) (n : Nat) (x : List Cmd) : (c.setQueue n x).stopping = c.stopping := rfl
@[simp] theorem Cluster.setQueue_slots (c : Cluster) (n : Nat) (x : List Cmd) : (c.setQueue n x).slots = c.slots := rfl
@[simp] theorem Cluster.setQueue_ctxs (c : Cluster) (n : Nat) (x : List Cmd) : (c.setQueue n x).ctxs = c.ctxs := rfl
@[simp] theorem Cluster.setQueue_qbufs (c : Cluster) (n : Nat) (x : List Cmd) : (c.setQueue n x).qbufs = c.qbufs := rfl
@[simp] theorem Cluster.setQueue_icache (c : Cluster) (n : Nat) (x : List Cmd) : (c.setQueue n x).icache = c.icache := rfl
@[simp] theorem Cluster.setQueue_dmode (c : Cluster) (n : Nat) (x : List Cmd) : (c.setQueue n x).dmode = c.dmode := rfl
@[simp] theorem Cluster.setQueue_tapeptr (c : Cluster) (n : Nat) (x : List Cmd) : (c.setQueue n x).tapeptr = c.tapeptr := rfl
@[simp] theorem Cluster.setQueue_tapelim (c : Cluster) (n : Nat) (x : List Cmd) : (c.setQueue n x).tapelim = c.tapelim := rfl
@[simp] theorem Cluster.setQueue_tapebase (c : Cluster) (n : Nat) (x : List Cmd) : (c.setQueue n x).tapebase = c.tapebase := rfl
@[simp] theorem Cluster.setQueue_tapeseq (c : Cluster) (n : Nat) (x : List Cmd) : (c.setQueue n x).tapeseq = c.tapeseq := rfl
@[simp] theorem Cluster.setQueue_lscale (c : Cluster) (n : Nat) (x : List Cmd) : (c.setQueue n x).lscale = c.lscale := rfl
@[simp] theorem Cluster.setQueue_lpend (c : Cluster) (n : Nat) (x : List Cmd) : (c.setQueue n x).lpend = c.lpend := rfl
@[simp] theorem Cluster.setQueue_lsepoch (c : Cluster) (n : Nat) (x : List Cmd) : (c.setQueue n x).lsepoch = c.lsepoch := rfl
@[simp] theorem Cluster.setQueue_spill (c : Cluster) (n : Nat) (x : List Cmd) : (c.setQueue n x).spill = c.spill := rfl
@[simp] theorem Cluster.setQueue_traps (c : Cluster) (n : Nat) (x : List Cmd) : (c.setQueue n x).traps = c.traps := rfl
@[simp] theorem Cluster.setQueue_xfences (c : Cluster) (n : Nat) (x : List Cmd) : (c.setQueue n x).xfences = c.xfences := rfl
@[simp] theorem Cluster.setQueue_accSeq (c : Cluster) (n : Nat) (x : List Cmd) : (c.setQueue n x).accSeq = c.accSeq := rfl
@[simp] theorem Cluster.setQueue_tileTags (c : Cluster) (n : Nat) (x : List Cmd) : (c.setQueue n x).tileTags = c.tileTags := rfl
@[simp] theorem Cluster.setQueue_lastIssue (c : Cluster) (n : Nat) (x : List Cmd) : (c.setQueue n x).lastIssue = c.lastIssue := rfl
@[simp] theorem Cluster.setQueue_lastCtx (c : Cluster) (n : Nat) (x : List Cmd) : (c.setQueue n x).lastCtx = c.lastCtx := rfl
@[simp] theorem Cluster.setQueue_readBefore (c : Cluster) (n : Nat) (x : List Cmd) : (c.setQueue n x).readBefore = c.readBefore := rfl

/-! ## Units after a change -/

@[simp] theorem State.cluster_setCluster_same (s : State) (cl : Nat) (c : Cluster) : (s.setCluster cl c).cluster cl = c := by
  simp [State.cluster, State.setCluster]

theorem State.cluster_setCluster_other (s : State) (cl k : Nat) (c : Cluster) (h : k ≠ cl) : (s.setCluster cl c).cluster k = s.cluster k := by
  simp [State.cluster, State.setCluster, SMap.get_set_other _ _ _ _ _ h]

@[simp] theorem State.cluster_modCluster_same (s : State) (cl : Nat) (f : Cluster → Cluster) :
    (s.modCluster cl f).cluster cl = f (s.cluster cl) := by simp [State.modCluster]

theorem State.cluster_modCluster_other (s : State) (cl k : Nat) (f : Cluster → Cluster) (h : k ≠ cl) :
    (s.modCluster cl f).cluster k = s.cluster k := by simp [State.modCluster, State.cluster_setCluster_other _ _ _ _ h]

/-- A change that does not touch the clusters. -/
theorem State.cluster_congr {s t : State} (h : t.clusters = s.clusters) (cl : Nat) : t.cluster cl = s.cluster cl := by
  simp [State.cluster, h]

@[simp] theorem State.die_setDie_same (s : State) (d : Nat) (x : Die) : (s.setDie d x).die d = x := by
  simp [State.die, State.setDie]

theorem State.die_setDie_other (s : State) (d k : Nat) (x : Die) (h : k ≠ d) : (s.setDie d x).die k = s.die k := by
  simp [State.die, State.setDie, SMap.get_set_other _ _ _ _ _ h]

@[simp] theorem State.die_modDie_same (s : State) (d : Nat) (f : Die → Die) : (s.modDie d f).die d = f (s.die d) := by
  simp [State.modDie]

theorem State.die_modDie_other (s : State) (d k : Nat) (f : Die → Die) (h : k ≠ d) : (s.modDie d f).die k = s.die k := by
  simp [State.modDie, State.die_setDie_other _ _ _ _ h]

@[simp] theorem State.task_setTask_same (s : State) (k : Nat) (x : Task) : (s.setTask k x).task k = some x := by
  simp [State.task, State.setTask]

theorem State.task_setTask_other (s : State) (k j : Nat) (x : Task) (h : j ≠ k) : (s.setTask k x).task j = s.task j := by
  simp [State.task, State.setTask, SMap.find_set_other _ _ _ _ h]

theorem State.task_modTask_same (s : State) (k : Nat) (f : Task → Task) (x : Task) (h : s.task k = some x) :
    (s.modTask k f).task k = some (f x) := by simp [State.modTask, h]

@[simp] theorem State.task_setCluster (s : State) (cl k : Nat) (c : Cluster) : (s.setCluster cl c).task k = s.task k := rfl

@[simp] theorem State.task_modCluster (s : State) (cl k : Nat) (f : Cluster → Cluster) : (s.modCluster cl f).task k = s.task k := rfl

@[simp] theorem State.firing_setFiring_same (s : State) (cl ctx : Nat) (f : Firing) : (s.setFiring cl ctx f).firing cl ctx = some f := by
  simp [State.firing, State.setFiring]

theorem State.firing_setFiring_other (s : State) (cl ctx k : Nat) (f : Firing) (h : k ≠ ctx) :
    (s.setFiring cl ctx f).firing cl k = s.firing cl k := by
  simp [State.firing, State.setFiring, SMap.find_set_other _ _ _ _ h]

@[simp] theorem State.firing_delFiring_same (s : State) (cl ctx : Nat) : (s.delFiring cl ctx).firing cl ctx = none := by
  simp [State.firing, State.delFiring]

@[simp] theorem State.cluster_setFiring_same (s : State) (cl ctx : Nat) (f : Firing) :
    (s.setFiring cl ctx f).cluster cl = { s.cluster cl with ctxs := SMap.set (s.cluster cl).ctxs ctx f } := by
  simp [State.setFiring]

theorem State.cluster_setFiring_other (s : State) (cl ctx k : Nat) (f : Firing) (h : k ≠ cl) :
    (s.setFiring cl ctx f).cluster k = s.cluster k := State.cluster_modCluster_other _ _ _ _ h

@[simp] theorem Cluster.ce_setCe_same (c : Cluster) (n : Nat) (x : Ce) : (c.setCe n x).ce n = x := by
  simp [Cluster.ce, Cluster.setCe]

theorem Cluster.ce_setCe_other (c : Cluster) (n k : Nat) (x : Ce) (h : k ≠ n) : (c.setCe n x).ce k = c.ce k := by
  simp [Cluster.ce, Cluster.setCe, SMap.get_set_other _ _ _ _ _ h]

@[simp] theorem Cluster.ag_setAg_same (c : Cluster) (n : Nat) (x : Ag) : (c.setAg n x).ag n = x := by
  simp [Cluster.ag, Cluster.setAg]

theorem Cluster.ag_setAg_other (c : Cluster) (n k : Nat) (x : Ag) (h : k ≠ n) : (c.setAg n x).ag k = c.ag k := by
  simp [Cluster.ag, Cluster.setAg, SMap.get_set_other _ _ _ _ _ h]

@[simp] theorem Cluster.slot_setSlot_same (c : Cluster) (n : Nat) (x : Slot) : (c.setSlot n x).slot n = x := by
  simp [Cluster.slot, Cluster.setSlot]

theorem Cluster.slot_setSlot_other (c : Cluster) (n k : Nat) (x : Slot) (h : k ≠ n) : (c.setSlot n x).slot k = c.slot k := by
  simp [Cluster.slot, Cluster.setSlot, SMap.get_set_other _ _ _ _ _ h]

@[simp] theorem Cluster.chan_setChan_same (c : Cluster) (n : Nat) (x : Chan) : (c.setChan n x).chan n = some x := by
  simp [Cluster.chan, Cluster.setChan]

theorem Cluster.chan_setChan_other (c : Cluster) (n k : Nat) (x : Chan) (h : k ≠ n) : (c.setChan n x).chan k = c.chan k := by
  simp [Cluster.chan, Cluster.setChan, SMap.find_set_other _ _ _ _ h]

@[simp] theorem Cluster.queue_setQueue_same (c : Cluster) (n : Nat) (l : List Cmd) : (c.setQueue n l).queue n = l := by
  simp [Cluster.queue, Cluster.setQueue]

end Sys2Proof.Machine
end

