-- ==== Sys2Proof/Laws/Ops.lean ====
section
/-! SUPPORT. What the shared operations can do, said once: binding, registers, running one instruction, and which of them leave
memory as it was or keep its canonical form. -/

namespace Sys2Proof.Machine

/-! ## Binding -/

@[simp] theorem Res.bind_ok {α β : Type} (a : α) (s : State) (f : α → State → Res β) : (Res.ok a s).bind f = f a s := rfl
@[simp] theorem Res.bind_stall {α β : Type} (f : α → State → Res β) : (Res.stall : Res α).bind f = .stall := rfl
@[simp] theorem Res.bind_stallIn {α β : Type} (s : State) (f : α → State → Res β) : (Res.stallIn s : Res α).bind f = .stallIn s := rfl
@[simp] theorem Res.bind_trap {α β : Type} (t : TrapInfo) (f : α → State → Res β) : (Res.trap t : Res α).bind f = .trap t := rfl
@[simp] theorem Res.bind_kill {α β : Type} (c : Cause) (f : α → State → Res β) : (Res.kill c : Res α).bind f = .kill c := rfl
@[simp] theorem Res.bind_cut {α β : Type} (n : Nat) (f : α → State → Res β) : (Res.cut n : Res α).bind f = .cut n := rfl
@[simp] theorem Res.bind_abort {α β : Type} (c : Cause) (f : α → State → Res β) : (Res.abort c : Res α).bind f = .abort c := rfl

/-- A bind that answers has a first part that answers. -/
theorem Res.bind_eq_ok {α β : Type} {r : Res α} {f : α → State → Res β} {b : β} {t : State} (h : r.bind f = .ok b t) :
    ∃ a s, r = .ok a s ∧ f a s = .ok b t := by
  cases r with
  | ok a s => exact ⟨a, s, rfl, h⟩
  | _ => simp at h

/-! ## One instruction -/

/-- The instruction of a firing that may issue has the outcome of its body. -/
theorem instr_of_issues {s s1 : State} {cl ctx : Nat} {f : Firing} (len : Nat) (body : Nat → Nat → State → Res Next)
    (h : Issues s cl ctx f s1) : instr len body s = .next (settle cl ctx len s1 (body cl ctx s1)) := by
  obtain ⟨hc, hf, hr, rfl⟩ := h
  have h1 : s.cur.1 = cl := by rw [hc]
  have h2 : s.cur.2 = ctx := by rw [hc]
  simp only [instr, h1, h2, hf, hr, if_true]

/-- Without a firing that may issue, an instruction is the one fault. -/
theorem instr_cases (len : Nat) (body : Nat → Nat → State → Res Next) (s : State) :
    (∃ f, Issues s s.cur.1 s.cur.2 f (issueState s s.cur.1 s.cur.2) ∧
      instr len body s = .next (settle s.cur.1 s.cur.2 len (issueState s s.cur.1 s.cur.2) (body s.cur.1 s.cur.2 (issueState s s.cur.1 s.cur.2)))) ∨
    instr len body s = .fault .noFiring := by
  unfold instr
  split
  · exact .inr rfl
  · rename_i f hf
    split
    · rename_i hr; exact .inl ⟨f, ⟨rfl, hf, hr, rfl⟩, rfl⟩
    · exact .inr rfl

@[simp] theorem settle_seq (cl ctx len : Nat) (s s1 : State) : settle cl ctx len s (.ok .seq s1) = s1.past cl ctx len := by
  simp only [settle, State.past, State.pcTo, pcOf]
  cases h : s1.firing cl ctx <;> simp

@[simp] theorem settle_goto (cl ctx len : Nat) (s s1 : State) (t : Word) : settle cl ctx len s (.ok (.goto t) s1) = s1.jumpTo cl ctx t := rfl
@[simp] theorem settle_gone (cl ctx len : Nat) (s s1 : State) : settle cl ctx len s (.ok .gone s1) = s1 := rfl
@[simp] theorem settle_stall (cl ctx len : Nat) (s : State) : settle cl ctx len s .stall = blocked s cl ctx := rfl
@[simp] theorem settle_stallIn (cl ctx len : Nat) (s s1 : State) : settle cl ctx len s (.stallIn s1) = blocked s1 cl ctx := rfl
@[simp] theorem settle_trap (cl ctx len : Nat) (s : State) (t : TrapInfo) :
    settle cl ctx len s (.trap t) = takeTrap s cl ctx t (pcOf cl ctx s) := rfl
@[simp] theorem settle_cut (cl ctx len : Nat) (s : State) (n : Nat) : settle cl ctx len s (.cut n) =
    takeTrap (s.upTo n) cl ctx (trapOf Cause.seqBudget 0#64) (pcOf cl ctx s) := rfl
@[simp] theorem settle_kill (cl ctx len : Nat) (s : State) (c : Cause) : settle cl ctx len s (.kill c) = killAt s cl ctx c := rfl

/-- Issuing keeps the firing but for the cycle its budget runs from, and for what a load kept. -/
theorem firing_issueState {s : State} {cl ctx : Nat} {f : Firing} (h : s.firing cl ctx = some f) :
    ∃ n, (issueState s cl ctx).firing cl ctx = some { f with started := some n, back := none } := by
  have ht : (({ s with asked := none }.tick cl).modCluster cl (fun c => { c with lastCtx := ctx })).firing cl ctx = some f := by
    simpa [State.tick, State.firing, State.cluster, State.modCluster, State.setCluster] using h
  unfold issueState
  simp only [ht]
  exact ⟨_, State.firing_setFiring_same ..⟩

/-- Issuing changes no cluster but its own, and of that one the contexts, the last issue slot and the context it went to alone. -/
theorem cluster_issueState (s : State) (cl ctx : Nat) :
    ∃ m n, (issueState s cl ctx).cluster cl = { s.cluster cl with ctxs := m, lastIssue := n, lastCtx := ctx } := by
  have ht : (({ s with asked := none }.tick cl).modCluster cl (fun c => { c with lastCtx := ctx })).cluster cl =
      { s.cluster cl with lastIssue := ({ s with asked := none }.tick cl).now, lastCtx := ctx } := by
    simp [State.tick, State.cluster, State.modCluster, State.setCluster]
  simp only [issueState]
  split
  · exact ⟨_, _, by rw [State.cluster_setFiring_same, ht]⟩
  · exact ⟨_, _, ht⟩

/-! ## Registers (R74, R97) -/

/-- A read of a register answers in the state as it was, or with the oldest flit of a queue taken. -/
theorem rd_cases {cl ctx : Nat} {r : Reg} {s t : State} {v : Word} (h : rd cl ctx r s = .ok v t) :
    t = s ∨ ∃ k rest, SMap.get (s.cluster cl).qbufs [] k = v :: rest ∧
      t = s.modCluster cl (fun c => { c with qbufs := SMap.set c.qbufs k rest }) := by
  unfold rd at h
  split at h
  · simp at h
  · rename_i f hf
    dsimp only at h
    split at h
    · cases h; exact .inl rfl
    · split at h
      · cases h; exact .inl rfl
      · split at h
        · cases h; exact .inl rfl
        · split at h
          · unfold readQ at h
            split at h
            · simp at h
            · split at h
              · simp at h
              · rename_i hq; cases h; exact .inr ⟨_, _, hq, rfl⟩
          · split at h
            · cases h; exact .inl rfl
            · simp at h

/-- A read of a register changes nothing but receive buffers. -/
theorem rd_mem {cl ctx : Nat} {r : Reg} {s t : State} {v : Word} (h : rd cl ctx r s = .ok v t) : t.mem = s.mem := by
  rcases rd_cases h with rfl | ⟨_, _, _, rfl⟩ <;> rfl

/-- A read of a register keeps every firing. -/
theorem rd_firing {cl ctx : Nat} {r : Reg} {s t : State} {v : Word} (h : rd cl ctx r s = .ok v t) (k j : Nat) :
    t.firing k j = s.firing k j := by
  rcases rd_cases h with rfl | ⟨q, rest, _, rfl⟩
  · rfl
  · by_cases hk : k = cl
    · subst hk; simp [State.firing]
    · simp [State.firing, State.cluster_modCluster_other _ _ _ _ hk]

/-- A write of a register changes the firing's registers, its slot's, or sends a flit. -/
theorem wr_cases {cl ctx : Nat} {r : Reg} {v : Word} {s t : State} (h : wr cl ctx r v s = .ok () t) :
    t = s ∨ (∃ f, s.firing cl ctx = some f ∧ (t = s.setFiring cl ctx { f with s := f.s.setIfInBounds r.toNat v } ∨
      t = s.setFiring cl ctx { f with sp := v } ∨
      t = s.modCluster cl (fun c => c.setSlot f.slot { c.slot f.slot with k := (c.slot f.slot).k.setIfInBounds (r.toNat - 32) v }))) ∨
    (∃ fl, t = { s with flits := s.flits ++ [fl] }) := by
  unfold wr at h
  split at h
  · simp at h
  · rename_i f hf
    dsimp only at h
    split at h
    · cases h; exact .inl rfl
    · split at h
      · cases h; exact .inr (.inl ⟨f, hf, .inl rfl⟩)
      · split at h
        · cases h; exact .inr (.inl ⟨f, hf, .inr (.inr rfl)⟩)
        · split at h
          · unfold writeQ at h
            split at h
            · simp at h
            · split at h
              · cases h; exact .inr (.inr ⟨_, rfl⟩)
              · simp at h
          · split at h
            · cases h; exact .inr (.inl ⟨f, hf, .inr (.inl rfl)⟩)
            · simp at h

theorem wr_mem {cl ctx : Nat} {r : Reg} {v : Word} {s t : State} (h : wr cl ctx r v s = .ok () t) : t.mem = s.mem := by
  rcases wr_cases h with rfl | ⟨f, _, rfl | rfl | rfl⟩ | ⟨_, rfl⟩ <;> rfl

/-! ## What leaves memory as it was -/

@[simp] theorem mem_issueState (s : State) (cl ctx : Nat) : (issueState s cl ctx).mem = s.mem := by
  simp only [issueState]; split <;> rfl

@[simp] theorem mem_closeBatch (s : State) (die : Nat) : (closeBatch s die).mem = s.mem := rfl

@[simp] theorem mem_joinLines (s : State) (die : Nat) (task : Option Nat) (ls : List Nat) : (joinLines s die task ls).2.mem = s.mem := by
  have h1 : (match (s.die die).batch with
      | some b => if b.since + 32 ≤ s.now ∨ 7 < (joinedLines b.lines ls).length ∨ !b.covers die (s.die die).dVec then closeBatch s die else s
      | none => s).mem = s.mem := by
    split
    · split <;> rfl
    · rfl
  simp only [joinLines]
  split
  · exact h1
  · rw [apply_ite State.mem, mem_closeBatch, ite_self]; exact h1

@[simp] theorem mem_dropRdc (s : State) (die pa : Nat) : (dropRdc s die pa).mem = s.mem := rfl

@[simp] theorem mem_patchRdc (s : State) (die pa : Nat) (bs : List Byte) : (patchRdc s die pa bs).mem = s.mem := by
  unfold patchRdc; split <;> rfl

@[simp] theorem mem_postWrite (cl src : Nat) (cmd ctx : Option Nat) (pa : Nat) (ms : Bool) (bs : List Byte) (s : State) :
    (postWrite cl src cmd ctx pa ms bs s).mem = s.mem := by
  unfold postWrite; dsimp only; split <;> simp

/-- Folding steps that leave memory alone leaves memory alone. -/
theorem mem_foldl {α : Type} (f : State → α → State) (hf : ∀ s a, (f s a).mem = s.mem) (xs : List α) (s : State) :
    (xs.foldl f s).mem = s.mem := by
  induction xs generalizing s with
  | nil => rfl
  | cons x xs ih => rw [List.foldl_cons, ih, hf]

@[simp] theorem mem_dropRdcs (s : State) (die : Nat) (ls : List Nat) : (dropRdcs s die ls).mem = s.mem :=
  mem_foldl _ (fun s l => mem_dropRdc s die l) ls s

@[simp] theorem mem_joinRanges (cl : Nat) (rs : List (Nat × Nat)) (s : State) : (joinRanges cl rs s).2.mem = s.mem := by
  simp [joinRanges]

@[simp] theorem mem_postNm (cl : Nat) (cmd ctx : Option Nat) (pa : Nat) (k : NmKind) (s : State) :
    (postNm cl cmd ctx pa k s).mem = s.mem := by simp [postNm]

@[simp] theorem mem_settleCancel (s : State) (cl id : Nat) : (settleCancel s cl id).mem = s.mem := by
  unfold settleCancel
  split
  · rfl
  · split
    · simp
    · rfl

@[simp] theorem mem_cancelSems (cl : Nat) (c : Cluster) (s : State) : (cancelSems cl c s).mem = s.mem :=
  mem_foldl _ (fun s r => by split; (· split <;> simp); rfl) _ s

@[simp] theorem mem_settle (s : State) (cl id : Nat) : (s.settle cl id).mem = s.mem := rfl

@[simp] theorem mem_settleEnded (s : State) (cl : Nat) : (settleEnded s cl).mem = s.mem :=
  mem_foldl (fun s (r : Run) => s.settle cl r.cmd.id) (fun s r => mem_settle s cl r.cmd.id) _ s

@[simp] theorem mem_l2Unpin (s : State) (id : Nat) : (l2Unpin s id).mem = s.mem := rfl

@[simp] theorem mem_unpinAll (s : State) (cl : Nat) : (unpinAll s cl).mem = s.mem :=
  mem_foldl _ (fun s r => by split <;> simp) _ s

/-! ### The L2 slices, the stamps and the RDC copies -/

@[simp] theorem mem_record (s : State) (b : Nat × Lane) (v : List Lane) (pa n : Nat) : (s.record b v pa n).mem = s.mem := by
  unfold State.record; split <;> rfl

@[simp] theorem mem_learnAt (s : State) (die : Nat) (m : SMap (Nat × Lane)) (k : Nat) : (s.learnAt die m k).mem = s.mem := by
  unfold State.learnAt; split <;> rfl

@[simp] theorem mem_learnFrom (s : State) (die : Nat) (m : SMap (List Lane)) (pa n : Nat) : (s.learnFrom die m pa n).mem = s.mem := rfl

@[simp] theorem mem_learn (s : State) (die pa n : Nat) : (s.learn die pa n).mem = s.mem := by
  unfold State.learn; split <;> simp

@[simp] theorem mem_fillRdc (s : State) (die line : Nat) : (fillRdc s die line).mem = s.mem := rfl

@[simp] theorem mem_l2Touch (s : State) (pa : Nat) (ms w : Bool) : (l2Touch s pa ms w).mem = s.mem := by
  unfold l2Touch; split
  · split <;> rfl
  · rfl

@[simp] theorem mem_l2Drop (s : State) (pa : Nat) : (l2Drop s pa).mem = s.mem := by
  unfold l2Drop; split <;> rfl

@[simp] theorem mem_patchOlder (s : State) (die pa : Nat) (bs : List Byte) : (patchOlder s die pa bs).mem = s.mem :=
  mem_foldl _ (fun s x => by split <;> simp) _ s

@[simp] theorem mem_nmArrive (s : State) (o : NmOp) : (nmArrive s o).mem = s.mem := by
  unfold nmArrive
  dsimp only
  rw [mem_foldl _ (fun s r => mem_record s _ _ _ _), mem_foldl _ (fun s l => mem_l2Drop s _), mem_dropRdcs]

@[simp] theorem mem_nmJoin (cl : Nat) (rs : List (Nat × Nat)) (s : State) : (nmJoin cl rs s).mem = s.mem := by
  unfold nmJoin
  dsimp only
  rw [mem_foldl _ (fun s r => mem_record s _ _ _ _), mem_foldl _ (fun s l => mem_l2Drop s _), mem_joinRanges]

@[simp] theorem mem_poisonBarriers (s : State) (t : Nat) : (poisonBarriers s t).mem = s.mem := rfl

@[simp] theorem mem_endTask (s : State) (t : Nat) (c : Cause) (p : Bool) : (endTask s t c p).mem = s.mem := by
  simp only [endTask, State.modTask_mem, releaseClusters, dropBramble]
  split <;>
    simp only [mem_poisonBarriers, mem_foldl _ (fun s cl => (mem_unpinAll _ cl).trans (mem_cancelSems cl _ s)),
      mem_foldl _ (fun s (x : Saved) => mem_cancelSems x.cl _ s)]

@[simp] theorem mem_killAt (s : State) (cl ctx : Nat) (c : Cause) : (killAt s cl ctx c).mem = s.mem := by
  unfold killAt; split
  · simp [killTask]
  · rfl

@[simp] theorem mem_finishAbort (s : State) (t : Nat) : (finishAbort s t).mem = s.mem := by
  unfold finishAbort; split
  · rfl
  · split <;> simp

@[simp] theorem mem_endWhereItStands (s : State) (cl ctx : Nat) : (endWhereItStands s cl ctx).mem = s.mem := by
  unfold endWhereItStands; split <;> simp

@[simp] theorem mem_abortGang (s : State) (t : Nat) (c : Cause) : (abortGang s t c).mem = s.mem := by
  simp only [abortGang, mem_finishAbort, State.modTask_mem, mem_poisonBarriers]
  exact mem_foldl _ (fun s cl => by rw [mem_unpinAll, State.setCluster_mem, mem_settleEnded]) _ s

@[simp] theorem mem_abortAt (s : State) (cl ctx : Nat) (c : Cause) : (abortAt s cl ctx c).mem = s.mem := by
  unfold abortAt; split <;> simp

@[simp] theorem mem_appendRing (s : State) (t : Nat) (r : TrapRec) : (appendRing s t r).2.mem = s.mem := by
  unfold appendRing; split <;> rfl

@[simp] theorem mem_reported (s : State) (cl ctx : Nat) (f : Firing) (t : TrapInfo) (epc : Word) :
    (reported s cl ctx f t epc).2.mem = s.mem := by
  unfold reported; split <;> simp

/-- Taking a trap changes no byte of memory. -/
@[simp] theorem mem_takeTrap (s : State) (cl ctx : Nat) (t : TrapInfo) (epc : Word) : (takeTrap s cl ctx t epc).mem = s.mem := by
  unfold takeTrap
  split
  · rfl
  · dsimp only
    split
    · simp
    · split
      · simp
      · split <;> simp

@[simp] theorem mem_blocked (s : State) (cl ctx : Nat) : (blocked s cl ctx).mem = s.mem := by
  simp only [blocked, mem_endWhereItStands]; split <;> rfl

@[simp] theorem mem_pcTo (s : State) (cl ctx : Nat) (pc : Word) : (s.pcTo cl ctx pc).mem = s.mem := by
  unfold State.pcTo; split <;> rfl

@[simp] theorem mem_jumpTo (s : State) (cl ctx : Nat) (pc : Word) : (s.jumpTo cl ctx pc).mem = s.mem := by
  unfold State.jumpTo; split <;> rfl

@[simp] theorem mem_slow (s : State) (cl ctx : Nat) (d : Reg) (n : Nat) : (s.slow cl ctx d n).mem = s.mem := by
  unfold State.slow; split
  · split <;> rfl
  · rfl

@[simp] theorem mem_holdNext (s : State) (cl ctx n : Nat) : (s.holdNext cl ctx n).mem = s.mem := by
  unfold State.holdNext; split <;> rfl

@[simp] theorem mem_past (s : State) (cl ctx n : Nat) : (s.past cl ctx n).mem = s.mem := by simp [State.past]

@[simp] theorem mem_refresh (s : State) (cl : Nat) : (refresh s cl).mem = s.mem := rfl

@[simp] theorem mem_modChan (s : State) (cl key : Nat) (f : Chan → Chan) : (s.modChan cl key f).mem = s.mem := rfl

@[simp] theorem mem_takeItems (s : State) (cl key k : Nat) : (takeItems s cl key k).mem = s.mem := by
  unfold takeItems; split
  · rfl
  · dsimp only; split <;> simp

@[simp] theorem mem_enter (s : State) (cl key : Nat) (it : Item) : (s.enter cl key it).mem = s.mem := by
  unfold State.enter; split
  · rfl
  · dsimp only; split <;> rfl

@[simp] theorem mem_sendItem (s : State) (cl port : Nat) (it : Item) : (sendItem s cl port it).mem = s.mem := by
  unfold sendItem
  exact mem_foldl _ (fun s x => by obtain ⟨k, key⟩ := x; dsimp only; split <;> simp) _ s

@[simp] theorem mem_sendItems (s : State) (cl port : Nat) (its : List Item) : (sendItems s cl port its).mem = s.mem :=
  mem_foldl _ (fun s it => mem_sendItem s cl port it) its s

@[simp] theorem mem_discardPhase (s : State) (cl key : Nat) : (discardPhase s cl key).mem = s.mem := by
  simp only [discardPhase]; split <;> simp

/-! ## Translation and leases (R243 to R250) -/

/-- A translation fills walk caches of its die, and does nothing else. -/
theorem translate_state {s : State} {die root va : Nat} {w : Bool} {x : Xlated} (h : translate s die root va w = .ok x) :
    x.s = s ∨ ∃ ls ps, x.s = s.setDie die { s.die die with leafs := ls, ptrs := ps } := by
  simp only [translate] at h
  split at h
  · simp at h
  · split at h
    · split at h
      · simp at h
      · split at h
        · simp at h
        · cases h; exact .inl rfl
    · split at h
      · simp at h
      · split at h
        · simp at h
        · split at h
          · simp at h
          · cases h; exact .inr ⟨_, _, rfl⟩

/-- An access that is allowed has filled walk caches, and done nothing else. -/
theorem sqAddress_state {cl va n : Nat} {w : Bool} {s t : State} {p : Nat × Bool} (h : sqAddress cl va n w s = .ok p t) :
    t = s ∨ ∃ ls ps, t = s.setDie (dieOf cl) { s.die (dieOf cl) with leafs := ls, ptrs := ps } := by
  unfold sqAddress at h
  split at h
  · simp at h
  · split at h
    · simp only [XFault.res] at h; split at h <;> simp at h
    · rename_i x hx
      split at h
      · simp at h
      · split at h
        · simp at h
        · cases h; exact translate_state hx

/-! ## What keeps the canonical form of memory -/

theorem wf_applyReq {s : State} (r : MemReq) (h : s.mem.wf = true) : (applyReq s r).mem.wf = true := by
  have h0 : (if regionOf r.pa = 3 then dropOthers s (dieOf r.cl) (r.pa / 128) else s).mem = s.mem := by split <;> rfl
  simp only [applyReq, mem_patchOlder, mem_l2Touch]
  split
  · rw [mem_record, h0]; exact Memory.wf_writeBytes _ _ h
  · rw [h0]; exact Memory.wf_writeBytes _ _ h

/-- Folding steps that keep the canonical form keeps it. -/
theorem wf_foldl {α : Type} (f : State → α → State) (hf : ∀ s a, s.mem.wf = true → (f s a).mem.wf = true) (xs : List α) (s : State)
    (h : s.mem.wf = true) : (xs.foldl f s).mem.wf = true := by
  induction xs generalizing s with
  | nil => exact h
  | cons x xs ih => exact ih _ (hf s x h)

theorem wf_scaleFrame {m : Memory} (frame : Nat) (k : Int) (h : m.wf = true) : (scaleFrame m frame k).wf = true := by
  unfold scaleFrame
  generalize frameWords m frame = ws
  induction ws generalizing m with
  | nil => exact h
  | cons w ws ih => exact ih (Memory.wf_write _ _ _ h)

theorem wf_accumulated {m : Memory} (tags : SMap (Word × Int)) (pa : Nat) (v : Lane) (e : Word) (x : Int) (h : m.wf = true) :
    (accumulated m tags pa v e x).1.wf = true := by
  simp only [accumulated]
  split
  · exact Memory.wf_write _ _ _ h
  · split
    · exact Memory.wf_write _ _ _ h
    · split
      · exact Memory.wf_write _ _ _ (wf_scaleFrame _ _ h)
      · exact Memory.wf_write _ _ _ h

@[simp] theorem mem_reeval (s : State) (pa n : Nat) : (reeval s pa n).mem = s.mem := rfl

@[simp] theorem mem_gangError (s : State) (task : Option Nat) (c : Cause) : (gangError s task c).mem = s.mem := by
  unfold gangError
  split
  · rfl
  · split
    · split <;> simp
    · rfl

theorem wf_accumulate {s : State} (cl pa : Nat) (v : Lane) (e : Word) (x : Int) (j : Bool) (h : s.mem.wf = true) :
    (accumulate s cl pa v e x j).mem.wf = true := by
  have w := wf_accumulated s.adjTags pa v e x h
  unfold accumulate
  dsimp only
  split <;> exact w

theorem wf_applyHeld {s : State} (p : Held → Bool) (h : s.mem.wf = true) : (applyHeld s p).mem.wf = true := by
  unfold applyHeld
  refine wf_foldl _ (fun s x hs => ?_) _ _ h
  split
  · simpa using hs
  · exact wf_accumulate _ _ _ _ _ _ hs

/-- Where no error is met, applying what is held is applying each in turn, and no gang is touched. -/
theorem applyEach_ok {hs : List Held} {s t : State} (h : applyEach s hs = .ok t) :
    hs.foldl (fun s h => match s.cellError h.pa h.epoch with
      | some c => gangError s h.task c
      | none => accumulate s h.cl h.pa h.v h.epoch h.exp true) s = t := by
  induction hs generalizing s with
  | nil => cases h; rfl
  | cons x xs ih =>
    unfold applyEach at h
    split at h
    · cases h
    · rename_i hn
      rw [List.foldl_cons, hn]
      exact ih h

theorem applyHeld_of_heldError {s : State} {p : Held → Bool} (h : s.heldError p = none) :
    applyEach { s with held := s.held.filter (fun h => !p h) } (s.held.filter p) = .ok (applyHeld s p) := by
  unfold State.heldError at h
  split at h
  · cases h
  · rename_i t ht
    rw [ht, ← applyEach_ok ht]; rfl

theorem wf_flushHeld {s : State} (pa n : Nat) (h : s.mem.wf = true) : (flushHeld s pa n).mem.wf = true := by
  unfold flushHeld; split
  · exact h
  · exact wf_applyHeld _ h

theorem wf_nmWrite {s : State} (pa : Nat) (bs : List Byte) (h : s.mem.wf = true) : (nmWrite s pa bs).mem.wf = true := by
  simp only [nmWrite, mem_reeval]; exact Memory.wf_writeBytes _ _ h

theorem wf_applyNm {s : State} (o : NmOp) (h : s.mem.wf = true) : (applyNm s o).mem.wf = true := by
  have hr : (if o.kind.reads then o.ranges.foldl (fun s r => flushHeld s r.1 r.2) s else s).mem.wf = true := by
    split
    · exact wf_foldl _ (fun s r hs => wf_flushHeld _ _ hs) _ _ h
    · exact h
  have h0 := hr
  rw [← mem_nmArrive _ o] at h0
  unfold applyNm
  generalize nmArrive _ o = s0 at h0
  dsimp only
  split
  · exact wf_nmWrite _ _ h0
  · exact wf_nmWrite _ _ h0
  · exact wf_nmWrite _ _ (wf_nmWrite _ _ h0)
  · exact wf_nmWrite _ _ (wf_nmWrite _ _ (wf_foldl _ (fun s b hs => wf_nmWrite _ _ hs) _ _ h0))
  · exact wf_nmWrite _ _ h0
  · split
    · exact h0
    · exact wf_accumulate _ _ _ _ _ _ h0
  · exact wf_nmWrite _ _ h0

theorem wf_effect {s : State} (m : Msg) (h : s.mem.wf = true) : (m.effect s).mem.wf = true := by
  cases m with
  | write r => exact wf_applyReq r h
  | near o => exact wf_applyNm o h

@[simp] theorem mem_servedAt (s : State) (m : Msg) : (s.servedAt m).mem = s.mem := by
  unfold State.servedAt; split <;> rfl

/-- A message that takes effect keeps the canonical form. -/
theorem wf_act {s : State} (m : Msg) (h : s.mem.wf = true) : (m.act s).mem.wf = true := by
  have h1 : (s.servedAt m).mem.wf = true := by rwa [mem_servedAt]
  unfold Msg.act
  dsimp only
  split <;> exact wf_effect m h1

/-- So do messages that take effect in sequence. -/
theorem wf_actAll {ms : List Msg} {s t : State} (h : s.mem.wf = true) (hp : actAll s ms = some t) : t.mem.wf = true := by
  induction ms generalizing s with
  | nil => cases hp; exact h
  | cons m ms ih =>
    unfold actAll at hp
    split at hp
    · simp at hp
    · exact ih (wf_act m h) hp

/-- And everything that is performed at once. -/
theorem wf_perform {s t : State} (hit : Msg → Bool) (h : s.mem.wf = true) (hp : perform s hit = some t) : t.mem.wf = true := by
  unfold perform at hp
  dsimp only at hp
  split at hp
  · simp at hp
  · refine wf_actAll ?_ hp
    exact h

/-- A read at the home leaves memory in canonical form: it applies what is held for the cells of its line. -/
theorem wf_homeRead {cl pa n : Nat} {ms : Bool} {s t : State} {bs : List Byte} (h : s.mem.wf = true)
    (hr : homeRead cl pa n ms s = .ok bs t) : t.mem.wf = true := by
  have hf := wf_flushHeld (s := s) (pa / 128 * 128) 128 h
  simp only [homeRead] at hr
  cases hr
  split <;> simpa using hf

/-- A read of memory leaves it in canonical form. -/
theorem wf_memRead {sq : Bool} {cl pa n : Nat} {ms : Bool} {s t : State} {bs : List Byte} (h : s.mem.wf = true)
    (hr : memRead sq cl pa n ms s = .ok bs t) : t.mem.wf = true := by
  unfold memRead at hr
  split at hr
  · rename_i r hl
    subst hr
    simp only [lineFault] at hl
    split at hl
    · simp at hl
    · split at hl
      · simp at hl
      · split at hl <;> simp at hl
  · dsimp only at hr
    split at hr
    · simp at hr
    · rename_i s1 h1
      have w1 := wf_perform _ h h1
      split at hr
      · split at hr
        · cases hr; simpa using w1
        · simp at hr
      · split at hr
        · simp at hr
        · split at hr
          · simp at hr
          · rename_i s2 h2
            split at hr
            · simp at hr
            · split at hr
              · exact wf_homeRead (wf_perform _ w1 h2) hr
              · simp at hr

/-! ## setBarrier -/

@[simp] theorem State.setBarrier_now (s : State) (k : Nat × Nat × Nat) (b : Barrier) : (s.setBarrier k b).now = s.now := rfl
@[simp] theorem State.setBarrier_tscBase (s : State) (k : Nat × Nat × Nat) (b : Barrier) : (s.setBarrier k b).tscBase = s.tscBase := rfl
@[simp] theorem State.setBarrier_mem (s : State) (k : Nat × Nat × Nat) (b : Barrier) : (s.setBarrier k b).mem = s.mem := rfl
@[simp] theorem State.setBarrier_poison (s : State) (k : Nat × Nat × Nat) (b : Barrier) : (s.setBarrier k b).poison = s.poison := rfl
@[simp] theorem State.setBarrier_ecc (s : State) (k : Nat × Nat × Nat) (b : Barrier) : (s.setBarrier k b).ecc = s.ecc := rfl
@[simp] theorem State.setBarrier_stamps (s : State) (k : Nat × Nat × Nat) (b : Barrier) : (s.setBarrier k b).stamps = s.stamps := rfl
@[simp] theorem State.setBarrier_writers (s : State) (k : Nat × Nat × Nat) (b : Barrier) : (s.setBarrier k b).writers = s.writers := rfl
@[simp] theorem State.setBarrier_inflight (s : State) (k : Nat × Nat × Nat) (b : Barrier) : (s.setBarrier k b).inflight = s.inflight := rfl
@[simp] theorem State.setBarrier_nmops (s : State) (k : Nat × Nat × Nat) (b : Barrier) : (s.setBarrier k b).nmops = s.nmops := rfl
@[simp] theorem State.setBarrier_net (s : State) (k : Nat × Nat × Nat) (b : Barrier) : (s.setBarrier k b).net = s.net := rfl
@[simp] theorem State.setBarrier_asked (s : State) (k : Nat × Nat × Nat) (b : Barrier) : (s.setBarrier k b).asked = s.asked := rfl
@[simp] theorem State.setBarrier_hostLines (s : State) (k : Nat × Nat × Nat) (b : Barrier) : (s.setBarrier k b).hostLines = s.hostLines := rfl
@[simp] theorem State.setBarrier_snoops (s : State) (k : Nat × Nat × Nat) (b : Barrier) : (s.setBarrier k b).snoops = s.snoops := rfl
@[simp] theorem State.setBarrier_waiters (s : State) (k : Nat × Nat × Nat) (b : Barrier) : (s.setBarrier k b).waiters = s.waiters := rfl
@[simp] theorem State.setBarrier_cancels (s : State) (k : Nat × Nat × Nat) (b : Barrier) : (s.setBarrier k b).cancels = s.cancels := rfl
@[simp] theorem State.setBarrier_settled (s : State) (k : Nat × Nat × Nat) (b : Barrier) : (s.setBarrier k b).settled = s.settled := rfl
@[simp] theorem State.setBarrier_adjTags (s : State) (k : Nat × Nat × Nat) (b : Barrier) : (s.setBarrier k b).adjTags = s.adjTags := rfl
@[simp] theorem State.setBarrier_held (s : State) (k : Nat × Nat × Nat) (b : Barrier) : (s.setBarrier k b).held = s.held := rfl
@[simp] theorem State.setBarrier_bounce (s : State) (k : Nat × Nat × Nat) (b : Barrier) : (s.setBarrier k b).bounce = s.bounce := rfl
@[simp] theorem State.setBarrier_windows (s : State) (k : Nat × Nat × Nat) (b : Barrier) : (s.setBarrier k b).windows = s.windows := rfl
@[simp] theorem State.setBarrier_flits (s : State) (k : Nat × Nat × Nat) (b : Barrier) : (s.setBarrier k b).flits = s.flits := rfl
@[simp] theorem State.setBarrier_dies (s : State) (k : Nat × Nat × Nat) (b : Barrier) : (s.setBarrier k b).dies = s.dies := rfl
@[simp] theorem State.setBarrier_clusters (s : State) (k : Nat × Nat × Nat) (b : Barrier) : (s.setBarrier k b).clusters = s.clusters := rfl
@[simp] theorem State.setBarrier_hub (s : State) (k : Nat × Nat × Nat) (b : Barrier) : (s.setBarrier k b).hub = s.hub := rfl
@[simp] theorem State.setBarrier_fw (s : State) (k : Nat × Nat × Nat) (b : Barrier) : (s.setBarrier k b).fw = s.fw := rfl
@[simp] theorem State.setBarrier_peers (s : State) (k : Nat × Nat × Nat) (b : Barrier) : (s.setBarrier k b).peers = s.peers := rfl
@[simp] theorem State.setBarrier_agenda (s : State) (k : Nat × Nat × Nat) (b : Barrier) : (s.setBarrier k b).agenda = s.agenda := rfl
@[simp] theorem State.setBarrier_cur (s : State) (k : Nat × Nat × Nat) (b : Barrier) : (s.setBarrier k b).cur = s.cur := rfl
@[simp] theorem State.setBarrier_freeCtr (s : State) (k : Nat × Nat × Nat) (b : Barrier) : (s.setBarrier k b).freeCtr = s.freeCtr := rfl
@[simp] theorem State.setBarrier_nextId (s : State) (k : Nat × Nat × Nat) (b : Barrier) : (s.setBarrier k b).nextId = s.nextId := rfl

/-! ## Scratchpad requests, loads on their way, and what a channel frees -/

/-- What `ask` leaves alone: whatever no change of requests, claims and last grants of a cluster touches. -/
theorem ask_keeps {β : Type} (p : State → β)
    (hp : ∀ (s : State) (cl : Nat) (f : Cluster → Cluster),
      (∀ c, f c = { c with wants := (f c).wants, claims := (f c).claims, lastGrant := (f c).lastGrant }) → p (s.modCluster cl f) = p s)
    (s : State) (cl unit a n made id : Nat) (pc : Word) : p (s.ask cl unit a n made id pc).1 = p s := by
  have take : ∀ (c : Cluster) (b : Nat), c.take b = { c with claims := (c.take b).claims } := by
    intro c b; unfold Cluster.take; split <;> rfl
  have fold : ∀ (bs : List Nat) (s : State),
      p (bs.foldl (fun s b => if unit = 12 then s.modCluster cl (fun c => c.take b) else granted s cl unit b) s) = p s := by
    intro bs
    induction bs with
    | nil => intro s; rfl
    | cons b bs ih =>
      intro s
      rw [List.foldl_cons, ih]
      split
      · exact hp s cl _ (fun c => by rw [take c b])
      · exact hp s cl _ (fun c => by dsimp only; rw [take c b])
  unfold State.ask
  dsimp only
  split
  · dsimp only
    rw [hp]
    intro c; rfl
  · split
    all_goals
      dsimp only
      rw [hp, fold]
      intro c; rfl

@[simp] theorem mem_ask (s : State) (cl unit a n made id : Nat) (pc : Word) : (s.ask cl unit a n made id pc).1.mem = s.mem :=
  ask_keeps (·.mem) (fun _ _ _ _ => rfl) s cl unit a n made id pc

@[simp] theorem inflight_ask (s : State) (cl unit a n made id : Nat) (pc : Word) :
    (s.ask cl unit a n made id pc).1.inflight = s.inflight :=
  ask_keeps (·.inflight) (fun _ _ _ _ => rfl) s cl unit a n made id pc

@[simp] theorem nmops_ask (s : State) (cl unit a n made id : Nat) (pc : Word) : (s.ask cl unit a n made id pc).1.nmops = s.nmops :=
  ask_keeps (·.nmops) (fun _ _ _ _ => rfl) s cl unit a n made id pc

/-- A load returns within its firing's budget, or is cut off where the budget ends. -/
theorem returning_cases (cl ctx n : Nat) (s : State) :
    (returning cl ctx n s = .ok () s) ∨
    (∃ t, (s.firing cl ctx).bind (·.started) = some t ∧ t + (s.cluster cl).budget < s.now + n ∧
      returning cl ctx n s = .cut (t + (s.cluster cl).budget)) := by
  unfold returning
  cases h : (s.firing cl ctx).bind (·.started) with
  | none => exact .inl rfl
  | some t =>
    by_cases hb : t + (s.cluster cl).budget < s.now + n
    · exact .inr ⟨t, rfl, hb, by simp [hb]⟩
    · exact .inl (by simp [hb])

@[simp] theorem mem_keepBack (s0 s : State) (cl ctx : Nat) (rs : List Reg) : (s0.keepBack cl ctx rs s).mem = s.mem := by
  unfold State.keepBack
  split
  · rfl
  · split
    · rfl
    · split <;> rfl

@[simp] theorem Chan.count_items (ch : Chan) (now k : Nat) : (ch.count now k).items = ch.items := rfl
@[simp] theorem Chan.count_ring (ch : Chan) (now k : Nat) : (ch.count now k).ring = ch.ring := rfl
@[simp] theorem Chan.count_riding (ch : Chan) (now k : Nat) : (ch.count now k).riding = ch.riding := rfl
@[simp] theorem Chan.count_store (ch : Chan) (now k : Nat) : (ch.count now k).store = ch.store := rfl

/-- What a change of a channel frees in a cycle is counted, and nothing else is noted. -/
theorem Chan.since_cases (ch old : Chan) (now : Nat) :
    (old.free < ch.free ∧ ch.since now old = ch.count now (ch.free - old.free)) ∨ (ch.free ≤ old.free ∧ ch.since now old = ch) := by
  unfold Chan.since
  by_cases h : old.free < ch.free
  · exact .inl ⟨h, if_pos h⟩
  · exact .inr ⟨Nat.le_of_not_lt h, if_neg h⟩

end Sys2Proof.Machine
end

