-- ==== Sys2Proof/Tests/Slice0.lean ====
section
/-! SUPPORT. Tests: ill-formed terms, every constructor's encoding, results the manual states, and for every statement of
Obligations.lean that has hypotheses a state and operands that meet them. -/

namespace Sys2Proof.Tests

open Sys2Proof Sys2Proof.Machine

-- The tests are elaborated one after another: each evaluates whole states, and many at once need much memory.
set_option Elab.async false

/-! ## Words of every instruction

Each word is a row's match bits in spec/opcode_table.json with its fields put in at their bits; the two-word forms are put
together from the layouts of R73, R77, R160 and R180. -/

/-- The word decodes to the instruction, and the instruction encodes as the word. -/
def readsAs (x : Nat × Nat × Instr) : Bool :=
  decodeTableWord x.1 x.2.1 == some x.2.2 && x.2.2.wf &&
    encodeBytes x.2.2 == (bytesOfNat 8 x.2.1).take (4 * (encode x.2.2).length) && decide (32 * (encode x.2.2).length = x.1)

def wordsAlu : List (Nat × Nat × Instr) :=
  [(32, 0x0255A900, .add 0x25#6 0x16#6 0x29#6),
   (32, 0x0255A901, .sub 0x25#6 0x16#6 0x29#6),
   (32, 0x0255A902, .mul 0x25#6 0x16#6 0x29#6),
   (32, 0x0255A903, .mulh 0x25#6 0x16#6 0x29#6),
   (32, 0x0255A904, .mulhu 0x25#6 0x16#6 0x29#6),
   (32, 0x0255A905, .div 0x25#6 0x16#6 0x29#6),
   (32, 0x0255A906, .divu 0x25#6 0x16#6 0x29#6),
   (32, 0x0255A907, .rem 0x25#6 0x16#6 0x29#6),
   (32, 0x0255A908, .remu 0x25#6 0x16#6 0x29#6),
   (32, 0x0255A909, .and 0x25#6 0x16#6 0x29#6),
   (32, 0x0255A90A, .or 0x25#6 0x16#6 0x29#6),
   (32, 0x0255A90B, .xor 0x25#6 0x16#6 0x29#6),
   (32, 0x0255A90C, .andn 0x25#6 0x16#6 0x29#6),
   (32, 0x0255A90D, .shl 0x25#6 0x16#6 0x29#6),
   (32, 0x0255A90E, .shr 0x25#6 0x16#6 0x29#6),
   (32, 0x0255A90F, .sar 0x25#6 0x16#6 0x29#6),
   (32, 0x0255A910, .rol 0x25#6 0x16#6 0x29#6),
   (32, 0x0255A911, .min 0x25#6 0x16#6 0x29#6),
   (32, 0x0255A912, .minu 0x25#6 0x16#6 0x29#6),
   (32, 0x0255A913, .max 0x25#6 0x16#6 0x29#6),
   (32, 0x0255A914, .maxu 0x25#6 0x16#6 0x29#6),
   (32, 0x0255A915, .slt 0x25#6 0x16#6 0x29#6),
   (32, 0x0255A916, .sltu 0x25#6 0x16#6 0x29#6),
   (32, 0x0255A917, .seq 0x25#6 0x16#6 0x29#6)] ++
  [(32, 0x0255A918, .sne 0x25#6 0x16#6 0x29#6),
   (32, 0x02558019, .clz 0x25#6 0x16#6),
   (32, 0x0255801A, .ctz 0x25#6 0x16#6),
   (32, 0x0255801B, .popc 0x25#6 0x16#6),
   (32, 0x0255A91C, .sel 0x25#6 0x16#6 0x29#6),
   (32, 0x0255801D, .mov 0x25#6 0x16#6),
   (32, 0x0255801E, .neg 0x25#6 0x16#6)]

theorem test_wordsAlu : wordsAlu.all readsAs = true := by decide +kernel

def wordsImm : List (Nat × Nat × Instr) :=
  [(32, 0x0655AA5B, .addi 0x25#6 0x16#6 0x2A5B#14),
   (32, 0x0A55AA5B, .andi 0x25#6 0x16#6 0x2A5B#14),
   (32, 0x0E55AA5B, .ori 0x25#6 0x16#6 0x2A5B#14),
   (32, 0x1255AA5B, .xori 0x25#6 0x16#6 0x2A5B#14),
   (32, 0x1655802B, .shli 0x25#6 0x16#6 0x2B#6),
   (32, 0x1A55802B, .shri 0x25#6 0x16#6 0x2B#6),
   (32, 0x1E55802B, .sari 0x25#6 0x16#6 0x2B#6),
   (32, 0x2255AA5B, .slti 0x25#6 0x16#6 0x2A5B#14),
   (32, 0x2655AA5B, .sltiu 0x25#6 0x16#6 0x2A5B#14),
   (32, 0x2A502A5B, .lui 0x25#6 0x2A5B#14),
   (32, 0x2E559AEB, .bfx 0x25#6 0x16#6 true 0x2B#6 0x2B#6),
   (32, 0x32558AEB, .bfi 0x25#6 0x16#6 0x2B#6 0x2B#6)]

theorem test_wordsImm : wordsImm.all readsAs = true := by decide +kernel

def wordsControl : List (Nat × Nat × Instr) :=
  [(32, 0x416A6A5B, .beq 0x16#6 0x29#6 0x2A5B#14),
   (32, 0x456A6A5B, .bne 0x16#6 0x29#6 0x2A5B#14),
   (32, 0x496A6A5B, .blt 0x16#6 0x29#6 0x2A5B#14),
   (32, 0x4D6A6A5B, .bge 0x16#6 0x29#6 0x2A5B#14),
   (32, 0x516A6A5B, .bltu 0x16#6 0x29#6 0x2A5B#14),
   (32, 0x556A6A5B, .bgeu 0x16#6 0x29#6 0x2A5B#14),
   (32, 0x59602A5B, .loop 0x16#6 0x2A5B#14),
   (32, 0x5EB5C6D7, .jmp 0x2B5C6D7#26),
   (32, 0x62B5C6D7, .jal 0x2B5C6D7#26),
   (32, 0x66558000, .jr 0x25#6 0x16#6),
   (32, 0x68000000, .fend),
   (32, 0x6C000000, .aexit)]

theorem test_wordsControl : wordsControl.all readsAs = true := by decide +kernel

def wordsMemory : List (Nat × Nat × Instr) :=
  [(32, 0x8255AA5B, .ldb 0x25#6 0x16#6 0x2A5B#14),
   (32, 0x8655AA5B, .ldh 0x25#6 0x16#6 0x2A5B#14),
   (32, 0x8A55AA5B, .ldw 0x25#6 0x16#6 0x2A5B#14),
   (32, 0x8E55AA5B, .ldd 0x25#6 0x16#6 0x2A5B#14),
   (32, 0x9255AA5B, .stb 0x25#6 0x16#6 0x2A5B#14),
   (32, 0x9655AA5B, .sth 0x25#6 0x16#6 0x2A5B#14),
   (32, 0x9A55AA5B, .stw 0x25#6 0x16#6 0x2A5B#14),
   (32, 0x9E55AA5B, .std 0x25#6 0x16#6 0x2A5B#14),
   (32, 0xA255AA5B, .lds 0x25#6 0x16#6 0x2A5B#14),
   (32, 0xA655AA5B, .sts 0x25#6 0x16#6 0x2A5B#14),
   (32, 0xAA55A900, .ldt 0x25#6 0x16#6 0x29#6),
   (32, 0xAE558000, .pushm 0x25#6 0x16#6),
   (32, 0xB2558000, .popm 0x25#6 0x16#6),
   (32, 0xB405AA5B, .pf 0x16#6 0x2A5B#14)]

theorem test_wordsMemory : wordsMemory.all readsAs = true := by decide +kernel

def wordsChannel : List (Nat × Nat × Instr) :=
  [(32, 0xC25BB400, .cbw 0x25#6 0xB#4 0xB4#8),
   (32, 0xC25BB401, .cbf 0x25#6 0xB#4 0xB4#8),
   (32, 0xC00BB402, .cbadv 0xB#4 0xB4#8),
   (32, 0xC00BB403, .cbpub 0xB#4 0xB4#8),
   (32, 0xC25BBB04, .cbld 0x25#6 0xB#4 0xB#4 0xB#4),
   (32, 0xC25BBB05, .cbst 0x25#6 0xB#4 0xB#4 0xB#4),
   (32, 0xC00B0206, .tokEos 0xB#4 0x2#2),
   (32, 0xC25B0007, .tokBnd 0x25#6 0xB#4),
   (32, 0xC0003508, .tokCtl true 0x15#5),
   (32, 0xC320B409, .qbind 0x32#6 0xB4#8)]

theorem test_wordsChannel : wordsChannel.all readsAs = true := by decide +kernel

def wordsOrder : List (Nat × Nat × Instr) :=
  [(32, 0xC4000002, .fenceScope 0x2#2),
   (32, 0xC40022D2, .xfence 0xB4#8 0x2#2),
   (32, 0xC805A900, .semSig 0x16#6 0x29#6),
   (32, 0xC805A901, .semWge 0x16#6 0x29#6),
   (32, 0xCA558002, .semRd 0x25#6 0x16#6),
   (32, 0xCE55A900, .gbarArr 0x25#6 0x16#6 0x29#6),
   (32, 0xCC05A901, .gbarWait 0x16#6 0x29#6),
   (32, 0xCC058002, .gbarDrop 0x16#6),
   (32, 0xD255A9BB, .amo 0x25#6 0x16#6 0x29#6 0xB#4 0xB#4),
   (32, 0xD405A9BB, .red 0x16#6 0x29#6 0xB#4 0xB#4),
   (32, 0xDA55A90B, .cas 0x25#6 0x16#6 0x29#6 0xB#4),
   (32, 0xDE55A900, .pst 0x25#6 0x16#6 0x29#6)]

theorem test_wordsOrder : wordsOrder.all readsAs = true := by decide +kernel

def wordsTape : List (Nat × Nat × Instr) :=
  [(32, 0xE0058000, .dmode 0x16#6),
   (32, 0xE005A901, .tapeBase 0x16#6 0x29#6),
   (32, 0xE0058002, .tapeLim 0x16#6),
   (32, 0xE2558003, .tapeMark 0x25#6 0x16#6),
   (32, 0xE2558004, .tapeRd 0x25#6 0x16#6)]

theorem test_wordsTape : wordsTape.all readsAs = true := by decide +kernel

def wordsExpert : List (Nat × Nat × Instr) :=
  [(32, 0xE6558000, .ertQ 0x25#6 0x16#6),
   (32, 0xE4058001, .ertPin 0x16#6),
   (32, 0xE4058002, .ertUnpin 0x16#6),
   (32, 0xE405A903, .ertFetch 0x16#6 0x29#6),
   (32, 0xE4058004, .ertEvict 0x16#6)]

theorem test_wordsExpert : wordsExpert.all readsAs = true := by decide +kernel

def wordsSystem : List (Nat × Nat × Instr) :=
  [(32, 0xE8058000, .trap 0x16#6),
   (32, 0xE8000001, .eret),
   (32, 0xEA502B02, .csrr 0x25#6 0x2B#6),
   (32, 0xE805AB03, .csrw 0x16#6 0x2B#6),
   (32, 0xE805A904, .icinv 0x16#6 0x29#6),
   (32, 0xE805A905, .tlbinv 0x16#6 0x29#6),
   (32, 0xEA500006, .ldtsc 0x25#6),
   (32, 0xE8058007, .tkill 0x16#6),
   (32, 0xE8000008, .nop),
   (32, 0xE8000009, .halt)]

theorem test_wordsSystem : wordsSystem.all readsAs = true := by decide +kernel

def wordsEngine : List (Nat × Nat × Instr) :=
  [(64, 0x9405A000F8005A9B, .strM2s ⟨22#6, 41#6, 11#4, 37#6, 0#6, false, 0xB4#8, 0x0#11⟩),
   (64, 0x953DA7C0F8010290, .strS2p ⟨0#6, 41#6, 0#4, 37#6, 19#6, true, 0xB4#8, 0x7C0#11⟩),
   (64, 0x9405A7C0F802029B, .strM2p ⟨0#6, 41#6, 11#4, 37#6, 0#6, false, 0xB4#8, 0x7C0#11⟩),
   (64, 0x953DA7C0F8030290, .strP2m ⟨0#6, 41#6, 0#4, 37#6, 19#6, true, 0xB4#8, 0x7C0#11⟩),
   (64, 0x9405A7C0F804029B, .strP2s ⟨0#6, 41#6, 11#4, 37#6, 0#6, false, 0xB4#8, 0x7C0#11⟩),
   (64, 0x953DA000F8055A90, .strS2m ⟨22#6, 41#6, 0#4, 37#6, 19#6, true, 0xB4#8, 0x0#11⟩),
   (64, 0x9405A740F806580B, .strM2pBm ⟨22#6, 0#6, 11#4, 37#6, 0#6, false, 0xB4#8, 0x740#11⟩),
   (64, 0x953DA740F8075800, .strP2mBm ⟨22#6, 0#6, 0#4, 37#6, 19#6, true, 0xB4#8, 0x740#11⟩),
   (64, 0x9405A740F8085A9B, .strInd ⟨22#6, 41#6, 11#4, 37#6, 0#6, false, 0xB4#8, 0x740#11⟩),
   (64, 0x953DA740F8095A90, .strSct ⟨22#6, 41#6, 0#4, 37#6, 19#6, true, 0xB4#8, 0x740#11⟩),
   (64, 0x9405A001F80A5A9B, .strCst ⟨22#6, 41#6, 11#4, 37#6, 0#6, false, 0xB4#8, 0x1#11⟩),
   (64, 0x953DA7FFF80B0290, .strRec ⟨0#6, 41#6, 0#4, 37#6, 19#6, true, 0xB4#8, 0x7FF#11⟩),
   (64, 0x0005A000F840000B, .sbarSr ⟨0#6, 0#6, 11#4, 0#6, 0#6, false, 0xB4#8, 0x0#11⟩),
   (64, 0x013DA000F8410000, .sbarSw ⟨0#6, 0#6, 0#4, 0#6, 19#6, true, 0xB4#8, 0x0#11⟩),
   (64, 0x0005A000F842000B, .sbarM ⟨0#6, 0#6, 11#4, 0#6, 0#6, false, 0xB4#8, 0x0#11⟩),
   (64, 0x013DA000F8430000, .sbarAll ⟨0#6, 0#6, 0#4, 0#6, 19#6, true, 0xB4#8, 0x0#11⟩),
   (64, 0x9405A000F8805A9B, .cp ⟨22#6, 41#6, 11#4, 37#6, 0#6, false, 0xB4#8, 0x0#11⟩),
   (64, 0x953DA000F8815A90, .cpMx ⟨22#6, 41#6, 0#4, 37#6, 19#6, true, 0xB4#8, 0x0#11⟩),
   (64, 0x9405A000F8825A9B, .cpS ⟨22#6, 41#6, 11#4, 37#6, 0#6, false, 0xB4#8, 0x0#11⟩),
   (64, 0x0005A7C0F8C05A9B, .mxLd ⟨22#6, 41#6, 11#4, 0#6, 0#6, false, 0xB4#8, 0x7C0#11⟩),
   (64, 0x953DA7C0F8C15A90, .mxMmaBf16 ⟨22#6, 41#6, 0#4, 37#6, 19#6, true, 0xB4#8, 0x7C0#11⟩),
   (64, 0x9405A7C0F8C25A9B, .mxMmaF16 ⟨22#6, 41#6, 11#4, 37#6, 0#6, false, 0xB4#8, 0x7C0#11⟩),
   (64, 0x953DA7C0F8C35A90, .mxMmaE4m3 ⟨22#6, 41#6, 0#4, 37#6, 19#6, true, 0xB4#8, 0x7C0#11⟩),
   (64, 0x9405A7C0F8C45A9B, .mxMmaE5m2 ⟨22#6, 41#6, 11#4, 37#6, 0#6, false, 0xB4#8, 0x7C0#11⟩)] ++
  [(64, 0x953DA7C0F8C55A90, .mxMmaE2m1 ⟨22#6, 41#6, 0#4, 37#6, 19#6, true, 0xB4#8, 0x7C0#11⟩),
   (64, 0x9405A7C0F8C65A9B, .mxMmaI8 ⟨22#6, 41#6, 11#4, 37#6, 0#6, false, 0xB4#8, 0x7C0#11⟩),
   (64, 0x953DA7C0F8C75A90, .mxMmaI16 ⟨22#6, 41#6, 0#4, 37#6, 19#6, true, 0xB4#8, 0x7C0#11⟩),
   (64, 0x0005A7F8F8C8029B, .mxSt ⟨0#6, 41#6, 11#4, 0#6, 0#6, false, 0xB4#8, 0x7F8#11⟩),
   (64, 0x013DA00FF8C90000, .mxZero ⟨0#6, 0#6, 0#4, 0#6, 19#6, true, 0xB4#8, 0xF#11⟩),
   (64, 0x9405A000F9005A9B, .coA2a ⟨22#6, 41#6, 11#4, 37#6, 0#6, false, 0xB4#8, 0x0#11⟩),
   (64, 0x953DA000F9015A90, .coAg ⟨22#6, 41#6, 0#4, 37#6, 19#6, true, 0xB4#8, 0x0#11⟩),
   (64, 0x9405A000F9025A9B, .coRs ⟨22#6, 41#6, 11#4, 37#6, 0#6, false, 0xB4#8, 0x0#11⟩),
   (64, 0x953DA000F9035A90, .coAr ⟨22#6, 41#6, 0#4, 37#6, 19#6, true, 0xB4#8, 0x0#11⟩),
   (64, 0x9405A001F9045A9B, .coPut ⟨22#6, 41#6, 11#4, 37#6, 0#6, false, 0xB4#8, 0x1#11⟩),
   (64, 0x953DA000F9055A90, .coGet ⟨22#6, 41#6, 0#4, 37#6, 19#6, true, 0xB4#8, 0x0#11⟩),
   (64, 0x9405A000F9065A9B, .coSig ⟨22#6, 41#6, 11#4, 37#6, 0#6, false, 0xB4#8, 0x0#11⟩),
   (64, 0x9405A002F9405A9B, .dxInflate ⟨22#6, 41#6, 11#4, 37#6, 0#6, false, 0xB4#8, 0x2#11⟩),
   (64, 0x953DA001F9415A90, .dxZstd ⟨22#6, 41#6, 0#4, 37#6, 19#6, true, 0xB4#8, 0x1#11⟩),
   (64, 0x9405A001F9425A9B, .dxLz4 ⟨22#6, 41#6, 11#4, 37#6, 0#6, false, 0xB4#8, 0x1#11⟩),
   (64, 0x953DA005F9435A90, .stoRd ⟨22#6, 41#6, 0#4, 37#6, 19#6, true, 0xB4#8, 0x5#11⟩)]

theorem test_wordsEngine : wordsEngine.all readsAs = true := by decide +kernel

def wordsLong : List (Nat × Nat × Instr) :=
  [(64, 0x12345678FE5009AB, .li 37#6 0x9AB12345678#44),
   (64, 0x000ABCDEFE501000, .lih 37#6 0xABCDE#20),
   (64, 0x12345678FE5029AB, .addli 37#6 0x9AB12345678#44)]

theorem test_wordsLong : wordsLong.all readsAs = true := by decide +kernel

/-! ## Ill-formed terms

One for each register field of each word: 53 is reserved (R74). Of the engine commands, one for each rule of R180: a reserved
register, an operand or a bit the command does not use, and the field that CMPL leaves zero. -/

def illFormed : List Instr :=
  [.add 53#6 1#6 1#6, .add 1#6 53#6 1#6, .add 1#6 1#6 53#6, .sub 53#6 1#6 1#6, .sub 1#6 53#6 1#6, .sub 1#6 1#6 53#6,
   .mul 53#6 1#6 1#6, .mul 1#6 53#6 1#6, .mul 1#6 1#6 53#6, .mulh 53#6 1#6 1#6, .mulh 1#6 53#6 1#6, .mulh 1#6 1#6 53#6,
   .mulhu 53#6 1#6 1#6, .mulhu 1#6 53#6 1#6, .mulhu 1#6 1#6 53#6, .div 53#6 1#6 1#6, .div 1#6 53#6 1#6, .div 1#6 1#6 53#6,
   .divu 53#6 1#6 1#6, .divu 1#6 53#6 1#6, .divu 1#6 1#6 53#6, .rem 53#6 1#6 1#6, .rem 1#6 53#6 1#6, .rem 1#6 1#6 53#6,
   .remu 53#6 1#6 1#6, .remu 1#6 53#6 1#6, .remu 1#6 1#6 53#6, .and 53#6 1#6 1#6, .and 1#6 53#6 1#6, .and 1#6 1#6 53#6,
   .or 53#6 1#6 1#6, .or 1#6 53#6 1#6, .or 1#6 1#6 53#6, .xor 53#6 1#6 1#6, .xor 1#6 53#6 1#6, .xor 1#6 1#6 53#6,
   .andn 53#6 1#6 1#6, .andn 1#6 53#6 1#6, .andn 1#6 1#6 53#6, .shl 53#6 1#6 1#6, .shl 1#6 53#6 1#6, .shl 1#6 1#6 53#6,
   .shr 53#6 1#6 1#6, .shr 1#6 53#6 1#6, .shr 1#6 1#6 53#6, .sar 53#6 1#6 1#6, .sar 1#6 53#6 1#6, .sar 1#6 1#6 53#6,
   .rol 53#6 1#6 1#6, .rol 1#6 53#6 1#6, .rol 1#6 1#6 53#6, .min 53#6 1#6 1#6, .min 1#6 53#6 1#6, .min 1#6 1#6 53#6,
   .minu 53#6 1#6 1#6, .minu 1#6 53#6 1#6, .minu 1#6 1#6 53#6, .max 53#6 1#6 1#6, .max 1#6 53#6 1#6, .max 1#6 1#6 53#6] ++
  [.maxu 53#6 1#6 1#6, .maxu 1#6 53#6 1#6, .maxu 1#6 1#6 53#6, .slt 53#6 1#6 1#6, .slt 1#6 53#6 1#6, .slt 1#6 1#6 53#6,
   .sltu 53#6 1#6 1#6, .sltu 1#6 53#6 1#6, .sltu 1#6 1#6 53#6, .seq 53#6 1#6 1#6, .seq 1#6 53#6 1#6, .seq 1#6 1#6 53#6,
   .sne 53#6 1#6 1#6, .sne 1#6 53#6 1#6, .sne 1#6 1#6 53#6, .clz 53#6 1#6, .clz 1#6 53#6, .ctz 53#6 1#6, .ctz 1#6 53#6,
   .popc 53#6 1#6, .popc 1#6 53#6, .sel 53#6 1#6 1#6, .sel 1#6 53#6 1#6, .sel 1#6 1#6 53#6, .mov 53#6 1#6, .mov 1#6 53#6,
   .neg 53#6 1#6, .neg 1#6 53#6, .addi 53#6 1#6 0#14, .addi 1#6 53#6 0#14, .andi 53#6 1#6 0#14, .andi 1#6 53#6 0#14,
   .ori 53#6 1#6 0#14, .ori 1#6 53#6 0#14, .xori 53#6 1#6 0#14, .xori 1#6 53#6 0#14, .shli 53#6 1#6 0#6, .shli 1#6 53#6 0#6,
   .shri 53#6 1#6 0#6, .shri 1#6 53#6 0#6, .sari 53#6 1#6 0#6, .sari 1#6 53#6 0#6, .slti 53#6 1#6 0#14, .slti 1#6 53#6 0#14,
   .sltiu 53#6 1#6 0#14, .sltiu 1#6 53#6 0#14, .lui 53#6 0#14, .bfx 53#6 1#6 false 0#6 0#6, .bfx 1#6 53#6 false 0#6 0#6,
   .bfi 53#6 1#6 0#6 0#6, .bfi 1#6 53#6 0#6 0#6, .beq 53#6 1#6 0#14, .beq 1#6 53#6 0#14, .bne 53#6 1#6 0#14,
   .bne 1#6 53#6 0#14, .blt 53#6 1#6 0#14, .blt 1#6 53#6 0#14, .bge 53#6 1#6 0#14, .bge 1#6 53#6 0#14, .bltu 53#6 1#6 0#14] ++
  [.bltu 1#6 53#6 0#14, .bgeu 53#6 1#6 0#14, .bgeu 1#6 53#6 0#14, .loop 53#6 0#14, .jr 53#6 1#6, .jr 1#6 53#6,
   .ldb 53#6 1#6 0#14, .ldb 1#6 53#6 0#14, .ldh 53#6 1#6 0#14, .ldh 1#6 53#6 0#14, .ldw 53#6 1#6 0#14, .ldw 1#6 53#6 0#14,
   .ldd 53#6 1#6 0#14, .ldd 1#6 53#6 0#14, .stb 53#6 1#6 0#14, .stb 1#6 53#6 0#14, .sth 53#6 1#6 0#14, .sth 1#6 53#6 0#14,
   .stw 53#6 1#6 0#14, .stw 1#6 53#6 0#14, .std 53#6 1#6 0#14, .std 1#6 53#6 0#14, .lds 53#6 1#6 0#14, .lds 1#6 53#6 0#14,
   .sts 53#6 1#6 0#14, .sts 1#6 53#6 0#14, .ldt 53#6 1#6 1#6, .ldt 1#6 53#6 1#6, .ldt 1#6 1#6 53#6, .pushm 53#6 1#6,
   .pushm 1#6 53#6, .popm 53#6 1#6, .popm 1#6 53#6, .pf 53#6 0#14, .cbw 53#6 0#4 0#8, .cbf 53#6 0#4 0#8,
   .cbld 53#6 0#4 0#4 0#4, .cbst 53#6 0#4 0#4 0#4, .tokBnd 53#6 0#4, .qbind 53#6 0#8, .semSig 53#6 1#6, .semSig 1#6 53#6,
   .semWge 53#6 1#6, .semWge 1#6 53#6, .semRd 53#6 1#6, .semRd 1#6 53#6, .gbarArr 53#6 1#6 1#6, .gbarArr 1#6 53#6 1#6,
   .gbarArr 1#6 1#6 53#6, .gbarWait 53#6 1#6, .gbarWait 1#6 53#6, .gbarDrop 53#6, .amo 53#6 1#6 1#6 0#4 0#4,
   .amo 1#6 53#6 1#6 0#4 0#4, .amo 1#6 1#6 53#6 0#4 0#4, .red 53#6 1#6 0#4 0#4, .red 1#6 53#6 0#4 0#4] ++
  [.cas 53#6 1#6 1#6 0#4, .cas 1#6 53#6 1#6 0#4, .cas 1#6 1#6 53#6 0#4, .pst 53#6 1#6 1#6, .pst 1#6 53#6 1#6,
   .pst 1#6 1#6 53#6, .dmode 53#6, .tapeBase 53#6 1#6, .tapeBase 1#6 53#6, .tapeLim 53#6, .tapeMark 53#6 1#6,
   .tapeMark 1#6 53#6, .tapeRd 53#6 1#6, .tapeRd 1#6 53#6, .ertQ 53#6 1#6, .ertQ 1#6 53#6, .ertPin 53#6, .ertUnpin 53#6,
   .ertFetch 53#6 1#6, .ertFetch 1#6 53#6, .ertEvict 53#6, .trap 53#6, .csrr 53#6 0#6, .csrw 53#6 0#6, .icinv 53#6 1#6,
   .icinv 1#6 53#6, .tlbinv 53#6 1#6, .tlbinv 1#6 53#6, .ldtsc 53#6, .tkill 53#6, .li 53#6 0#44, .lih 53#6 0#20,
   .addli 53#6 0#44]

theorem test_illFormed : illFormed.all (fun i => !i.wf) = true := by decide +kernel

/-- An engine command with no operand but those given, no tag and a completion handle. -/
def ops (a b c d : Reg) (h : BitVec 4) (cmpl : Bool) (cs : BitVec 11) : EOps :=
  { a := a, b := b, handle := h, c := c, d := d, cmpl := cmpl, tag := 0#8, cs := cs }

/-- Whether each command refuses the operands, and accepts none at all. -/
def commandsRefuse (e : EOps) (cs : List (Nat × Nat)) : Bool :=
  cs.all (fun p => match commandOf p.1 p.2 e, commandOf p.1 p.2 (ops 0#6 0#6 0#6 0#6 0#4 false 0#11) with
    | some i, some j => !i.wf && j.wf
    | _, _ => false)

def commands : List (Nat × Nat) :=
  [(0, 12), (1, 4), (2, 3), (3, 10), (4, 7), (5, 4)].flatMap (fun p => (List.range p.2).map (fun k => (p.1, k)))

theorem test_illFormedCommands : (commands.length == 40 &&
    commandsRefuse (ops 53#6 0#6 0#6 0#6 0#4 false 0#11) commands && commandsRefuse (ops 0#6 53#6 0#6 0#6 0#4 false 0#11) commands &&
    commandsRefuse (ops 0#6 0#6 53#6 0#6 0#4 false 0#11) commands && commandsRefuse (ops 0#6 0#6 0#6 53#6 0#4 true 0#11) commands &&
    commandsRefuse (ops 0#6 0#6 0#6 1#6 0#4 false 0#11) commands && commandsRefuse (ops 0#6 0#6 0#6 0#6 1#4 true 0#11) commands &&
    commandsRefuse (ops 1#6 0#6 0#6 0#6 0#4 false 0#11) [(0, 1), (0, 4), (0, 11), (1, 0), (1, 3), (3, 8), (3, 9)] &&
    commandsRefuse (ops 0#6 1#6 0#6 0#6 0#4 false 0#11) [(0, 6), (0, 7), (1, 1), (3, 9)] &&
    commandsRefuse (ops 0#6 0#6 1#6 0#6 0#4 false 0#11) [(1, 2), (3, 0), (3, 8), (3, 9)] &&
    commandsRefuse (ops 0#6 0#6 0#6 0#6 0#4 false 1#11) [(0, 0), (0, 1), (0, 6), (0, 8), (1, 0), (2, 0), (3, 0), (3, 1), (3, 8), (4, 0), (4, 6)] &&
    commandsRefuse (ops 0#6 0#6 0#6 0#6 0#4 false 2#11) [(0, 10), (4, 4), (5, 1), (5, 2), (5, 3)] &&
    commandsRefuse (ops 0#6 0#6 0#6 0#6 0#4 false 16#11) [(3, 9)]) = true := by decide +kernel

/-! ## States for the tests -/

/-- A firing with some registers set. -/
def firing (rs : List (Nat × Word)) : Firing :=
  { bareFiring with s := rs.foldl (fun v p => v.setIfInBounds p.1 p.2) bareFiring.s }

/-- Cluster 0 runs a firing of slot 0 in context 0, with changes to its task, its cluster and the firing. -/
def start (t : Task → Task) (c : Cluster → Cluster) (f : Firing) : State :=
  ((State.reset.withFetchWord 32 0).modTask 1 t).modCluster 0 (fun x => c { x with ctxs := [(0, f)] })

/-- The same with nothing changed but registers. -/
def regs (rs : List (Nat × Word)) : State := start id id (firing rs)

/-- The first GiB of virtual memory lies at physical address 0, and its first MiB is leased. -/
def mapped (t : Task → Task) (c : Cluster → Cluster) (f : Firing) : State :=
  (start (fun x => t { x with leases := [{ base := 0, size := 1048576, window := 0 }] }) c f).setDie 0
    { Die.reset with leafs := [{ root := 0, va := 0, size := 1073741824, pa := 0, w := true, ms := false, level := 3, epa := 0 }] }

/-- A configuration field of an element. -/
def field (el n : Nat) (v : BitVec 16) (c : Cluster) : Cluster := { c with cfg := SMap.set c.cfg (256 * el + n) v }

def okB {α : Type} : Res α → Bool
  | .ok _ _ => true
  | _ => false

def okM : MRes → Bool
  | .ok _ _ => true
  | _ => false

/-- What a part answers when it answers. -/
theorem of_okB {α : Type} {r : Res α} (h : okB r = true) : ∃ a s, r = .ok a s := by cases r <;> simp [okB] at h ⊢

/-- What an instruction leaves in a register, at the program counter, and as the cause of the last trap. -/
def after (o : Host.Outcome State Fault Refusal) (r : Reg) : Option Word :=
  match o with
  | .next t => regValue 0 0 r t
  | _ => none

def pcAfter (o : Host.Outcome State Fault Refusal) : Option Word :=
  match o with
  | .next t => (t.firing 0 0).map (·.pc)
  | _ => none

/-- Trap of a firing with a trap actor: cause, ADDR and AUX of the record. -/
def trapAfter (o : Host.Outcome State Fault Refusal) : Option (Cause × Word × Word) :=
  match o with
  | .next t => ((t.cluster 0).traps.head?).map (fun r => (r.cause, r.addr, r.aux))
  | _ => none

/-- Slot 1 is a trap actor. -/
def withTrapActor (c : Cluster) : Cluster := field 0x20 0x48 3#16 c

/-- The state in which the instruction at the cursor executes. -/
def issued (s : State) : State := issueState s 0 0

/-! ## A firing that may issue: the hypothesis of the statements on instructions -/

theorem test_issues (rs : List (Nat × Word)) : Issues (regs rs) 0 0 (firing rs) (issued (regs rs)) := ⟨rfl, rfl, rfl, rfl⟩

theorem test_issues_mapped (t : Task → Task) (c : Cluster → Cluster) (f : Firing) (h : f.ready = true)
    (hc : ∀ x, (c x).ctxs = x.ctxs) : Issues (mapped t c f) 0 0 f (issued (mapped t c f)) := by
  refine ⟨rfl, ?_, h, rfl⟩
  show SMap.find (c _).ctxs 0 = some f
  rw [hc]; rfl

/-! ## Decoding and the step -/

/-- StepRunsDecoded: an issue turn, an empty agenda, an event turn; a word, and two words at the end of a line. -/
theorem test_step :
    let s := State.reset.withFetchWord 32 0x0451400F
    let w := State.reset.withFetchWord 64 0x3456789AFC400012
    (fetch { s with agenda := [] } 0 0 == .instr (.addi 5#6 5#6 15#14) && fetch s s.cur.1 s.cur.2 == .instr (.addi 5#6 5#6 15#14) &&
      !Instr.qosFrameBoundary.ofFetch && (icacheWord (s.cluster 0) 0).isSome && pcOk s 0 0#64 &&
      inTurn s 0 0 (s.nextIssue 0 0) && !s.rides 0 0 && inTurn w 0 0 (w.nextIssue 0 0) && (match peek s 0 0#64 with | .instr _ => true | _ => false) &&
      fetch w 0 0 == .instr (.li 4#6 0x123456789A#44) && hasTwoWords 0xFC400012#32 && pcOk w 0 4#64 &&
      icacheWord (w.cluster 0) 4 == some [0x9A#8, 0x78#8, 0x56#8, 0x34#8]) = true := by decide +kernel

/-- DecodeEncode, EncodeDecode: a well-formed word, and bytes that decode. -/
theorem test_roundTrip : ((Instr.add 52#6 0#6 52#6).wf && (encode (.add 52#6 0#6 52#6)).length == 1 &&
    (match decode [0x00#8, 0x42#8, 0x30#8, 0x00#8, 0xFF#8] with
     | .ok (i, rest) => i == .add 3#6 1#6 2#6 && rest == [0xFF#8]
     | _ => false)) = true := by decide +kernel

/-- MemoryStaysCanonical: a step from reset, whose memory is canonical; the memory of a wrong order is not. -/
theorem test_canonical : State.reset.mem.wf = true ∧ (∃ t, step State.reset = .next t) ∧
    Memory.wf [(8, 1#8), (4, 1#8)] = false ∧ Memory.wf [(4, 0#8)] = false := ⟨rfl, ⟨_, rfl⟩, rfl, rfl⟩

/-! ## Registers -/

/-- A binding of queue 3 of slot 0 to itself, with what its buffer holds. -/
def bound (buf : List Word) (c : Cluster) : Cluster :=
  { c.setSlot 0 { c.slot 0 with binds := [(3, { cl := 0, slot := 0, qn := 3 })] } with qbufs := [(3, buf)] }

/-- RegisterRead: each clause of Table 4.9 at the ends of its range. -/
theorem test_registerRead : (let s := start id (bound [7#64, 8#64]) (firing [(1, 11#64), (31, 12#64)])
    okB (rd 0 0 0#6 s) && regValue 0 0 1#6 s == some 11#64 && regValue 0 0 31#6 s == some 12#64 && regValue 0 0 32#6 s == some 0#64 &&
    regValue 0 0 47#6 s == some 0#64 && regValue 0 0 52#6 s == some 0#64 && regValue 0 0 51#6 s == some 7#64 &&
    SMap.find ((s.cluster 0).slot 0).binds 0 == none && SMap.get (s.cluster 0).qbufs [] 3 == [7#64, 8#64] &&
    SMap.get ((start id (bound []) (firing [])).cluster 0).qbufs [] 3 == [] && !okB (rd 0 0 53#6 s) && !okB (rd 0 0 63#6 s)) = true := by
  decide +kernel

/-- RegisterWrite: the same, with three and with four flits waiting where the queue is bound. -/
theorem test_registerWrite : (let s := start id (bound [1#64, 2#64, 3#64]) (firing [])
    let u := start id (bound [1#64, 2#64, 3#64, 4#64]) (firing [])
    plainReg 1#6 && plainReg 47#6 && plainReg 52#6 && !plainReg 48#6 && okB (wr 0 0 1#6 9#64 s) && okB (wr 0 0 47#6 9#64 s) &&
    okB (wr 0 0 52#6 9#64 s) && okB (wr 0 0 0#6 9#64 s) && s.queued ⟨0, 0, 3⟩ == 3 && u.queued ⟨0, 0, 3⟩ == 4 &&
    okB (wr 0 0 51#6 9#64 s) && !okB (wr 0 0 51#6 9#64 u) && !okB (wr 0 0 48#6 9#64 s) && !okB (wr 0 0 53#6 9#64 s)) = true := by
  decide +kernel

/-! ## Scalar arithmetic -/

/-- AluResult and ImmediateResult: registers that read and write, for every row; R139's borderline cases give what it says. -/
theorem test_alu :
    let s := regs [(1, 0x8000000000000000#64), (2, 0xFFFFFFFFFFFFFFFF#64)]
    (okB (rd2 0 0 1#6 2#6 (issued s)) && okB (wr 0 0 3#6 0#64 (issued s)) && !isQueue 3#6 && isQueue 48#6 && isQueue 51#6 &&
      after (exec (.div 3#6 1#6 0#6) s) 3#6 == some 0xFFFFFFFFFFFFFFFF#64 && after (exec (.divu 3#6 1#6 0#6) s) 3#6 == some 0xFFFFFFFFFFFFFFFF#64 &&
      after (exec (.rem 3#6 1#6 0#6) s) 3#6 == some 0x8000000000000000#64 && after (exec (.div 3#6 1#6 2#6) s) 3#6 == some 0x8000000000000000#64 &&
      after (exec (.rem 3#6 1#6 2#6) s) 3#6 == some 0#64 && after (exec (.mulh 3#6 1#6 1#6) s) 3#6 == some 0x4000000000000000#64 &&
      after (exec (.clz 3#6 0#6) s) 3#6 == some 64#64 && after (exec (.sel 0#6 1#6 2#6) s) 0#6 == some 0#64 &&
      after (exec (.sltu 3#6 1#6 2#6) s) 3#6 == some 1#64 && after (exec (.rol 3#6 1#6 2#6) s) 3#6 == some 0x4000000000000000#64) = true := by
  decide +kernel

theorem test_immediate :
    let s := regs [(1, 0xF0F0#64), (4, 0xFFFFFFFFFFFFFFFF#64)]
    (after (exec (.addi 5#6 1#6 0x3FFF#14) s) 5#6 == some 0xF0EF#64 && after (exec (.sltiu 5#6 1#6 0x3FFF#14) s) 5#6 == some 1#64 &&
      after (exec (.lui 5#6 0x2000#14) s) 5#6 == some 0xFFFFFFFFF8000000#64 && after (exec (.bfx 5#6 1#6 true 3#6 4#6) s) 5#6 == some 0xFFFFFFFFFFFFFFFF#64 &&
      after (exec (.bfx 5#6 1#6 false 3#6 4#6) s) 5#6 == some 0xF#64 && after (exec (.bfi 4#6 0#6 3#6 60#6) s) 4#6 == some 0x0FFFFFFFFFFFFFFF#64 &&
      okB (rd 0 0 4#6 (issued s)) && trapAfter (exec (.bfi 4#6 0#6 4#6 60#6) (start id withTrapActor (firing []))) == some (Cause.seqIll, 0#64, 0#64)) = true := by
  decide +kernel

/-- LongImmediateResult: R160's example, and `lih` over it. -/
theorem test_long :
    let s := regs [(4, 0xFFF123456789A123#64)]
    (after (exec (.li 4#6 0x123456789A#44) s) 4#6 == some 0x123456789A#64 && after (exec (.lih 4#6 0x80000#20) s) 4#6 == some 0x800003456789A123#64 &&
      after (exec (.addli 4#6 0xFFFFFFFFFFF#44) s) 4#6 == some 0xFFF123456789A122#64 && pcAfter (exec (.li 4#6 1#44) s) == some 8#64) = true := by
  decide +kernel

/-! ## Control flow -/

/-- BranchResult, LoopResult, JumpResult: taken, not taken, and a target outside the code; R143's limits of a code address. -/
theorem test_control :
    let s := start id withTrapActor (firing [(1, 1#64), (2, 0x80#64), (3, 0x7C#64)])
    (pcAfter (exec (.beq 1#6 1#6 31#14) s) == some 0x7C#64 && pcAfter (exec (.beq 1#6 2#6 31#14) s) == some 4#64 &&
      pcAfter (exec (.blt 0#6 1#6 3#14) s) == some 12#64 && pcAfter (exec (.loop 1#6 3#14) s) == some 4#64 &&
      pcAfter (exec (.loop 2#6 3#14) s) == some 12#64 && after (exec (.loop 4#6 3#14) s) 4#6 == some 0xFFFFFFFFFFFFFFFF#64 &&
      trapAfter (exec (.bne 1#6 2#6 32#14) s) == some (Cause.seqPc, 0x80#64, 0#64) && trapAfter (exec (.loop 48#6 1#14) s) == some (Cause.seqIll, 0#64, 0#64) &&
      pcAfter (exec (.jmp 31#26) s) == some 0x7C#64 && after (exec (.jal 31#26) s) 31#6 == some 4#64 && trapAfter (exec (.jmp 0x3FFFFFF#26) s) == some (Cause.seqPc, 0xFFFFFFFFFFFFFFFC#64, 0#64) &&
      pcAfter (exec (.jr 5#6 3#6) s) == some 0x7C#64 && after (exec (.jr 5#6 3#6) s) 5#6 == some 4#64 && trapAfter (exec (.jr 5#6 1#6) s) == some (Cause.seqPc, 1#64, 0#64) &&
      pcOk s 0 0x7C#64 && !pcOk s 0 0x80#64 && !pcOk s 0 0x7E#64 && !pcOk s 0 0x100000000#64) = true := by decide +kernel

/-! ## Memory -/

/-- The data tests: registers, and memory with a value at 0x100 and one at 0x8000. -/
def data (rs : List (Nat × Word)) (c : Cluster → Cluster) : State :=
  { mapped id c (firing rs) with mem := (Memory.write [] 8 0x100 0x1122334455667788).write 8 0x8000 5 }

/-- A differentiable FP32 tensor of 8 elements, tensor 1: its tile at PA 0x20000, its adjoint's at 0x30000; the tape at 0x40000. -/
def diffTask (t : Task) : Task :=
  { t with tensors := [(1, [BitVec.ofNat 64 (0x190 + 14 * 268435456), 0x100000008#64, 0x100000001#64, 0x100000001#64])],
           tiles := [(4294967296, { r := true, ms := false, frame := 2 }), (4097 * 4294967296, { r := true, ms := false, frame := 3 })] }

def diffState (rs : List (Nat × Word)) (mode : Nat) : State :=
  mapped diffTask (fun c => { c with dmode := mode, tapebase := some 0x40000#64, tapelim := 4 }) (firing rs)

/-- A page table of five levels that maps VA 0x200000 to PA 0x600000 by a leaf of 2 MiB, writable (R243). -/
def walked : State :=
  { start (fun t => { t with root := 0x1000, leases := [{ base := 0x200000, size := 4096, window := 0 }] }) id
      (firing [(1, 0x200100#64)]) with
    mem := (((Memory.write [] 8 0x1000 0x2001).write 8 0x2000 0x3001).write 8 0x3000 0x4001).write 8 0x4008 0x600007 }

/-- LoadResult: aligned at the lease's last dword, misaligned, a register that reads low byte first, a walk of five levels. -/
theorem test_load :
    let s := data [(1, 0x100#64), (2, 0xFFFF8#64)] withTrapActor
    (okB (rd 0 0 1#6 (issued s)) && okB (sqAddress 0 0xFFFF8 8 false (issued s)) && !okB (sqAddress 0 0xFFFF9 8 false (issued s)) &&
      diffOf s 0 0x100 == none && okM (memRead true 0 0x100 8 false s) &&
      after (exec (.ldd 3#6 1#6 0#14) s) 3#6 == some 0x1122334455667788#64 && after (exec (.ldb 3#6 1#6 7#14) s) 3#6 == some 0x11#64 &&
      after (exec (.ldh 3#6 1#6 2#14) s) 3#6 == some 0x5566#64 && after (exec (.ldw 3#6 1#6 4#14) s) 3#6 == some 0x11223344#64 &&
      after (exec (.ldd 3#6 2#6 0#14) s) 3#6 == some 0#64 && trapAfter (exec (.ldd 3#6 1#6 4#14) s) == some (Cause.seqAlign, 0x104#64, 0#64) &&
      (match sqAddress 0 0x200100 8 true (issued walked) with | .ok p _ => p == (0x600100, false) | _ => false) &&
      trapAfter (exec (.ldd 3#6 0#6 0#14) (start (fun t => { t with root := 0x1000 }) withTrapActor (firing []))) == some (Cause.xlateNp, 0#64, 0x1000#64)) = true := by
  decide +kernel

/-- LoadResult and StoreResult over a differentiable tensor: the element, its cell, a load under REV, a taped store, a reverse store. -/
theorem test_diff :
    let s := diffState [(1, 0x20004#64), (2, 7#64)] 1
    let u := diffState [(1, 0x20004#64), (2, 7#64)] 0
    let v := { s with clusters := (s.modCluster 0 (fun c => { c with tapeptr := 1 })).clusters,
                      mem := (Memory.write [] 16 0x40000 (dataHeader 2 1 1 0)).write 4 0x30004 9 }
    ((diffOf s 0 0x20004).map (fun y => (y.id, y.cell, y.inside, y.beatPa)) == some (1, some 0x30004, true, 0x20000) &&
      tyBits 0 == 32 && (match exec (.ldw 2#6 1#6 0#14) s with | .next t => t.nmops.map (·.pa) == [0x30004] | _ => false) &&
      (match exec (.stw 2#6 1#6 0#14) u with | .next t => t.nmops.map (·.pa) == [0x20000] && (t.cluster 0).tapeptr == 1 && t.mem == [] | _ => false) &&
      after (exec (.stw 2#6 1#6 0#14) v) 2#6 == some 9#64 &&
      (match exec (.stw 2#6 1#6 0#14) v with | .next t => t.mem.read 4 0x30004 == 0 && (t.cluster 0).tapeptr == 0 | _ => false)) = true := by
  decide +kernel

/-- LoadSeesOwnStore at the end of a line of die 0. -/
theorem test_ownStore :
    let s := data [] id
    (s.mem.wf && [1#8, 2#8].length == 2 && 0x7E % 128 + 2 ≤ 128 && homeDie 0x7E == some (dieOf 0) && s.poison == [] && s.ecc == [] && s.held == [] &&
      s.nmops == [] && s.hostLines == [] && s.inflight == [] && (match memRead true 0 0x7E 2 false (postWrite 0 0 none none 0x7E false [1#8, 2#8] s) with
        | .ok b _ => b == [1#8, 2#8] | _ => false)) = true := by decide +kernel

/-- StoreResult: a store of two bytes waits on its way, and the sixteenth outstanding one may still go. -/
theorem test_store :
    let s := data [(1, 0x100#64), (2, 0xABCDEF#64)] withTrapActor
    (okB (sqAddress 0 0x100 2 true (issued s)) && okB (rd 0 0 2#6 (issued s)) && diffOf s 0 0x100 == none && s.outstanding 0 0 == 0 &&
      (match exec (.sth 2#6 1#6 2#14) s with | .next t => t.inflight.map (fun r => (r.pa, r.bytes)) == [(0x102, [0xEF#8, 0xCD#8])] | _ => false) &&
      trapAfter (exec (.sth 2#6 1#6 1#14) s) == some (Cause.seqAlign, 0x101#64, 0#64)) = true := by decide +kernel

/-- ScratchpadResult: the last dword, the first address beyond, a misaligned one; pushm's example of R150 and its limits. -/
theorem test_scratchpad :
    let s := start id withTrapActor (firing [(1, 0x7FFF8#64), (2, 42#64), (4, 4#64), (5, 5#64), (6, 6#64), (7, 7#64)])
    let sp := fun (n : Word) => start id withTrapActor { firing [(4, 4#64)] with sp := n }
    let u := sp 8192#64
    let v := (start id (fun c => { c with spad := Memory.write [] 8 (491520 + 8) 77 }) { firing [] with sp := 16#64 })
    (((issued s).ask 0 sqUnit 0x7FFF8 8 (issued s).nextId 0 0#64).2 && okB (rd 0 0 2#6 (issued s)) &&
      (match exec (.sts 2#6 1#6 0#14) s with | .next t => (t.cluster 0).spad.read 8 0x7FFF8 == 42 | _ => false) &&
      after (exec (.lds 3#6 1#6 0#14) s) 3#6 == some 0#64 && trapAfter (exec (.lds 3#6 1#6 8#14) s) == some (Cause.seqSpad, 0x80000#64, 0#64) &&
      trapAfter (exec (.sts 3#6 1#6 0x3FFC#14) s) == some (Cause.seqAlign, 0x7FFF4#64, 0#64) &&
      ((s.cluster 0).partSize, (s.cluster 0).partBase 1) == (8192, 499712) && ((issued s).ask 0 sqUnit ((s.cluster 0).partBase 0) 32 0 0 0#64).2 &&
      (match exec (.pushm 4#6 7#6) s with | .next t => (t.cluster 0).spad.read 8 (491520 + 24) == 7 | _ => false) &&
      after (exec (.pushm 4#6 7#6) s) 52#6 == some 32#64 && trapAfter (exec (.pushm 4#6 4#6) u) == some (Cause.seqSpill, 0#64, 0#64) &&
      trapAfter (exec (.popm 4#6 5#6) s) == some (Cause.seqSpill, 0#64, 0#64) && trapAfter (exec (.pushm 0#6 1#6) s) == some (Cause.seqIll, 0#64, 0#64) &&
      trapAfter (exec (.popm 47#6 48#6) s) == some (Cause.seqIll, 0#64, 0#64) && after (exec (.popm 4#6 4#6) v) 4#6 == some 77#64 &&
      after (exec (.popm 4#6 4#6) v) 52#6 == some 8#64 && trapAfter (exec (.pushm 4#6 4#6) (sp 4#64)) == some (Cause.seqAlign, 491524#64, 0#64) &&
      trapAfter (exec (.popm 4#6 4#6) (sp 4#64)) == some (Cause.seqAlign, 491524#64, 0#64) && trapAfter (exec (.popm 4#6 4#6) (sp 8200#64)) == some (Cause.seqSpill, 0#64, 0#64)) = true := by decide +kernel

/-- TensorLoadResult: element 7, the last; coordinate 8 outside it, and an identifier above 4095; an element that is not mapped, and one
outside the lease; a load in REV; `pf` of a misaligned address. -/
theorem test_tensor :
    let s := fun (t : Task → Task) (mode : Nat) => { mapped (fun x => t (diffTask x)) (fun c => withTrapActor { c with dmode := mode })
      (firing [(1, 1#64), (2, 7#64), (3, 8#64), (5, 0x1001#64)]) with mem := Memory.write [] 4 0x2001C 9 }
    let lost := s (fun t => { t with root := 0x1000 }) 0
    let out := s (fun t => { t with leases := [] }) 0
    ((match tensorElement 0 0 1#6 2#6 (fun _ => false) (issued (s id 0)) with | .ok (id, ten, xs) _ => id == 1 && ten.ndim == 1 && xs.head? == some 7 | _ => false) &&
      (((s id 0).taskOf 0).any (fun t => okB (elementChecked 0 t 1 [7, 0, 0, 0] 4 (issued (s id 0))))) &&
      after (exec (.ldt 4#6 1#6 2#6) (s id 0)) 4#6 == some 9#64 && trapAfter (exec (.ldt 4#6 1#6 3#6) (s id 0)) == some (Cause.seqTensor, 1#64, 0#64) &&
      trapAfter (exec (.ldt 4#6 1#6 0#6) (s id 0)) == some (Cause.seqTensor, 1#64, 0#64) && trapAfter (exec (.ldt 4#6 5#6 2#6) (s id 0)) == some (Cause.seqTensor, 1#64, 0#64) &&
      trapAfter (exec (.ldt 4#6 1#6 2#6) lost) == some (Cause.xlateNp, 0x1C#64, 0x1000#64) &&
      (match exec (.ldt 4#6 1#6 2#6) out with | .next t => (t.task 1).map (fun x => (x.status, x.endCause)) == some (.ended, Cause.leaseOut) | _ => false) &&
      (match exec (.ldt 4#6 1#6 2#6) (s id 1) with | .next t => t.nmops.map (·.pa) == [0x3001C] | _ => false) && pcAfter (exec (.pf 1#6 0#14) (s id 0)) == some 4#64) = true := by
  decide +kernel

/-! ## Channels -/

/-- A channel from a producer port of cluster 0, with items. -/
def channel (port depth : Nat) (items : List Item) : Chan :=
  { completionChan with prodPort := port, depth := depth, items := items, live := !items.isEmpty }

/-- Handle 0 is an incoming rate handle of rate 2, handle 1 an outgoing one of rate 1; handle 2 is incoming and 3 outgoing, without a rate. -/
def handles (items : List Item) (c : Cluster) : Cluster :=
  field 0x20 0x10 1#16 (field 0x20 0x11 3#16 (field 0x20 0x12 1#16 (field 0x20 0x13 3#16 (field 0x20 0x43 0x12#16
    { withTrapActor c with chans := [(0x200, channel 0x40 4 items), (0x202, channel 0x41 4 items), (0x300, channel 0x201 4 []),
        (0x301, channel 0x203 4 [])] }))))

/-- A firing that has written slot 0 of handle 1. -/
def wrote : Firing := { firing [(1, 5#64)] with written := [(1, 3#1024)] }

/-- ChannelReadResult: two beats and EOS on a handle of rate 2; the wait of `cbw` on three items, on a mark, and with neither; the free
slots, and more than those; accesses beyond the rate and beyond EOS; handles that lead the other way or belong to another slot. -/
theorem test_channelRead :
    let s := start id (handles [.data 1#1024, .data 2#1024, .eos]) (firing [])
    let one := start id (handles [.data 1#1024]) (firing [])
    let early := start id (handles [.eos, .data 2#1024]) (firing [])
    let other := start id (handles [.data 1#1024]) { firing [] with slot := 1 }
    ((s.cluster 0).handleUsed 0 && !(s.cluster 0).handleOut 0 && (s.cluster 0).handleOut 1 && !foreign (s.cluster 0) 0 0 && foreign (s.cluster 0) 1 0 &&
      (s.cluster 0).slotRate 0 0 == 2 && (s.cluster 0).slotRate 0 1 == 1 && (s.cluster 0).slotRate 0 2 == 0 && handleFree s 0 1 == 4 && !(s.cluster 0).handleCmpl 0 &&
      after (exec (.cbw 3#6 0#4 255#8) s) 3#6 == some 0x3021#64 && after (exec (.cbld 3#6 0#4 1#4 0#4) s) 3#6 == some 2#64 &&
      pcAfter (exec (.cbw 3#6 0#4 1#8) one) == some 4#64 && pcAfter (exec (.cbw 3#6 0#4 2#8) one) == some 0#64 &&
      pcAfter (exec (.cbadv 0#4 2#8) s) == some 4#64 && after (exec (.cbf 3#6 1#4 4#8) s) 3#6 == some 4#64 && pcAfter (exec (.cbf 3#6 1#4 5#8) s) == some 0#64 &&
      trapAfter (exec (.cbadv 0#4 3#8) s) == some (Cause.seqChan, 0#64, 0#64) && trapAfter (exec (.cbw 3#6 15#4 0#8) s) == some (Cause.seqChan, 15#64, 0#64) &&
      trapAfter (exec (.cbw 3#6 1#4 0#8) s) == some (Cause.seqChan, 1#64, 0#64) && trapAfter (exec (.cbf 3#6 0#4 0#8) s) == some (Cause.seqChan, 0#64, 0#64) &&
      trapAfter (exec (.cbw 3#6 0#4 0#8) other) == some (Cause.seqChan, 0#64, 0#64) && trapAfter (exec (.cbld 3#6 0#4 1#4 0#4) early) == some (Cause.seqChan, 0#64, 0#64) &&
      after (exec (.cbld 3#6 2#4 1#4 0#4) early) 3#6 == some 2#64) = true := by decide +kernel

/-- What the channel of handle 1 holds. -/
def sent (o : Host.Outcome State Fault Refusal) : List Item :=
  match o with
  | .next t => (((t.cluster 0).chan 0x300).map (·.items)).getD []
  | _ => []

/-- ChannelWriteResult: a slot within the rate, publishing it, tokens with nothing written and with a slot written; accesses beyond the
rate, without a free slot, and of a handle that leads the other way; a channel that spills, one whose ring is full, one that rides the loops. -/
theorem test_channelWrite :
    let s := start id (handles []) wrote
    let u := start id (handles []) (firing [(1, 0x123456789#64)])
    let full := fun (f : Firing) => start id (fun c => (handles [] c).setChan 0x300 (channel 0x201 1 [.eor]) |>.setChan 0x301 (channel 0x203 1 [.eor])) f
    let ring := { channel 0x201 1 [] with ringSize := 4, ring := [.eor] }
    let tight := { ring with ringSize := 1 }
    let far := { channel 0x201 1 [] with vc := some 2 }
    (s.hasFree 0 0x201 4 && !s.hasFree 0 0x201 5 && (wrote.writtenAt 1 0).isSome && pcAfter (exec (.cbst 1#6 1#4 0#4 15#4) u) == some 4#64 &&
      wrote.writtenOf 1 == 1 && (firing []).writtenOf 1 == 0 && pcAfter (exec (.cbst 1#6 3#4 3#4 0#4) u) == some 4#64 &&
      sent (exec (.cbpub 1#4 1#8) s) == [.data 3#1024] && sent (exec (.tokEos 1#4 0#2) u) == [.eos] && sent (exec (.tokEos 1#4 1#2) u) == [.eor] &&
      sent (exec (.tokEos 1#4 2#2) u) == [.eok] && sent (exec (.tokBnd 1#6 1#4) u) == [.bound 4294967295] &&
      trapAfter (exec (.tokEos 1#4 0#2) s) == some (Cause.seqChan, 1#64, 0#64) && trapAfter (exec (.tokEos 1#4 3#2) u) == some (Cause.seqIll, 0#64, 0#64) &&
      trapAfter (exec (.cbst 1#6 1#4 1#4 0#4) u) == some (Cause.seqChan, 1#64, 0#64) && trapAfter (exec (.cbpub 1#4 2#8) s) == some (Cause.seqChan, 1#64, 0#64) &&
      trapAfter (exec (.tokBnd 1#6 0#4) u) == some (Cause.seqChan, 0#64, 0#64) && pcAfter (exec (.cbst 1#6 3#4 0#4 0#4) (full (firing []))) == some 0#64 &&
      pcAfter (exec (.cbpub 1#4 1#8) (full wrote)) == some 0#64 && pcAfter (exec (.tokEos 1#4 0#2) (full (firing []))) == some 0#64 &&
      u.outsOf 0 0x201 == [(0, 0x300)] && ring.spills && !(channel 0x201 1 []).spills && !ring.sink && !far.spills && tight.spills && !tight.sink &&
      (tight.push 7 .eok).items == [.eor] && (tight.push 7 .eok).spilling == [(7, .eok)] && (far.push 7 .eok).riding == [{ id := 7, flits := false, item := .eok }]) = true := by
  decide +kernel

/-- ControlTokenAndBindResult: a START for tile 24; a binding, an unbinding, a bad word, and a d or n out of range. -/
theorem test_bind :
    let s := start id (fun c => bound [] (withTrapActor c)) (firing [(1, 0x4000#64), (2, 0x8000#64)])
    (bindOf s 0 0x4000#64 == some (some ⟨0, 0, 0⟩) && bindOf s 0 0#64 == some none && bindOf s 0 0x8000#64 == none && bindOf s 0 0x4040#64 == none &&
      (match exec (.qbind 48#6 1#8) s with | .next t => ((t.cluster 0).slot 0).binds == [(0, ⟨0, 0, 0⟩), (3, ⟨0, 0, 3⟩)] | _ => false) &&
      (match exec (.qbind 51#6 0#8) s with | .next t => ((t.cluster 0).slot 0).binds == [] | _ => false) &&
      trapAfter (exec (.qbind 48#6 2#8) s) == some (Cause.seqQueue, 0#64, 0#64) && trapAfter (exec (.qbind 47#6 1#8) s) == some (Cause.seqIll, 0#64, 0#64) &&
      trapAfter (exec (.qbind 48#6 48#8) s) == some (Cause.seqIll, 0#64, 0#64) &&
      (match exec (.tokCtl false 24#5) s with | .next t => (t.cluster 0).ctlFly == [⟨24, false, (issued s).now + 2⟩] | _ => false)) = true := by
  decide +kernel

/-! ## Order and synchronisation -/

/-- FenceResult: released at once, held up by a store on its way, and by one to another package for `dom` alone; a fence that has begun. -/
theorem test_fence :
    let s := data [(1, 0x100#64)] withTrapActor
    let u := postWrite 0 0 none (some 0) 0x100 false [1#8] s
    let far := postWrite 0 0 none (some 0) 0x1000000000000 false [1#8] s
    let begun := s.modCluster 0 (fun c => c.putFence 0 1 5 false)
    ((s.cluster 0).fenceOf 0 == none && (releaseBy 0 0 true false (issued s)).2 && !(releaseBy 0 0 true false (issued u)).2 &&
      regionOf 0x1000000000000 == 1 && (releaseBy 0 0 false false (issued far)).2 && !(releaseBy 0 0 true false (issued far)).2 &&
      pcAfter (exec (.fenceScope 3#2) s) == some 4#64 && pcAfter (exec (.fenceScope 2#2) far) == some 4#64 &&
      pcAfter (exec (.fenceScope 1#2) u) == some 0#64 && pcAfter (exec (.fenceScope 0#2) u) == some 4#64 &&
      commandsDone (s.cluster 0) 1 1 && eventsDone s 0 1 3#2 1 && pcAfter (exec (.xfence 1#8 3#2) s) == some 4#64 &&
      !eventsDone (closeBatch u 0) 0 1 3#2 u.nextId && pcAfter (exec (.xfence 1#8 3#2) u) == some 0#64 &&
      ((begun.cluster 0).fenceOf 0).map (·.upto) == some 5 && eventsDone begun 0 1 3#2 5 && pcAfter (exec (.xfence 1#8 3#2) begun) == some 4#64 &&
      trapAfter (exec (.xfence 0#8 3#2) s) == some (Cause.seqIll, 0#64, 0#64)) = true := by decide +kernel

/-- SemaphoreResult: the counter at 0x8000 is 5: it meets 5, and −1 as a signed difference, and not 6. -/
theorem test_semaphore :
    let s := data [(1, 0x8000#64), (2, 5#64), (3, 6#64)] id
    let wait := fun (b : Bool) => ({ cl := 0, ctx := 0, pa := 0x8000, target := 6#64, ok := b, polling := false, queue := none } : Waiter)
    (okB (rd2 0 0 1#6 2#6 (issued s)) && okB (nmAddress 0 0x8000 8 true (issued s)) && (lineFault s 0x8000).isNone && (issued s).nmOpen 0 0 0x8000 8 false && !s.heldBack 0 0 && homeDie 0x8000 == some 0 && s.waiters == [] && s.abortingAt 0 == none && (releaseBy 0 0 true false (issued s)).2 &&
      semMeets s.mem 0x8000 5#64 && semMeets s.mem 0x8000 0xFFFFFFFFFFFFFFFF#64 && !semMeets s.mem 0x8000 6#64 && pcAfter (exec (.semWge 1#6 2#6) s) == some 4#64 &&
      (match exec (.semWge 1#6 3#6) s with | .next t => t.waiters.map (fun w => (w.pa, w.target, w.ok)) == [(0x8000, 6#64, false)] | _ => false) &&
      pcAfter (exec (.semWge 1#6 3#6) { s with waiters := [wait true] }) == some 4#64 && pcAfter (exec (.semWge 1#6 3#6) { s with waiters := [wait false] }) == some 0#64 &&
      after (exec (.semRd 4#6 1#6) s) 4#6 == some 5#64 &&
      (match exec (.semSig 1#6 3#6) s with | .next t => t.nmops.map (·.kind) == [.sig 6#64] && t.mem == s.mem | _ => false)) = true := by decide +kernel

/-- A gang whose barrier 3 of level 5 has a state. -/
def gang (b : Barrier) (c : Cluster → Cluster) : State :=
  let s := start id (fun x => c (withTrapActor x)) (firing [(1, 0xA3#64), (2, 2#64)])
  s.setBarrier (barrierKey s 0 0#64 0xA3#64) b

def joined (c : Cluster) : Cluster := c.setSlot 0 { c.slot 0 with joins := [(3, (0, 0#64))] }

/-- BarrierResult: an arrival that does not complete the phase and one that does; a wait for a phase that is over and one that is not;
a drop with and without a join; poison. -/
theorem test_barrier :
    let b := Barrier.reset
    let s := gang b joined
    let p := gang { b with pz := true } id
    (barWordOk 0xA3#64 && barWordOk 0x20#64 && barWordOk 0xBF#64 && !barWordOk 0xC0#64 && arrivalFault b 5 1#64 == none && arrivalFault b 5 65535#64 == none &&
      (issued s).unseen 0 0 == [] && !b.pz && (b.arrive 5 1 zeroClock).c == 1#64 && (b.arrive 5 2 zeroClock).a == 1 && (releaseBy 0 0 true true (issued s)).2 && s.barrier (barrierKey s 0 0#64 0xA3#64) == b && after (exec (.gbarArr 3#6 1#6 2#6) s) 3#6 == some 0#64 &&
      pcAfter (exec (.gbarWait 1#6 0#6) (gang { b with c := 1#64 } id)) == some 4#64 && pcAfter (exec (.gbarWait 1#6 0#6) s) == some 0#64 &&
      pcAfter (exec (.gbarDrop 1#6) s) == some 4#64 && trapAfter (exec (.gbarDrop 1#6) (gang b id)) == some (Cause.syncCount, 0xA3#64, 0#64) &&
      trapAfter (exec (.gbarWait 1#6 0#6) p) == some (Cause.syncPoison, 0xA3#64, 0#64)) = true := by decide +kernel

/-- AtomicResult: an add over 8 bytes, a swap, a comparison that fails, an operation and a type that Table 15.8 lacks. -/
theorem test_atomic :
    let s := data [(1, 0x8000#64), (2, 7#64), (3, 4#64)] withTrapActor
    (nmValid 1 3 && nmValid 6 5 && nmValid 4 3 && !nmValid 4 4 && !nmValid 7 0 && !nmValid 0 6 && okB (atomicAddress 0 0 (some true) 1#6 3 (issued s)) && okB (atomicAddress 0 0 none 1#6 3 (issued s)) &&
      s.outstanding 0 0 == 0 && trapAfter (exec (.red 1#6 2#6 0#4 3#4) s) == some (Cause.seqIll, 0#64, 0#64) &&
      after (exec (.amo 4#6 1#6 2#6 1#4 2#4) s) 4#6 == some 5#64 && (match exec (.amo 4#6 1#6 2#6 1#4 2#4) s with | .next t => t.mem.read 8 0x8000 == 12 | _ => false) &&
      (match exec (.cas 3#6 1#6 2#6 2#4) s with | .next t => t.mem.read 8 0x8000 == 5 | _ => false) && after (exec (.cas 3#6 1#6 2#6 2#4) s) 3#6 == some 5#64 &&
      (match exec (.red 1#6 2#6 1#4 0#4) s with | .next t => t.nmops.map (·.kind) == [.rmw 1 0 7#64] && t.mem == s.mem | _ => false) &&
      trapAfter (exec (.amo 4#6 1#6 2#6 7#4 0#4) s) == some (Cause.seqIll, 0#64, 0#64) && trapAfter (exec (.cas 4#6 1#6 2#6 4#4) s) == some (Cause.seqIll, 0#64, 0#64) &&
      nmCompute 1 0 0xFFFFFFFF 1 == 0 && nmCompute 2 0 12 10 == 8) = true := by decide +kernel

/-- Tensors 1 and 2 are twins of 8 × 8 FP32 elements (R237): their storages lie at virtual addresses 0 and 2 GiB, their tiles in frames
2 and 3. -/
def twins (t : Task) : Task :=
  let entry := fun (twin store : Nat) => [BitVec.ofNat 64 (0x10A0 + twin * 65536 + 7 * 268435456 + 7 * 8589934592), 0x800000008#64, 0x100000001#64,
    0x100000001#64, 0#64, 0#64, 0#64, 0#64, BitVec.ofNat 64 store, 0#64]
  { t with tensors := [(1, entry 2 0), (2, entry 1 0x80000000)], leases := [{ base := 0, size := 1048576, window := 0 }, { base := 0x80000000, size := 1048576, window := 0 }],
           tiles := [(4294967296, { r := true, ms := false, frame := 2 }), (8589934592, { r := true, ms := false, frame := 3 })] }

/-- Their storages are mapped, each for reading alone or for writing too. -/
def twinState (w1 w2 : Bool) : State :=
  let f := firing [(1, 1#64), (2, 7#64), (3, 0#64), (4, 99#64)]
  ((mapped id withTrapActor f).modTask 1 twins).modDie 0 (fun d => { d with leafs :=
    [{ root := 0, va := 0, size := 1073741824, pa := 0, w := w1, ms := false, level := 3, epa := 0x40 },
     { root := 0, va := 0x80000000, size := 1073741824, pa := 0x40000000, w := w2, ms := false, level := 3, epa := 0x48 }] })

/-- AtomicResult, `pst`: element (7, 0) and its twin's (0, 7); the first copy's page and the second's that may not be written; copies whose
pages lie in the CXL tier. -/
theorem test_pairedStore :
    let s := twinState true true
    let cxl := fun (n : Nat) => s.modDie 0 (fun d => { d with leafs := d.leafs.map (fun l => if l.epa == n then { l with pa := l.pa + 0x2000000000000 } else l) })
    ((match tensorElement 0 0 1#6 2#6 pstBad (issued s) with | .ok (id, ten, xs) _ => id == 1 && ten.twin == 2 && xs.take 2 == [7, 0] | _ => false) &&
      (s.taskOf 0).any (fun t => okB (elementWritable 0 t 1 [7, 0] (issued s)) && okB (elementWritable 0 t 2 (transposed [7, 0]) (issued s)) &&
        t.elementVa 1 [7, 0] == 0x1C && t.elementVa 2 (transposed [7, 0]) == 0x80000E00) &&
      (match exec (.pst 4#6 1#6 2#6) s with
        | .next t => t.nmops.map (fun o => (o.pa, o.kind)) == [(0x2001C, .pair (0x30000 + 7 * 512) [99#8, 0#8, 0#8, 0#8])] | _ => false) &&
      trapAfter (exec (.pst 4#6 1#6 2#6) (twinState false true)) == some (Cause.xlatePerm, 0x1C#64, 0x40#64) &&
      (s.taskOf 0).any (fun t => okB (copyChecked 0 0 t 1 4 0x2001C [7, 0] (issued s)) && okB (copyChecked 0 0 t 2 4 (0x30000 + 7 * 512) [0, 7] (issued s))) &&
      trapAfter (exec (.pst 4#6 1#6 2#6) (cxl 0x40)) == some (Cause.syncAddr, 0x1C#64, 0#64) &&
      trapAfter (exec (.pst 4#6 1#6 2#6) (cxl 0x48)) == some (Cause.syncAddr, 0x80000E00#64, 0#64) &&
      trapAfter (exec (.pst 4#6 1#6 2#6) (twinState true false)) == some (Cause.xlatePerm, 0x80000E00#64, 0x48#64)) = true := by decide +kernel

/-! ## The tape, experts and the system registers -/

/-- TapeResult: the switch with nothing outstanding, modes 2 and 3; a segment; limits 1, 4096, 0 and 4097; a mark; a read past the tape. -/
theorem test_tape :
    let s := { mapped id (fun c => withTrapActor { c with tapebase := some 0x40000#64, tapelim := 4, lpend := some 0x40000000#64 })
      (firing [(1, 0x100#64), (2, 2#64), (3, 3#64), (4, 4096#64), (5, 4097#64), (6, 1#64)]) with mem := [] }
    ((releaseBy 0 0 true false (issued s)).2 && switchReady (issued s) 0 && tapeIdle (issued s) 0 && (s.cluster 0).lim == 4 && s.outstanding 0 0 == 0 &&
      okB (headerAt 0 0 true (issued s)) && (match exec (.dmode 2#6) s with | .next t => (t.cluster 0).dmode == 2 | _ => false) &&
      trapAfter (exec (.dmode 3#6) s) == some (Cause.tapeArg, 3#64, 0#64) &&
      (match exec (.tapeBase 1#6 2#6) s with | .next t => (t.cluster 0).tapebase == some 0x100#64 && (t.cluster 0).tapeptr == 2 | _ => false) &&
      (match exec (.tapeLim 4#6) s with | .next t => (t.cluster 0).tapelim == 4096 | _ => false) &&
      trapAfter (exec (.tapeLim 5#6) s) == some (Cause.tapeArg, 4097#64, 0#64) && trapAfter (exec (.tapeLim 0#6) s) == some (Cause.tapeArg, 0#64, 0#64) &&
      after (exec (.tapeMark 7#6 6#6) s) 7#6 == some 0#64 && after (exec (.tapeRd 7#6 0#6) s) 7#6 == some 0#64 &&
      (match exec (.tapeMark 7#6 6#6) s with
        | .next t => (t.cluster 0).tapeptr == 1 && (t.cluster 0).lscale == 0x40000000#64 && (t.cluster 0).lsepoch == 1#64 | _ => false)) = true := by
  decide +kernel

/-- An expert of 8 slices, 2 of them landed, with a count of pins. -/
def expert (pin pre state : Nat) : Ert :=
  { state := state, failed := true, nsl := 8, pre := pre, pfx := 2, pin := pin, slb := 0, pool := 0, sk := false, src := 0, last := 0 }

def experts (e : Ert) (s : State) : State := { s with hub := { s.hub with ert := [(9, e)], poolBase := 0, poolSize := 1048576 } }

/-- ExpertResult: pins at 0, 65534 and 65535; a fetch of all slices; an eviction, and one of an ABSENT expert; a key without an entry. -/
theorem test_expert :
    let s := fun (pin : Nat) => experts (expert pin 2 1) (start id withTrapActor (firing [(1, 9#64), (2, 8#64), (3, 10#64)]))
    let z := { experts (expert 0 0 0) (s 0) with hub := { (experts (expert 0 0 0) (s 0)).hub with pool := [(0, 65536)] } }
    (okB (rd 0 0 1#6 (issued (s 0))) && ((s 0).ert 9).isSome && ((s 0).ert 10).isNone && evictable (s 0) 9 (expert 0 2 1) &&
      (match exec (.ertPin 1#6) (s 65534) with | .next t => (t.ert 9).map (·.pin) == some 65535 | _ => false) &&
      trapAfter (exec (.ertPin 1#6) (s 65535)) == some (Cause.ertPin, 9#64, 9#64) && trapAfter (exec (.ertUnpin 1#6) (s 0)) == some (Cause.ertPin, 9#64, 9#64) &&
      (match exec (.ertUnpin 1#6) (s 1) with | .next t => (t.ert 9).map (·.pin) == some 0 | _ => false) && trapAfter (exec (.ertEvict 3#6) (s 0)) == some (Cause.ertKey, 10#64, 10#64) &&
      (match exec (.ertFetch 1#6 0#6) (s 0) with | .next t => (t.ert 9).map (·.failed) == some false && (fetchOf t 9).map (·.target) == some 8 | _ => false) &&
      (match exec (.ertEvict 1#6) (s 0) with | .next t => (t.ert 9).map (fun e => (e.pre, e.state)) == some (0, 0) | _ => false) &&
      (match exec (.ertEvict 1#6) z with | .next t => t.hub.pool == [(0, 65536)] && (t.ert 9).map (·.state) == some 0 | _ => false) &&
      after (exec (.ertQ 4#6 3#6) (s 0)) 4#6 == some 0#64) = true := by decide +kernel

/-- A trap record of context 2. -/
def record : TrapRec :=
  { src := 0x1000#32, r := true, cause := 0x2002#16, tsc := 5#64, wid := 6#64, epc := 8#64, addr := 9#64, aux := 10#64, ctx := 2, slot := 3,
    level := 0, seqno := 1#64 }

/-- ControlRegisterRead and ControlRegisterWrite: reset values of Table 4.13, a number that it reserves, the flags, a loss scale at the
ends of its range, epc inside and outside the trap actor. -/
theorem test_control_registers :
    let s := start id (fun c => withTrapActor { c with ces := [(0, { Ce.reset with flags := 0x1F#5 })] })
      (firing [(1, 0x800000#64), (2, 0x7F000000#64), (3, 0x7F800000#64), (4, 0x15#64), (5, 0x80000000#64)])
    let u := start id id { firing [(1, 0x40#64)] with handling := some record, epc := 8#64 }
    let now := s.modCluster 0 (fun c => { c with ces := [(0, { Ce.reset with flags := 0x1F#5, raised := 1#5, raisedAt := (issued s).now })] })
    (okB (wr 0 0 6#6 0#64 (issued s)) && okB (rd 0 0 1#6 (issued s)) && after (exec (.csrr 6#6 5#6) s) 6#6 == some 0x3F800000#64 &&
      after (exec (.csrr 6#6 0x0C#6) s) 6#6 == some 0x1F#64 && after (exec (.csrr 6#6 0x10#6) s) 6#6 == some 0x78000#64 && after (exec (.csrr 6#6 0x11#6) s) 6#6 == some 0x80000#64 &&
      trapAfter (exec (.csrr 6#6 7#6) s) == some (Cause.seqIll, 0#64, 0#64) && trapAfter (exec (.csrr 6#6 63#6) s) == some (Cause.seqIll, 0#64, 0#64) &&
      after (exec (.csrr 6#6 0x0B#6) u) 6#6 == some 8#64 && after (exec (.csrr 6#6 0x08#6) u) 6#6 == some 0x2002#64 && after (exec (.csrr 6#6 0x08#6) s) 6#6 == some 0#64 &&
      (match exec (.csrw 1#6 5#6) s with | .next t => (t.cluster 0).lpend == some 0x800000#64 | _ => false) &&
      (match exec (.csrw 2#6 5#6) s with | .next t => (t.cluster 0).lpend == some 0x7F000000#64 | _ => false) &&
      trapAfter (exec (.csrw 3#6 5#6) s) == some (Cause.tapeLscale, 0x7F800000#64, 0#64) && trapAfter (exec (.csrw 5#6 5#6) s) == some (Cause.tapeLscale, 0x80000000#64, 0#64) &&
      (match exec (.csrw 4#6 0x0C#6) s with | .next t => (t.cluster 0).flags == 0x0A#5 | _ => false) &&
      (s.cluster 0).ces.all (fun e => e.2.raisedAt != (issued s).now) && (now.cluster 0).ces.all (fun e => e.2.raisedAt == (issued now).now) &&
      (match exec (.csrw 4#6 0x0C#6) now with | .next t => (t.cluster 0).flags == 0x0B#5 | _ => false) &&
      (match exec (.csrw 1#6 0x0B#6) u with | .next t => (t.firing 0 0).map (·.epc) == some 0x40#64 | _ => false) &&
      trapAfter (exec (.csrw 1#6 0x02#6) s) == some (Cause.seqIll, 0#64, 0#64)) = true := by decide +kernel

/-- InvalidationResult: the line at code offset 0, and the translation that a mapped state holds. -/
theorem test_invalidate :
    let s := mapped id id (firing [(1, 0#64), (2, 1#64), (3, 0x3FFFFFFF#64)])
    (okB (rd2 0 0 1#6 2#6 (issued s)) && (s.taskOf 0).isSome && pcAfter (exec .nop s) == some 4#64 && (SMap.find (s.cluster 0).icache 0).isSome &&
      (match exec (.icinv 1#6 2#6) s with | .next t => (SMap.find (t.cluster 0).icache 0).isNone | _ => false) &&
      (s.die 0).leafs.length == 1 && (match exec (.tlbinv 3#6 2#6) s with | .next t => (t.die 0).leafs == [] | _ => false)) = true := by decide +kernel

/-! ## Traps -/

/-- TrapTaken: a firing with a trap actor and a free context; a firing of a task without one; the trap actor's own. -/
theorem test_trapTaken :
    let s := start id withTrapActor (firing [(1, 3#64)])
    let u := regs []
    let w := start id withTrapActor { firing [] with handling := some record }
    (s.abortingAt 0 == none && (s.cluster 0).trapSlot == some 1 && (s.firing 0 1).isNone && (s.cluster 0).owner == some 1 && (s.task 1).isSome &&
      (u.cluster 0).trapSlot == none && ((w.firing 0 0).bind (·.handling)).isSome &&
      (match exec (.trap 1#6) s with
        | .next t => (t.firing 0 0).map (fun f => (f.pc, f.suspended.isSome)) == some (4#64, true) &&
            ((t.task 1).map (fun x => x.ring.map (fun r => (r.aux, r.epc)))) == some [(3#64, 4#64)] && ((t.cluster 0).slot 0).status == .suspended
        | _ => false) &&
      (match exec (.trap 1#6) u with | .next t => (t.task 1).map (fun x => (x.status, x.endCause)) == some (.ended, Cause.seqTrap) | _ => false) &&
      (match exec (.trap 0#6) w with | .next t => (t.task 1).map (fun x => (x.status, x.endCause)) == some (.ended, Cause.seqTrap) | _ => false)) = true := by
  decide +kernel

/-- FetchFaults: a budget of 65536 cycles that the next issue slot ends, one that it does not, and one that a `gbar.arr` outlasts; a
program counter beyond the code; a reserved word. -/
theorem test_fetchFaults :
    let f := ({ firing [] with started := some 0 } : Firing)
    let s := fun (n : Nat) => { start id withTrapActor f with now := n }
    let g := (s 65536).modCluster 0 (fun c => c.putFence 0 1 0 true)
    (((s 0).cluster 0).budget == 65536 && f.spent ((s 65536).nextIssue 0 0) 65536 && !f.spent ((s 65535).nextIssue 0 0) 65536 &&
      !((s 0).cluster 0).acting 0 && (g.cluster 0).acting 0 && trapAfter (exec (.seqBudget 0 0) (s 65536)) == some (Cause.seqBudget, 0#64, 0#64) &&
      trapAfter (exec (.seqBudget 0 0) (s 65535)) == none && trapAfter (exec (.seqBudget 0 0) g) == none &&
      trapAfter (exec (.seqIllWord 0#32) (s 0)) == some (Cause.seqIll, 0#64, 0#64) &&
      trapAfter (exec .seqPcFallThrough (start id withTrapActor { firing [] with pc := 0x80#64 })) == some (Cause.seqPc, 0x80#64, 0#64) &&
      fetch (start id id { firing [] with pc := 0x80#64 }) 0 0 == .off && fetch (State.reset.withFetchWord 32 0xFFFFFFFF) 0 0 == .illegal 0xFFFFFFFF#32) = true := by
  decide +kernel

/-- EndOfFiring: the slot goes idle, or exits; beats and EOS on its handles, and no room for them; `eret` outside the trap actor, and in it, whose
actor goes on or ends; a kill with a cause and without; `halt` beside
an idle slot; an exit of the trap actor while a trap waits. -/
theorem test_ends :
    let s := start id withTrapActor (firing [(1, 0x12345#64)])
    let w := { start id withTrapActor { firing [] with handling := some record, epc := 0x10000000C#64, slot := 1 } with agenda := [] }
    let x := { start id (fun c => withTrapActor { c with traps := [{ record with cause := 0x2001#16 }] })
      { firing [] with handling := some { record with r := false }, slot := 1 } with agenda := [] }
    let h := w.modCluster 0 (fun c => { c with ctxs := c.ctxs ++ [(2, { firing [(1, 7#64)] with suspended := some 0, slot := 3 })] })
    let m := start id (handles [.data 1#1024, .data 2#1024, .eos, .eok]) wrote
    let full := m.modChan 0 0x300 (fun ch => { ch with depth := 1, items := [.eor] })
    let left := fun (o : Host.Outcome State Fault Refusal) => match o with | .next t => (((t.cluster 0).chan 0x200).map (·.items)).getD [] | _ => []
    let he := h.modCluster 0 (fun c => c.setSlot 1 { c.slot 1 with ending := true })
    (sent (exec .fend m) == [.data 3#1024] && left (exec .fend m) == [.eos, .eok] && sent (exec .aexit m) == [.data 3#1024, .eos] && left (exec .aexit m) == [.eok] &&
      roomToEnd (issued m) 0 0 wrote 1 && !roomToEnd (issued full) 0 0 wrote 0 && !roomToEnd (issued full) 0 0 wrote 1 && m.abortingAt 0 == none &&
      pcAfter (exec .fend full) == some 0#64 && pcAfter (exec .aexit full) == some 0#64 && sent (exec .aexit full) == [.eor] &&
      ((he.cluster 0).slot 1).ending && ((he.cluster 0).slot 1).joins == [] && (he.cluster 0).traps == [] &&
      (match exec .eret he with | .next t => (t.firing 0 2).map (fun f => (f.pc, f.suspended)) == some (12#64, none) && ((t.cluster 0).slot 1).status == .exited | _ => false) &&
      s.abortingAt 0 == none && roomToEnd (issued s) 0 0 (firing []) 1 && ((s.cluster 0).slot 0).joins == [] && !((s.cluster 0).slot 0).ending &&
      (match exec .fend s with | .next t => (t.firing 0 0).isNone && ((t.cluster 0).slot 0).firing == 1#64 | _ => false) &&
      (match exec .aexit s with | .next t => ((t.cluster 0).slot 0).status == .exited | _ => false) &&
      trapAfter (exec .eret s) == some (Cause.seqIll, 0#64, 0#64) && (h.firing 0 2).isSome && record.ctx == 2 && record.r &&
      (match exec .eret h with | .next t => (t.firing 0 2).map (fun f => (f.pc, f.suspended, f.s.toList.getD 1 0#64)) == some (12#64, none, 7#64) | _ => false) &&
      (match exec (.tkill 1#6) s with | .next t => (t.task 1).map (fun x => (x.status, x.endCause)) == some (.ended, 0x2345#16) | _ => false) &&
      (match exec (.tkill 0#6) s with | .next t => (t.task 1).map (fun x => x.endCause) == some Cause.killed | _ => false) &&
      (x.cluster 0).trapSlot == some 1 && (List.range 16).all (fun m => m == 1 || !(x.cluster 0).slotTrap m) && (s.cluster 0).traps == [] &&
      (match exec .aexit x with | .next t => (t.task 1).map (fun x => (x.status, x.endCause)) == some (.ended, 0x2001#16) | _ => false) &&
      haltNow (issued s) 0 0 == [1] && (match exec .halt s with | .next t => ((t.cluster 0).slot 1).status == .exited | _ => false)) = true := by
  decide +kernel

/-! ## Commands and frames -/

/-- CommandEntersQueue: `mx.zero` with a semaphore, queues of 15 and of 16 commands, and a handle that takes no completions. -/
theorem test_command :
    let e := { ops 0#6 0#6 0#6 1#6 0#4 true 5#11 with tag := 7#8 }
    let filler : Cmd := { id := 0, cls := 3, sub := 9, cs := 0, a := 0#64, b := 0#64, c := 0#64, tag := 0, target := .none, parent := none, after := [] }
    let s := fun (n : Nat) => mapped id (fun c => withTrapActor (c.setQueue 3 (List.replicate n filler))) (firing [(1, 0x8000#64)])
    (commandCode (.mxZero e) == some (3, 9, e) && queueOf 3 == 3 && okB (targetOf 0 0 e (issued (s 15))) && ((issued (s 15)).cluster 0).offers 3 &&
      !((issued (s 16)).cluster 0).offers 3 &&
      (match exec (.mxZero e) (s 15) with
        | .next t => (((t.cluster 0).queue 3).getLast?).map (fun x => (x.cs, x.tag, x.target)) == some (5, 7, .sem 0x8000) | _ => false) &&
      pcAfter (exec (.mxZero e) (s 15)) == some 8#64 && pcAfter (exec (.mxZero e) (s 16)) == some 0#64 &&
      trapAfter (exec (.mxZero (ops 0#6 0#6 0#6 0#6 2#4 false 0#11)) (s 0)) == some (Cause.seqChan, 2#64, 0#64)) = true := by decide +kernel

/-- The frames: an instruction of each kind, and a state in which it has a next state. -/
theorem test_frames :
    let s := diffState [(1, 0x20000#64), (2, 8#64)] 0
    (regOnly (.add 3#6 1#6 2#6) == some [3#6] && regOnly .nop == some [] && loads (.popm 1#6 2#6) == some [52#6, 1#6, 2#6] && loads (.semRd 3#6 1#6) == some [3#6] &&
      posts (.semSig 1#6 2#6) == some [] && posts (.mxZero (ops 0#6 0#6 0#6 0#6 0#4 false 0#11)) == some [] && regOnly (.ldd 3#6 1#6 0#14) == none &&
      pcAfter (exec (.add 3#6 1#6 2#6) s) == some 4#64 && pcAfter (exec (.ldd 3#6 1#6 0#14) s) == some 4#64 && pcAfter (exec (.semSig 1#6 2#6) s) == some 4#64 &&
      pcAfter (exec (.stw 2#6 1#6 0#14) s) == some 4#64 && pcAfter (exec (.sts 2#6 2#6 0#14) s) == some 4#64 && pcAfter (exec (.pushm 1#6 2#6) s) == some 4#64 &&
      pcAfter (exec (.cas 3#6 1#6 2#6 0#4) s) == some 4#64 && pcAfter (exec (.csrw 2#6 0x0C#6) s) == some 4#64 && pcAfter (exec (.tapeMark 3#6 2#6) s) == some 4#64 &&
      !s.awaits 0x20000 && (postWrite 0 0 none none 0x20000 false [1#8, 2#8] s).awaits 0x20001 && !(postWrite 0 0 none none 0x20000 false [1#8, 2#8] s).awaits 0x20002) = true := by
  decide +kernel

/-! ## Steps of the other agents

For each statement about them, states that meet the hypotheses of its clauses. -/

/-- The state after an event; an event that answers no next state leaves reset, whose agenda marks it. -/
def ran (i : Instr) (s : State) : State :=
  match exec i s with
  | .next t => t
  | _ => { State.reset with agenda := [.wait 0] }

/-- Element 0 passes head 0 to output 0 through stage 1: configuration words FF00 to FFF0 with their CRC-32C (R60, R61). -/
def passStream : List Lane :=
  [0xFF000000#32, 0xFF010000#32, 0xFF020007#32, 0xFF030000#32, 0x00000001#32, 0x00010001#32, 0x00020001#32, 0x00100000#32,
   0x00110F3C#32, 0x00120001#32, 0xFFF10610#32, 0xFFF2EA93#32, 0xFFF0000C#32]

/-- A stream whose checksum is right and whose stage 1 has opcode $FF, which Table 7.4 lacks. -/
def illOp : List Lane :=
  [0xFF000000#32, 0xFF010000#32, 0xFF020007#32, 0xFF030000#32, 0x00000001#32, 0x0010FF00#32, 0xFFF1F357#32, 0xFFF2AC2E#32, 0xFFF00008#32]

/-- The same fields, as the cluster holds them. -/
def passFields (c : Cluster) : Cluster :=
  field 0 0 1#16 (field 0 1 1#16 (field 0 2 1#16 (field 0 0x11 0x0F3C#16 (field 0 0x12 1#16 c))))

def errorIs {α : Type} (e : Except Cause α) (c : Cause) : Bool := match e with | .error d => d == c | .ok _ => false

/-- ConfigurationEvents: a stream that is accepted, one with a wrong checksum, one whose element breaks a rule; fields that apply, and
that wait for a busy generator; a store that is replaced. -/
theorem test_configuration :
    let s := regs []
    let t := ran (.configCommit 0 passStream) s
    let bad := passStream.set 4 0#32
    let pend : Pending := { fields := [(2, 1#16), (0x1800, 0#16)], due := 0, replaced := [(0, 0)], mode := 0 }
    let ch : Chan := { completionChan with store := some { delta := 1, granules := 4, periods := [], a := 0, c := 0, issued := 0, ended := false, discard := false } }
    let u := s.modCluster 0 (fun c => { c.setChan 0 ch with pending := some pend })
    ((s.cluster 0).owner.isSome && (s.cluster 0).pending == none && (match parseStream passStream with | .ok (_, fs) => fs.length == 6 | _ => false) &&
      (t.cluster 0).pending.isSome && (t.cluster 0).cfg == (s.cluster 0).cfg &&
      errorIs (parseStream bad) Cause.cfgSum && errorIs (parseStream (passStream.drop 1)) Cause.cfgSeq && ran (.configCommit 0 bad) s == s.modCluster 0 (fun c => { c with report := Cause.cfgSum }) &&
      (match parseStream illOp with | .ok (_, fs) => errorIs (checkFields s 0 fs) Cause.cfgOp | _ => false) && ((ran (.configCommit 0 illOp) s).cluster 0).report == Cause.cfgOp &&
      errorIs (checkFields s 0 [(0, 1, 1), (0, 0x11, 0x0F3C), (0, 0x12, 1)]) Cause.cfgRoute && errorIs (checkFields s 0 [(0, 0x10, 0xFF00)]) Cause.cfgOp &&
      (match (t.cluster 0).pending with | some p => t.replacedIdle p && !busyUnit (t.cluster 0) p | none => false) &&
      ((ran (.configFieldsApply 0) t).cluster 0).sdesc 0 1 == 0x0F3C0001 && ((ran (.configFieldsApply 0) t).cluster 0).pending == none &&
      u.replacedIdle pend && !ch.live && ((ran (.storeRelease 0 0) u).cluster 0).chan 0 == some { ch with store := ch.store.map (fun st => { st with granules := 0 }) } &&
      !(u.modChan 0 0 (fun ch => { ch with live := true })).replacedIdle pend) = true := by decide +kernel

/-- An order of t beats of 32 lanes of FP32. -/
def beats (t : Nat) : Order := { ty := 0, rag := false, axes := [{ ext := 32, place := .lane, dim := 0 }, { ext := t, place := .beat, dim := 1 }] }

/-- A store of periods of two beats with start offset 2, which has taken a beats and issued c. -/
def store (ps : List Period) (a c issued : Nat) : Store :=
  { delta := 2, granules := 2, periods := ps, a := a, c := c, issued := issued, ended := false, discard := false }

def storeChan (st : Store) (its out : List Item) : Chan :=
  { completionChan with depth := 4, op := beats 2, oc := beats 2, items := its, store := some st, out := out }

def withChan (ch : Chan) : State := (regs []).modCluster 0 (fun c => c.setChan 0 ch)

/-- The channel after an event. -/
def chanAfter (i : Instr) (ch : Chan) : Option Chan := ((ran i (withChan ch)).cluster 0).chan 0

/-- StoreEvents: a beat below δ and at δ; EOS at a period's end; EOS and an abort token inside a period; an issue with both beats and
with one; a full consumer; a ring, one that is full, and a block of the pool that is a victim's. -/
theorem test_store_events :
    let b : Item := .data 5#1024
    let one : Period := { beats := [b], blocks := none, pre := [], post := [], closed := false }
    let two : Period := { beats := [b, .data 6#1024], blocks := none, pre := [], post := [], closed := true }
    let c0 := storeChan (store [one] 1 0 0) [b, .eos] []
    let c2 := storeChan (store [two] 2 0 0) [b] []
    let cm := storeChan (store [one] 1 0 0) [.eos] []
    let ca := storeChan (store [one] 1 0 0) [.abort 3#16, b] []
    let ring := { storeChan (store [] 0 0 0) [] [] with store := none, ringSize := 4, spilling := [(3, b)] }
    let pool := (withChan c0).modCluster 0 (fun c => { c with poolBlocks := [3], claims := [(35, 9)] })
    ((store [one] 1 0 0).allows (beats 2) b && (chanAfter (.storeAccept 0 0) c0).bind (fun ch => ch.store.map (·.a)) == some 2 &&
      chanAfter (.storeAccept 0 0) c2 == some c2 && !(store [one] 1 0 0).allows (beats 2) .eos && (store [two] 2 0 0).allows (beats 2) .eos &&
      (chanAfter (.storeAccept 0 0) (storeChan (store [two] 2 0 0) [.eos] [])).bind (fun ch => ch.store.map (·.ended)) == some true &&
      (chanAfter (.storeAbort 0 0) cm).map (fun ch => (ch.out, ch.store.map (·.discard))) == some ([.abort Cause.ordStream], some false) &&
      (chanAfter (.storeAbort 0 0) ca).map (fun ch => (ch.out, ch.items, ch.store.map (·.a))) == some ([.abort 3#16], [b], some 0) &&
      ((store [two] 2 0 0).trim.next c2).isSome && (chanAfter (.storeIssue 0 0) c2).map (·.out) == some [b] &&
      ((store [one] 1 0 0).next c0).isNone && !(store [one] 1 0 0).drained (beats 2) one &&
      chanAfter (.storeIssue 0 0) { c2 with out := [b, b, b, b] } == some { c2 with out := [b, b, b, b] } &&
      (chanAfter (.ringSpill 0 0) ring).map (fun ch => (ch.spilling, ch.ring)) == some ([], [b]) &&
      chanAfter (.ringSpill 0 0) { ring with ring := [b, b, b, b] } == some { ring with ring := [b, b, b, b] } &&
      ((pool.cluster 0).poolBlocks.any (fun k => pool.claimed 0 (32 + k))) && ran (.storeAccept 0 0) pool == pool && ((withChan c0).cluster 0).poolBlocks == [] &&
      (chanAfter (.ringRefill 0 0) { ring with ring := [b, .eos] }).map (fun ch => (ch.ring, ch.items)) == some ([.eos], [b]) &&
      chanAfter (.ringRefill 0 0) { ring with ring := [b], items := [b, b, b, b] } == some { ring with ring := [b], items := [b, b, b, b] }) = true := by
  decide +kernel

/-- Element 0 in a state, with items at head 0 and a channel of four slots behind output 0. -/
def elementState (its : List Item) (x : Ce) (c : Cluster → Cluster) : State :=
  (regs []).modCluster 0 (fun k => (c (passFields (k.setCe 0 x))).setChan 0x10 { completionChan with depth := 4, prodPort := portKey 0 4 }
    |>.setChan (portKey 0 0) { completionChan with depth := 4, items := its, live := true })

def ceAfter (i : Instr) (s : State) : Ce := ((ran i s).cluster 0).ce 0

/-- ElementFires: a data beat and a DROP beat that pass; no room. -/
theorem test_element_fires :
    let s := elementState [.data 5#1024] Ce.reset id
    let d := elementState [.drop 6#1024] Ce.reset id
    let full := s.modChan 0 0x10 (fun ch => { ch with items := [.eor, .eor, .eor, .eor] })
    (ceReady s 0 0 && fronts s 0 0 == [(0, some (.data 5#1024))] && !(s.cluster 0).cePark 0 && (s.cluster 0).ceFlow 0 == 0 && !(s.cluster 0).ceLag 0 &&
      stepCounters (s.cluster 0) 0 Ce.reset.lc == ([0, 0, 0, 0], []) && ceRoom s 0 0 1 && (s.cluster 0).routeOf 0 0 == some 1 &&
      (ceAfter (.ceFire 0 0) s).pipe == [{ exit := 6, o0 := [.data 5#1024], o1 := [] }] && s.now == 0 && fireCycle s Ce.reset == 0 &&
      (ceAfter (.ceFire 0 0) d).pipe.map (·.o0) == [[.drop 6#1024]] && !ceRoom full 0 0 1 && ran (.ceFire 0 0) full == full) = true := by decide +kernel

/-- Element 0 with two heads in use, one item at each. -/
def twoHeads (a b : Item) : State :=
  (elementState [a] Ce.reset (field 0 1 0x11#16)).modCluster 0 (fun c => c.setChan (portKey 0 1) { completionChan with depth := 4, items := [b], live := true })

/-- What stands at output 0 of element 0. -/
def output (s : State) : List Item := (((s.cluster 0).chan 0x10).map (·.items)).getD []

/-- ElementTokens: EOR, BOUND, EOS; an abort token, tokens that differ, a token beside a beat; the end of a phase, which waits for the pipeline,
and the token that a PARK steer held; the pipeline with room, without, and behind a skid; a skid. -/
theorem test_element_tokens :
    let s := fun (it : Item) => elementState [it] Ce.reset id
    let e := elementState [] { Ce.reset with eos := true, lc := [1, 0, 0, 0] } id
    let fl : Flight := { exit := 9, o0 := [.eor], o1 := [] }
    let p := elementState [] { Ce.reset with pipe := [fl], skid0 := [.eok], skid1 := [.eor] } id
    let q := elementState [] { Ce.reset with pipe := [fl] } id
    let full := fun (s : State) => s.modChan 0 0x10 (fun ch => { ch with items := [.eor, .eor, .eor, .eor] })
    let k := elementState [] { Ce.reset with heldTok := some .eor } id
    let two := twoHeads (.data 5#1024) .eor
    let ends := fun (s : State) => (((ceAfter (.ceToken 0 0) s).pipe.map (·.o0)), (((ran (.ceToken 0 0) s).cluster 0).chan (portKey 0 0)).map (fun ch => (ch.items, ch.sink)))
    (ceReady (s .eor) 0 0 && idleHeads (s .eor) 0 0 == [] && fronts (s .eor) 0 0 == [(0, some .eor)] && ceRoom (s .eor) 0 0 1 &&
      (ceAfter (.ceToken 0 0) (s .eor)).pipe.map (·.o0) == [[.eor]] && (ceAfter (.ceToken 0 0) (s .eok)).pipe.map (·.o0) == [[.eok]] &&
      (ceAfter (.ceToken 0 0) (s .eos)).eos && roomForEnd e 0 0 && (ceAfter (.ceEosEmit 0 0) e).lc == [0, 0, 0, 0] &&
      (((ran (.ceEosEmit 0 0) e).cluster 0).chan 0x10).map (·.items) == some [.eos] && (ceAfter (.pipelineExit 0 0) p).pipe == [] &&
      (ceAfter (.ceToken 0 0) (s (.bound 7))).pipe.map (·.o0) == [[.bound 7]] && ends (s (.abort 5#16)) == ([[.abort 5#16]], some ([], false)) &&
      ends two == ([[.abort Cause.ordStream]], some ([], true)) && ends (twoHeads .eor .eos) == ([[.abort Cause.ordStream]], some ([], true)) &&
      (fronts two 0 0).map (·.1) == [0, 1] && ceReady two 0 0 && idleHeads two 0 0 == [] && ceRoom two 0 0 1 && abortAmong (fronts two 0 0) == none &&
      (let e2 := e.modCluster 0 (fun c => c.setCe 0 { c.ce 0 with pipe := [fl] }); ran (.ceEosEmit 0 0) e2 == e2) && !roomForEnd (full e) 0 0 && ran (.ceEosEmit 0 0) (full e) == full e &&
      output (ran (.ceEosEmit 0 0) k) == [.eor] && (ceAfter (.ceEosEmit 0 0) k).heldTok == none && output (ran (.pipelineExit 0 0) q) == [.eor] &&
      output (ran (.pipelineExit 0 0) p) == [] && (ceAfter (.pipelineExit 0 0) p).skid0 == [.eok, .eor] && (ceAfter (.pipelineExit 0 0) (full q)).skid0 == [.eor] &&
      output (ran (.skidDrain 0 0 0) p) == [.eok] && ran (.skidDrain 0 0 0) (full p) == full p && (ran (.pipelineExit 0 0) p).now == 9 && p.hasFree 0 (portKey 0 4) 1 && p.hasFree 0 (portKey 0 5) 1 && (ceAfter (.skidDrain 0 0 0) p).skid0 == [] &&
      (ceAfter (.skidDrain 0 0 1) p).skid1 == []) = true := by decide +kernel

/-- A phase of generator 0 of one tile. -/
def phase0 : Phase :=
  { cmd := none, sub := 2, base := 0, offs := [0, 0, 0, 0], trips := [1, 1, 1, 1], ragged := none, tc := [0, 0, 0, 0], t := 0,
    opened := false, buf := [], passes := 1, entry := 0, val := none, stop := false, full := false, ended := false, bytes := 0,
    status := 0#16, id := 0, limit := 0, discard := false, part := 0, held := false }

/-- Generator 0 of cluster 0, with a channel of four slots at its port. -/
def agState (ctl : BitVec 16) (a : Ag) (its : List Item) (c : Cluster → Cluster) : State :=
  (regs []).modCluster 0 (fun k => ((c (field 0x18 0 ctl (k.setAg 0 a))).setChan 0x10 { completionChan with depth := 4, prodPort := agPort 0 }).setChan
    (agPort 0) { completionChan with depth := 4, items := its, live := true })

def agAfter (i : Instr) (s : State) : Ag := ((ran i s).cluster 0).ag 0

/-- A stream of generator 0 (R184). -/
def stream (sub : Nat) : Cmd := { id := 7, cls := 0, sub := sub, cs := 0, a := 0#64, b := 0#64, c := 0#64, tag := 5, target := .none, parent := none, after := [] }

/-- A run of a command, waiting to begin. -/
def runOf (x : Cmd) (aux : Nat) : Run :=
  { cmd := x, q := queueOf x.cls, unit := 0, k := 0, n := 0, count := 0, status := 0#16, buf := [], done := false, did := [], waits := [], aux := aux }

/-- GeneratorEvents: starts by AUTO, by START, by a command, and by AUTO before one; EOS at a writer, and a held beat of a reader; bank 0, and a bank that
another task owns. -/
theorem test_generator :
    let auto := agState 1 { Ag.reset with auto := true } [] id
    let sw := agState 1 Ag.reset [] (fun c => field 0x24 0x18 1#16 { c with starts := [0x18] })
    let cmd := agState 1 Ag.reset [] (fun c => { c with running := [runOf (stream 1) 0] })
    let both := agState 1 { Ag.reset with auto := true } [] (fun c => { c with running := [runOf (stream 1) 0] })
    let wr := agState 3 { Ag.reset with phase := some phase0 } [.eos] id
    let rdr := agState 1 { Ag.reset with phase := some { phase0 with buf := [9#1024] } } [] id
    let ask := fun (d : Option Beat) => agState 1 { Ag.reset with phase := some phase0, req := some { bank := 0, addr := 0x80, data := d, made := 0 } } [] id
    ((auto.cluster 0).agEn 0 && !auto.settling 0 (agEl 0) && !(auto.cluster 0).stopping && waitingRun (auto.cluster 0) 0 == none &&
      (agAfter (.agPhaseStart 0 0) auto).phase.isSome && !(agAfter (.agPhaseStart 0 0) auto).auto && (sw.cluster 0).swTile (agEl 0) &&
      (agAfter (.agPhaseStart 0 0) sw).phase.isSome && ((ran (.agPhaseStart 0 0) sw).cluster 0).starts == [] && (waitingRun (cmd.cluster 0) 0).isSome &&
      (agAfter (.agPhaseStart 0 0) cmd).phase.map (·.cmd) == some (some 7) && !emits wr 0 0 && emits rdr 0 0 && !phase0.records &&
      (waitingRun (both.cluster 0) 0).isSome && !(both.cluster 0).swTile (agEl 0) && (agAfter (.agPhaseStart 0 0) both).phase.map (·.cmd) == some none &&
      (agAfter (.agBeat 0 0) wr).phase == none && rdr.hasFree 0 (agPort 0) 1 && (((ran (.agBeat 0 0) rdr).cluster 0).chan 0x10).map (·.items) == some [.data 9#1024] &&
      nextGrant 11 (((ask none).cluster 0).asking 0) == some 0 && !(ask none).claimed 0 0 && (agAfter (.bankGrant 0 0) (ask none)).phase.map (·.bytes) == some 128 &&
      (((ran (.bankGrant 0 0) (ask (some 0x55#1024))).cluster 0).spad.read 1 0x80) == 0x55 && (ask none).claimed 0 31 == false) = true := by
  decide +kernel

/-- TileEvents: a bank with a successor, and one without; a START, a DONE for a generator; a copy that has ended. -/
theorem test_tile :
    let t := fun (nv : Bool) => (regs []).modCluster 0 (fun c => { c with tokens := [(31, { own := 1, ov := true, nxt := 2, nv := nv })], handoffs := [{ bank := 31, due := 3 }] })
    let k := fun (x : CtlTok) => agState 1 { Ag.reset with phase := some phase0 } [] (fun c => { c with ctlFly := [x] })
    let b := (regs []).modCluster 0 (fun c => { c with board := [{ cmd := 7, lo := 0, hi := 128, done := some 5, made := 0 }] })
    (!((t true).cluster 0).swTile (0x10 + 31 / 4) && ((ran (.bankHandoff 0 31) (t true)).cluster 0).token 31 == { own := 2, ov := true, nxt := 2, nv := false } &&
      !(((ran (.bankHandoff 0 31) (t false)).cluster 0).token 31).ov && (ran (.bankHandoff 0 31) (t true)).now == 3 &&
      ((ran (.controlTokenDeliver 0 0) (k { tile := 0xF, done := false, due := 2 })).cluster 0).starts == [0xF] &&
      ((ran (.controlTokenDeliver 0 0) (k { tile := 0x18, done := false, due := 2 })).cluster 0).starts == [0x18] &&
      (agAfter (.controlTokenDeliver 0 0) (k { tile := 0x18, done := true, due := 2 })).phase.map (·.stop) == some true &&
      ((ran (.scoreboardRetire 0 0) b).cluster 0).board == [] && (ran (.scoreboardRetire 0 0) b).now == 5) = true := by decide +kernel

/-- EngineEvents: a command whose turn it is; `mx.zero` of tile 3; a beat of a bulk read; a completion at a handle and at a semaphore, of a run that failed; one whose writes are on
their way; a follow-on. -/
theorem test_engine :
    let c0 := (regs []).modCluster 0 (fun c => c.setQueue 0 [stream 1])
    let fin := fun (t : Target) (st : Cause) => (regs []).modCluster 0 (fun c =>
      { c with running := [{ runOf { stream 1 with target := t } 1 with done := true, status := st, count := 9 }] })
    let busy := postWrite 0 1 (some 7) none 0x100 false [1#8] (fin .none 0#16)
    let mx : Cmd := { stream 1 with cls := 2, b := 3#64, c := 0x5#64 }
    let zero := (regs []).modCluster 0 (fun c => field 0x21 0 1#16 ({ c with mx := { c.mx with acc := [(5, 1#32), (49152, 2#32)] } }.setQueue 3 [{ stream 9 with cls := 3, cs := 8 }]))
    let bulk := { (data [] (fun c => { c with running := [{ runOf { stream 0 with a := 0x100#64, b := 0x80#64, c := 128#64 } 0 with n := 1 }] })) with agenda := [.engine 0 7 0] }
    let still := { bulk with agenda := [], asked := none }
    let two := fun (first : Bool) => { (regs []).modCluster 0 (fun c => { c with running := [{ runOf (stream 1) 1 with done := true }, { runOf { stream 1 with id := 8 } 1 with done := first }] }) with
      settled := [(0, 8), (0, 7)] }
    let rid := { fin .none 0#16 with net := [{ header := 0#64, payload := 0#512, crc := 0#16, load := .completion 0 7, task := some 1, legs := [], pos := 0, waiting := false, tries := 0 }] }
    let fol := (regs []).modCluster 0 (fun c => { c with running := [runOf mx 2] })
    (ready c0 0 0 && turnOf c0 0 0 && (c0.cluster 0).owner.isSome && c0.abortingAt 0 == none && ((ran (.engineStart 0 0) c0).cluster 0).queue 0 == [] &&
      ((ran (.engineStart 0 0) c0).cluster 0).running.map (·.cmd) == [stream 1] && ready zero 0 3 && turnOf zero 0 3 &&
      ((ran (.engineStart 0 3) zero).cluster 0).mx.acc == [(5, 1#32)] && !bulk.rides 0 (4 + 7) && spadOpen still 0 0x80 128 bulk.nextId &&
      okB (engRead 0 0x100 128 still) && (match step bulk with | .next t => (t.cluster 0).spad.read 8 0x80 == 0x1122334455667788 | _ => false) &&
      writesDone (fin .none 0#16) 0 7 && !writesDone busy 0 7 &&
      ran (.completionPost 0 7) busy == busy && (fin .none 0#16).completed 0 (((fin .none 0#16).cluster 0).running.headD (runOf mx 0)) &&
      (fin .none 0#16).postsNext 0 (((fin .none 0#16).cluster 0).running.headD (runOf mx 0)) && !(fin .none 0#16).onWay (.completion 0 7) && rid.onWay (.completion 0 7) &&
      ran (.completionPost 0 7) rid == rid && !(two true).postsNext 0 ((((two true).cluster 0).run 7).getD (runOf mx 0)) && ran (.completionPost 0 7) (two true) == two true &&
      ((((two true).cluster 0).run 8).any (fun q => (two true).completed 0 q)) && (two false).postsNext 0 ((((two false).cluster 0).run 7).getD (runOf mx 0)) &&
      (((ran (.completionPost 0 7) (fin (.handle 15) 0#16)).cluster 0).chan (portKey 0x20 15)).map (·.items) == some [.data 0x50100000009#1024] &&
      (ran (.completionPost 0 7) (fin (.sem 0x8000) 0#16)).nmops.map (·.kind) == [.sig 1#64] &&
      (ran (.completionPost 0 7) (fin (.sem 0x8000) Cause.strArg)).nmops.map (·.kind) == [.sig 0x10000000001#64] &&
      ((fol.cluster 0).running.find? Run.landed).isSome && ((fol.cluster 0).queue 3).length == 0 &&
      ((ran (.followOnEnqueue 0 7) fol).cluster 0).queue 3 ==
        [{ id := fol.nextId, cls := 3, sub := 5, cs := 0, a := 0#64, b := 3#64, c := 0#64, tag := 5, target := .none, parent := some 7, after := [] }]) = true := by decide +kernel

/-- A queue flit of cluster 1's slot 0 to slot 1 of cluster 0. -/
def flit (qn : Nat) (v : Word) : Flit := { fromCl := 1, fromSlot := 0, toCl := 0, toSlot := 1, qn := qn, v := v }

/-- SequencerEvents: an idle actor that may fire, the trap actor with a pending record, a miss that fills and one that does not translate,
flits of one sender and of another queue. -/
theorem test_sequencer :
    let a := start id (fun c => field 0x20 0 1#16 (field 0x20 0x40 1#16 { c with slots := [(0, Slot.reset)] })) (firing [])
    let a0 := a.modCluster 0 (fun c => { c with ctxs := [] })
    let tr := (start id (fun c => withTrapActor (field 0x20 0 1#16 { c with traps := [record] })) (firing []))
    let miss := (mapped id id (firing [])).modCluster 0 (fun c => { c with icache := [] })
    let off := (start (fun t => { t with root := 0x1000 }) withTrapActor (firing [])).modCluster 0 (fun c => { c with icache := [] })
    let fl := { regs [] with flits := [flit 2 5#64, flit 2 6#64, flit 3 7#64] }
    (a0.fires 0 && !a0.settling 0 0x20 && ((refresh a0 0).cluster 0).trapDue == none && ((refresh a0 0).cluster 0).freeCtx == some 0 && ((refresh a0 0).cluster 0).nextActor == some 0 &&
      ((ran (.firingStart 0) a0).firing 0 0).map (fun g => (g.slot, g.pc, g.s.toList.getD 2 1#64)) == some (0, 0#64, 0#64) && tr.fires 0 &&
      (tr.cluster 0).trapDue == some 1 && (tr.cluster 0).freeCtx == some 1 &&
      ((ran (.trapActorFire 0) tr).firing 0 1).map (fun g => (g.slot, g.epc, g.s.toList.getD 6 0#64, g.s.toList.getD 9 0#64)) == some (1, 8#64, 6#64, 10#64) &&
      fetch miss 0 0 == .miss && icacheWord (miss.cluster 0) 0 == none && okB ((miss.taskOf 0).elim .stall (fun t => codeRead 0 t t.codeVA 128 miss)) &&
      fetch (ran (.icacheFill 0 0) miss) 0 0 != .miss && fetch off 0 0 == .miss && trapAfter (exec (.icacheFill 0 0) off) == some (Cause.xlateNp, 0#64, 0x1000#64) &&
      SMap.get ((ran (.queueFlitArrive 0) fl).cluster 0).qbufs [] 6 == [5#64] && ran (.queueFlitArrive 1) fl == fl &&
      SMap.get ((ran (.queueFlitArrive 2) fl).cluster 0).qbufs [] 7 == [7#64]) = true := by decide +kernel

/-- A flit of message 5 on a bridge of task 1, or on a loop, that has failed a number of times; one of its bits turned. -/
def netFlit (bridge : Bool) (tries : Nat) : NetFlit :=
  { header := 0x12345#64, payload := 9#512, crc := flitCrc 0x12345#64 9#512, load := .posted 5, task := some 1,
    legs := if bridge then [.bridge 0 1 2, .loop 1 3 4] else [.loop 0 3 4], pos := 0, waiting := false, tries := tries }

def oneBit : BitVec 592 := 1#592

/-- LinkEvents: a flit that passes; the seventh and the eighth failure, on a loop, on a bridge and at a port; a frame; throttling by each
of the three measures and at each state. -/
theorem test_link :
    let s := fun (b : Bool) (n : Nat) => { regs [] with net := [netFlit b n] }
    let p := fun (n : Nat) => { regs [] with hub := { Hub.reset with linkRetry := [(15, n)] } }
    let th := fun (n : Nat) => { regs [] with fw := { Firmware.reset with throttled := n, drawLimit := 3000 } }
    let status := fun (t : State) => (t.task 1).map (fun x => (x.aborting, x.endCause, x.status))
    let ends := fun (b : Bool) (c : Cause) => (status (ran (.loopFlitRetransmit 0 1 0 0 0) (s b 7))).any (fun x => x.1 == some c || x.2.1 == c)
    (((netFlit true 3).received 0#592).good && !((netFlit true 3).received oneBit).good && ((netFlit true 3).received 0#592 == netFlit true 3) &&
      (ran (.loopFlitRetransmit 0 0 0 0 0) (s true 3)).net.map (·.tries) == [0] && (ran (.loopFlitRetransmit 0 1 0 0 0) (s true 6)).net == [netFlit true 7] &&
      ((s true 7).task 1).any (fun x => x.live && x.aborting == none) && ends true Cause.errBridge && ends false Cause.errLoop &&
      ran (.loopFlitRetransmit 1 0 0 0 0) (s true 3) == s true 3 && (ran (.loopFlitRetransmit 0 1 0 0 0) (s true 6)).now == (s true 6).now + 4 &&
      SMap.find (ran (.linkRetry 15 false) (p 6)).hub.linkRetry 15 == some 7 && (ran (.linkRetry 15 false) (p 7)).hub.linkDown == [15] &&
      (ran (.linkRetry 15 true) (p 7)).hub.linkDown == [] && ran (.linkRetry 16 false) (p 7) == p 7 && (ran .qosFrameBoundary (p 0)).now % Config.frameCycles == 0 &&
      ((ran .qosFrameBoundary (p 0)).die 3).quota == fullQuota && (ran (.throttle ⟨401, 4000, 3000⟩) (th 0)).fw.throttled == 1 &&
      (ran (.throttle ⟨400, 3999, 3000⟩) (th 1)).fw.throttled == 2 && (ran (.throttle ⟨400, 4000, 3001⟩) (th 2)).fw.throttled == 3 &&
      ran (.throttle ⟨401, 0, 9999⟩) (th 3) == th 3 && (ran (.throttle ⟨400, 4000, 3000⟩) (th 3)).fw.quotas == fullQuota) = true := by decide +kernel

/-- R204, R205: 56 loops, 14 at every stop; the rule's messages from (2, 1) to (5, 6), over pair {1, 6} clockwise in 8 hops, and to (6, 1), over
pair {1, 3} clockwise in 4. R208: the check value of the CRC with polynomial $1021 and initial value $FFFF. R210: a frame of 64 KiB lies in one slice. -/
theorem test_loops :
    (rowPairs.length == 28 && (List.range 64).all (fun st => ((List.range 56).filter (fun l => (loopSeq l).contains st)).length == 14) &&
      loopSeq 0 == [0, 1, 2, 3, 4, 5, 6, 7, 15, 14, 13, 12, 11, 10, 9, 8] && loopSeq 1 == (loopSeq 0).reverse &&
      loopFor 10 53 == loopOf 1 6 true && loopHops (loopFor 10 53) 10 53 == 8 && loopFor 10 14 == loopOf 1 3 true && loopHops (loopFor 10 14) 10 14 == 4 &&
      crc16 [0x31, 0x32, 0x33, 0x34, 0x35, 0x36, 0x37, 0x38, 0x39] == 0x29B1 && sliceOf 0x20000 == 2 && sliceOf 0x2FFFF == 2 && sliceOf 0x420000 == 3) = true := by
  decide +kernel

/-- OrderEvents: an open batch, a closed one with and without its writes applied, notices that may apply and that may not, at the ends
of the buffer. -/
theorem test_order :
    let b : Batch := { num := 4#32, clock := [4#32, 0#32, 0#32, 0#32], lines := [2], since := 0, task := some 1 }
    let s := (regs []).modDie 0 (fun d => { d with batch := some b })
    let c := (regs []).modDie 0 (fun d => { d with closed := [b] })
    let w := { c with inflight := [{ id := 3, cl := 0, src := 0, cmd := none, pa := 0x100, ms := false, bytes := [1#8], batch := some (0, 4#32), shown := false,
                                     ctx := none, task := none, after := [], frame := none }] }
    let n := fun (k : Lane) => ({ src := 0, clock := [k, 0#32, 0#32, 0#32], lines := [2], task := some 1 } : Notice)
    let r := (regs []).modDie 1 (fun d => { d with notices := List.replicate 63 (n 2#32) ++ [n 1#32, { n 1#32 with lines := [3] }], rdc := [(2, 0#1024)] })
    (((ran (.batchClose 0) s).die 0).closed == [b] && (ran (.batchClose 0) s).now == 32 && ran (.batchClose 0) (regs []) == regs [] &&
      batchApplied c 0 4#32 && !batchApplied w 0 4#32 &&
      ((ran (.noticeSend 0 4) c).die 3).notices == [n 4#32] && ((ran (.noticeSend 0 4) c).die 0).notices == [] &&
      ran (.noticeSend 0 4) w == w && (r.die 1).mayApply (n 1#32) && !(r.die 1).mayApply (n 2#32) && (SMap.find ((ran (.noticeApply 1 63) r).die 1).rdc 2).isNone &&
      ((ran (.noticeApply 1 63) r).die 1).aVec == [1#32, 0#32, 0#32, 0#32] && ((ran (.noticeApply 1 63) r).die 1).dVec == [1#32, 0#32, 0#32, 0#32] &&
      ran (.noticeApply 1 0) r == r && ran (.noticeApply 1 64) r == r) = true := by decide +kernel

/-- HomeEvents: writes of a sequencer in order and out of order, near-memory operations, one on a cell that holds a sum, lines in error, the
second of a pair among them, a line that the host may hold, waiters, a scrub. -/
theorem test_home :
    let s := postWrite 0 0 none none 0x17E false [3#8] (postWrite 0 0 none none 0x17E false [1#8, 2#8] (data [] id))
    let n := postNm 0 none none 0x8000 (.rmw 1 2 4#64) (postNm 0 none none 0x8000 (.sig 9#64) (data [] id))
    let p := postNm 0 none none 0x100 (.pair 0x180 [7#8]) (data [] id)
    let w : Waiter := { cl := 0, ctx := 0, pa := 0x8000, target := 5#64, ok := false, polling := false, queue := none }
    let q := { data [] id with waiters := [w, { w with polling := true }] }
    let hot := { s with poison := [2] }
    let hotPair := { p with poison := [3] }
    let first : MemReq := { id := 0, cl := 0, src := 0, cmd := none, pa := 0, ms := false, bytes := [], batch := none, shown := false, ctx := none, task := none, after := [], frame := none }
    let kept := fun (s : State) => { s with hostLines := [2] }
    let sum := { n with nmops := n.nmops.take 1, held := [{ pa := 0x8000, v := 0#32, source := 0, number := 0, epoch := 0#64, exp := 0, cl := 0, task := some 1 }] }
    let ends := fun (t : State) => (t.task 1).any (fun x => x.aborting == some Cause.errHbm || x.endCause == Cause.errHbm)
    (s.inflight.map (fun r => s.msgBlocked (.write r)) == [false, true] && ran (.appliedAtHome 1) s == s && (ran (.appliedAtHome 0) s).mem.read 2 0x17E == 0x201 &&
      s.inflight.map (fun r => s.mayAct (.write r)) == [true, false] && (s.homeError 0x17E 2).isNone && hot.homeError 0x17E 2 == some Cause.errHbm && (hot.task 1).any (fun x => x.live && x.aborting == none) &&
      hot.inflight.map (·.task) == [some 1, some 1] && ends (ran (.appliedAtHome 0) hot) &&
      n.nmops.map (fun o => n.msgBlocked (.near o)) == [false, true] && n.nmops.map (fun o => n.mayAct (.near o)) == [true, false] &&
      n.nmops.all (fun o => ((Msg.near o).error n).isNone) && hotPair.nmops.all (fun o => (Msg.near o).error hotPair == some Cause.errHbm) && ends (ran (.nmUpdate 0) hotPair) &&
      !(kept s).mayAct (.write ((s.inflight.head?).getD first)) && (kept s).hostHolds 0x17E 2 && ran (.appliedAtHome 0) (kept s) == kept s && !(sum.held.any (fun h => h.covers 0x18000)) &&
      (ran (.nmUpdate 0) sum).held == [] && sum.nmops.all (fun o => sum.mayAct (.near o)) && ran (.nmUpdate 1) n == n && (ran (.nmUpdate 0) n).mem.read 8 0x8000 == 14 &&
      (ran (.nmUpdate 0) (ran (.nmUpdate 0) n)).mem.read 8 0x8000 == 18 && (ran (.nmUpdate 0) p).mem.read 1 0x180 == 7 && (ran (.nmUpdate 0) p).mem.read 1 0x100 == 7 &&
      stackOf 0x8000 == 0 && semMeets q.mem 0x8000 5#64 && !semMeets q.mem 0x8000 6#64 && (ran (.semFrameReread 0) q).waiters.map (·.ok) == [true, false] &&
      (ran (.semPollRetry 0 0) q).waiters.map (·.ok) == [false, true] && (SMap.find (q.die 0).scrubbed 0).isNone && (ran (.hbmScrub 0 [1, 2]) q).poison.length == 2) = true := by
  decide +kernel

/-! ### Tasks, experts and the host -/

/-- An object of class 2, OBJID 7, one code word, one macro of one cluster without streams. -/
def object : XObject :=
  { header := [0x700000021#64, 0#64, 0#64, 0#64, 0#64, 0#64, 4#64, 0#64], leases := [], tensors := [],
    macros := [{ cols := 1, rows := 1, streams := [] }], code := [0x0451400F#32], relocs := [], succs := [], data := [], signature := [],
    dataVA := 0x200000, codeVA := 0x200000 }

/-- Object 5 is loaded, and task 2 of it is the head of queue 8. -/
def queued (t : Task → Task) (ld : Loaded) (s : State) : State :=
  let s1 := s.setTask 2 (t { bareTask with handle := 5, status := .queued, cls := 2, origins := [], clusters := [], root := 0x1000, ready := false })
  { s1 with fw := { s1.fw with queues := [(8, [2])], objects := [(5, ld)] } }

def loaded : Loaded := { obj := object, root := some 0x1000, leased := false }

/-- Tensor 1 of task 1: a windowed FP32 tensor of one tile; generator 0 publishes tile 0. -/
def windowed (live : Bool) : State :=
  (start (fun t => { t with
      status := if live then .running else .ended, leases := [{ base := 0, size := 1048576, window := 131072 }],
      tensors := [(1, [BitVec.ofNat 64 (0x890 + 14 * 268435456), 0x100000008#64, 0x100000001#64, 0x100000001#64, 0#64])] })
    (fun c => c.setAg 0 { Ag.reset with tail := some (1, 0) }) (firing []))

/-- LaunchEvents: a launch that is made ready, and one with a bad tensor; a semaphore that is misaligned, and one that the launch waits for; a head
on a free cluster, and one that a stale entry of the relocated-configuration cache refuses; an empty package; a window, one that a write on
its way holds, and one whose leaving tile lies in error. -/
theorem test_launch :
    let r := queued id { loaded with leased := true } walked
    let f := queued (fun t => { t with tensors := [(1, [0x80#64])] }) { loaded with leased := true } walked
    let d := queued (fun t => { t with ready := true, clusters := [1], origins := [(1, 0)] }) loaded walked
    let x := (d.task 2).getD bareTask
    let m := queued (fun t => { t with sema := 4 }) { loaded with leased := true } walked
    let v := queued (fun t => { t with sema := 0x200100, semt := 5#64, leases := [{ base := 0x200000, size := 4096, window := 0 }] }) { loaded with leased := true } walked
    let old := { d with fw := { d.fw with fuse := 1, reloc := [(7, 1, 0)] }, adjTags := [(3, 0#64, 1)] }
    let ill := { (windowed true).modCluster 0 (fun c => field 0x18 0 7#16 (field 0x18 1 1#16 c)) |>.modTask 1 (fun t => { t with tiles := [(4294967296 + 5, { r := true, ms := false, frame := 9 })] })
      with poison := [9 * 512] }
    let wt := fun (s : State) => (s.task 1).getD bareTask
    let held := (postWrite 0 0 none none 0x90000 false [1#8] (windowed true)).modTask 1 (fun t => { t with tiles := [(4294967296 + 5, { r := true, ms := false, frame := 9 })] })
    (r.head 8 == some 2 && (r.task 2).any (fun x => !x.ready && x.sema == 0) && (match prepare r ((r.task 2).getD bareTask) { loaded with leased := true } with
        | .ok _ => true | .error _ => false) && ((ran (.launchReady 8) r).task 2).map (·.ready) == some true &&
      (match prepare f ((f.task 2).getD bareTask) { loaded with leased := true } with | .ok _ => false | .error e => e == (Cause.leaseTensor, 1)) &&
      ((ran (.launchReady 8) f).task 2).map (fun x => (x.status, x.endCause)) == some (.ended, Cause.leaseTensor) &&
      ((ran (.launchReady 8) m).task 2).map (fun x => (x.status, x.endCause)) == some (.ended, Cause.seqAlign) && (ran (.launchReady 8) m).mem == m.mem &&
      ((wt (windowed true)).windows 1).map (·.1) == [1] && ((wt (windowed true)).windows 1).all (fun w =>
        !slideBusy (windowed true) 1 (wt (windowed true)) w.1 ((wt (windowed true)).windowStart w.1 0) w.2 &&
        slideFault (windowed true) 1 (wt (windowed true)) w.1 ((wt (windowed true)).windowStart w.1 0) w.2 == none) &&
      ((wt held).windows 1).any (fun w => slideBusy held 1 (wt held) w.1 ((wt held).windowStart w.1 0) w.2) && ran (.windowMove 1 1) held == held &&
      (match prepare v ((v.task 2).getD bareTask) { loaded with leased := true }, launchSema v 8 ((v.task 2).getD bareTask) with
        | .ok _, .wait s2 => ran (.launchReady 8) v == s2 && s2.waiters.map (fun w => (w.pa, w.queue)) == [(0x600100, some 8)] && s2.mem == v.mem | _, _ => false) &&
      ((ran .dispatch old).task 2).map (fun x => (x.status, x.endCause)) == some (.ended, Cause.secVersion) && (ran .dispatch old).adjTags == old.adjTags && readyHeads old == [(8, 2, x)] &&
      (match relocCheck old.fw object.objid object.svn x.origins with | .error _ => true | .ok _ => false) &&
      ((wt ill).windows 1).findSome? (fun w => slideFault ill 1 (wt ill) w.1 ((wt ill).windowStart w.1 0) w.2) == some Cause.errHbm && ((wt ill).windows 1).all (fun w =>
        !slideBusy ill 1 (wt ill) w.1 ((wt ill).windowStart w.1 0) w.2) && leastTail ill 1 1 ((wt ill).tensor 1).layout == some 0 && (wt ill).aborting == none &&
      ((ran (.windowMove 1 1) ill).task 1).map (fun x => x.aborting == some Cause.errHbm || x.endCause == Cause.errHbm) == some true &&
      readyHeads r == [] && ran .dispatch r == r &&
      leastTail (windowed true) 1 1 ((((windowed true).task 1).getD bareTask).tensor 1).layout == some 0 && (((windowed true).task 1).getD bareTask).live &&
      ((((windowed true).task 1).getD bareTask).tensor 1).windowed && SMap.find (ran (.windowMove 1 1) (windowed true)).windows 4294967297 == some 0 &&
      !(((windowed false).task 1).getD bareTask).live && ran (.windowMove 1 1) (windowed false) == windowed false) = true := by decide +kernel

/-- LaunchEvents, a ready head: one that starts, one whose code has no page, one whose stream is refused, one that waits for a line that the host
may hold, and two whose place a task of the same class has taken: on a die with room, and on dies without. -/
theorem test_dispatch :
    let at1 := fun (t : Task) => { t with ready := true, clusters := [1], origins := [(1, 0)] }
    let d := queued at1 loaded walked
    let x := (d.task 2).getD bareTask
    let lost := queued at1 loaded (regs [])
    let bad := { object with macros := [{ cols := 1, rows := 1, streams := [illOp] }] }
    let ill := queued at1 { loaded with obj := bad } walked
    let kept := { d with hostLines := [0x600000 / 128] }
    let taken := d.modCluster 1 (fun c => { c with owner := some 4 }) |>.setTask 4 { bareTask with cls := 2, clusters := [1] }
    let y := { x with origins := [], clusters := [] }
    let big := queued at1 { loaded with obj := { object with macros := [{ cols := 8, rows := 8, streams := [] }] } } (regs [])
    let fullDies := [1, 64, 128, 192].foldl (fun s k => s.modCluster k (fun c => { c with owner := some 4 })) (big.setTask 4 { bareTask with cls := 1, clusters := [1] })
    let ends := fun (s : State) => ((ran .dispatch s).task 2).map (fun t => (t.status, t.endCause))
    let commits := fun (s : State) (ld : Loaded) => match relocCheck s.fw ld.obj.objid ld.obj.svn x.origins with
      | .ok l => some (commitAll (beforeCommit s 8 2 x ld l) ld.obj x.origins) | .error _ => none
    (readyHeads d == [(8, 2, x)] && x.decided && !displaced d 2 x && !startHeld d x && (d.cluster 1).owner == none &&
      (match commits d loaded with | some (.ok s4) => (match placeObject s4 x loaded with | .ok s5 => ran .dispatch d == clearTags s5 x | .error _ => false) | _ => false) &&
      ((ran .dispatch d).cluster 1).owner == some 2 && (ran .dispatch d).mem.read 4 0x600000 == 0x0451400F &&
      (match commits lost loaded with | some (.ok s4) => (match placeObject s4 x loaded with | .ok _ => false | .error f => f.cause == Cause.xlateNp) | _ => false) &&
      ends lost == some (.ended, Cause.xlateNp) && (match commits ill { loaded with obj := bad } with | some (.error f) => f == Cause.cfgOp | _ => false) &&
      ends ill == some (.ended, Cause.cfgOp) && startHeld kept x && ran .dispatch kept == kept && displaced taken 2 x &&
      (match placementOf (taken.setTask 2 y) y with | some os => !((placedClusters (taken.macrosOf x) os).any (reservedAbove (taken.setTask 2 y) x.cls).contains) | none => false) &&
      ends taken == some (.running, 0#16) && displaced fullDies 2 x && readyHeads fullDies == [(8, 2, x)] && placementOf (fullDies.setTask 2 y) y == none && ran .dispatch fullDies == fullDies.setTask 2 y) = true := by
  decide +kernel

/-- GangAnnounce of LaunchEvents, and the packages of OutsideEvents: another package than this one. -/
theorem test_packages : ∃ pkg, pkg ≠ Config.packageNumber := ⟨Config.packageNumber + 1, by omega⟩

/-- TaskEvents: a gang that yields, on the way and at rest, with a flit on its way; a unit of another task; a task that was away, with a firing and
a pool block; a task that has finished, and one with a dirty tile of a window that lies in error; an uncorrectable error. -/
theorem test_task :
    let y := fun (stop : Bool) => (start (fun t => { t with yielding := true }) (fun c => { c with stopping := stop }) (firing [])).modCluster 0 (fun c => { c with ctxs := [] })
    let u := (regs []).modCluster 0 (fun c => { c with claims := [(160, 9)] })
    let p := (State.reset.setTask 3 { bareTask with status := .preempted, clusters := [2] })
    let kept : Cluster := { Cluster.reset with ctxs := [(1, { firing [(1, 5#64)] with parked := true, started := some 4 })], claims := [(35, 3)], ces := [(2, { Ce.reset with flags := 9#5 })] }
    let v := { p with now := 10, fw := { p.fw with saved := [{ task := 3, cl := 2, ctx := kept, since := 7 }] } }
    let b := { y true with flits := [{ fromCl := 1, fromSlot := 0, toCl := 0, toSlot := 2, qn := 1, v := 6#64 }] }
    let g := (start id (fun c => { c with stopping := true }) (firing [(1, 5#64)]))
    let dirty := ((windowed true).modTask 1 (fun t => { t with root := 0x1000, tiles := [(4294967296, { r := true, ms := false, frame := 9 })] })).modCluster 0
      (fun c => (c.setSlot 0 { c.slot 0 with status := .exited } |> fun c => { c with ctxs := [] }))
    let bad := { dirty.modCluster 0 (fun c => field 0x18 0 7#16 (field 0x18 1 1#16 c)) with mem := walked.mem, poison := [9 * 512] }
    let e := (regs []).modCluster 0 (fun c => (c.setSlot 0 { c.slot 0 with status := .exited } |> fun c => { c with ctxs := [] }))
    (((y false).task 1).any (fun x => x.yielding && x.aborting == none) && ((ran (.preemption 1 0) (y false)).cluster 0).stopping &&
      (y true).clustersOf 1 == [0] && quietCluster (y true) 0 && ((ran (.preemption 1 0) (y true)).task 1).map (·.status) == some .preempted &&
      ((ran (.preemption 1 0) (y true)).cluster 0).owner == none && u.claimed 0 160 && SMap.find ((ran (.claimUnit 0 160) u).cluster 0).claims 160 == some 1 &&
      (holderOf p 2).isNone && ((ran (.resume 3) p).task 3).map (·.status) == some .running && e.clustersOf 1 == [0] && finishedCluster (e.cluster 0) &&
      windowTiles ((e.task 1).getD bareTask) == [] && ((ran (.taskEnd 1) e).task 1).map (fun x => (x.status, x.endCause)) == some (.ended, 0#16) &&
      (ran (.preemption 1 0) b).fw.saved == [{ task := 1, cl := 0, ctx := contextOf b 0, since := 0 }] && SMap.get (contextOf b 0).qbufs [] 9 == [6#64] && (ran (.preemption 1 0) b).flits == [] &&
      (SMap.find (contextOf g 0).ctxs 0).map (fun f => (f.parked, f.s.toList.getD 1 0#64)) == some (true, 5#64) && (holderOf v 2).isNone && (ran (.resume 3) v).fw.saved == [] &&
      ((ran (.resume 3) v).firing 2 1).map (fun f => (f.parked, f.started, f.s.toList.getD 1 0#64)) == some (false, some 7, 5#64) && ((ran (.resume 3) v).cluster 2).flags == 9#5 &&
      SMap.find ((ran (.resume 3) v).cluster 2).claims 35 == some 3 && ((ran (.resume 3) v).cluster 2).owner == kept.owner &&
      (windowTiles ((bad.task 1).getD bareTask)).map (fun e => (e.1, frameBusy bad e.2.2.frame, tileFault bad 1 ((bad.task 1).getD bareTask) e.1 e.2.1 e.2.2.frame)) == [(1, false, some Cause.errHbm)] &&
      bad.clustersOf 1 == [0] && finishedCluster (bad.cluster 0) && ((ran (.taskEnd 1) bad).task 1).map (fun x => x.aborting == some Cause.errHbm || x.endCause == Cause.errHbm) == some true &&
      Cause.classOf Cause.errHbm == 10 && ((ran (.gangAbort 1 Cause.errHbm) (regs [])).task 1).map (·.aborting) == some (some Cause.errHbm)) = true := by
  decide +kernel

/-- An expert whose fetch runs or waits. -/
def fetching (e : Ert) (allocated : Bool) (target : Nat) : State :=
  let s := experts { e with slb := 1, src := 0x2000000000000 } (regs [])
  { s with hub := { s.hub with fetches := [{ key := 9, target := target, cl := 1, task := some 1, allocated := allocated }] } }

/-- ExpertEvents: a fetch with landed slices and without; the slice before the last and the last one; a source that fails; parked rows at
PFX, below it, and before the slice's event has come; uses. -/
theorem test_expert_events :
    let w := fetching (expert 0 2 1) false 8
    let z := fetching (expert 0 0 0) false 8
    let l := fun (pre : Nat) => fetching (expert 0 pre 3) true 8
    let bad := { l 2 with poison := [(0x2000000000000 + 2 * 65536) / 128] }
    let u := (experts (expert 0 2 1) (regs [])).modDie 1 (fun d => { d with uses := [(9, 40), (9, 30)] })
    let r := (experts (expert 0 2 1) (regs [])).modCluster 0 (fun c => c.setCe 0 { Ce.reset with parked := [{ key := 9#32, drop := false, tag := 0#32, weight := 0#32, outp := false, beats := [], ptsc := 0, releasing := false, sent := 0 }] })
    let st := fun (s : State) => (s.ert 9).map (fun e => (e.state, e.pre, e.failed))
    ((fetchOf w 9).isSome && st (ran (.expertFetch 9#32) w) == some (3, 2, true) && poolFit z.hub (8 * 65536) == some 0 && (z.ert 9).map Ert.bytes == some (8 * 65536) &&
      st (ran (.poolAllocRetry 9#32) z) == some (3, 0, true) && (ran (.expertFetch 9#32) z).hub.pool == [(0, 524288)] &&
      ((l 6).ert 9).map (fun e => sourceBad (l 6) e) == some false && st (ran (.sliceLanded 9#32) (l 6)) == some (3, 7, true) &&
      st (ran (.sliceLanded 9#32) (l 7)) == some (2, 8, true) && fetchOf (ran (.sliceLanded 9#32) (l 7)) 9 == none &&
      (bad.ert 9).map (fun e => sourceBad bad e) == some true && st (ran (.fetchFail 9#32) bad) == some (1, 2, true) &&
      (ceAfter (.brambleRelease 0 9#32) r).parked.map (·.releasing) == [true] && (let q := r.modErt 9 (fun e => { e with pre := 1 }); ran (.brambleRelease 0 9#32) q == q) && !r.onWay (.sliceReady 9 0) && !(l 6).hostHolds (6 * 65536) 65536 &&
      (let q := { r with net := [{ header := 0#64, payload := 0#512, crc := 0#16, load := .sliceReady 9 0, task := none, legs := [], pos := 0, waiting := false, tries := 0 }] };
        q.onWay (.sliceReady 9 0) && ran (.brambleRelease 0 9#32) q == q) &&
      ((ran (.useReport 1) u).ert 9).map (·.last) == some 40 && ((ran (.useReport 1) u).die 1).uses == []) = true := by decide +kernel

/-- OutsideEvents: host memory in an RDC, and written by the host; writes and signals at the ends of HBM; a line that the host may hold; power-on,
the registers of the block. -/
theorem test_outside :
    let s := (regs []).modDie 2 (fun d => { d with rdc := [(0x3000000000000 / 128, 0#1024)] })
    let d := data [] id
    let k := { d with hostLines := [2] }
    let stepped := fun (t : Turn) (s : State) => match step { s with agenda := [t] } with | .next u => (u.snoops, u.hostLines) | _ => ([], [0])
    let b := fun (busy : Bool) (code : Word) => { regs [] with fw := { Firmware.reset with block := [code, 0#64, 0#64, 0#64, 0#64, 0#64, 0#64, 0#64], busy := busy, fuse := 4 } }
    (hostMemory 0x3000000000000 8 && ((ran (.hostHdmAccess 0x3000000000000 (some [9#8])) s).die 2).rdc == [] && (ran (.hostHdmAccess 0x3000000000000 (some [9#8])) s).mem.read 1 0x3000000000000 == 9 &&
      k.hostHolds 0x100 1 && !d.hostHolds 0x100 1 && (ran (.hostHdmAccess 0x100 none) d).hostLines == [2] &&
      stepped (.hubSnoop 2) k == ([2], [2]) && stepped (.hostAnswer 2 none) { k with snoops := [2] } == ([], []) &&
      regionOf 0x3000000000000 == 3 && ((ran (.hostSnoop 0x3000000000000) s).die 2).rdc == [] && d.held == [] && hbmOpen d 0 1 && hbmOpen d (Config.hbmLimit - 8) 8 &&
      !hbmOpen d (Config.hbmLimit - 4) 8 && (ran (.hostHdmAccess 0x100 (some [9#8])) d).mem.read 2 0x100 == 0x7709 && (ran (.hostHdmAccess 0x100 none) d).mem == d.mem &&
      (ran (.powerOn true) (b true 3#64)).fw.status == Cause.fwBist.zeroExtend 64 && (ran (.powerOn false) (b true 3#64)).fw.fuse == 4 &&
      (ran (.hostRegWrite 56 5#64) (b false 0#64)).fw.block.getD 7 0#64 == 5#64 && ran (.hostRegWrite 56 5#64) (b true 0#64) == b true 0#64 &&
      ran (.hostRegWrite 64 1#64) (b true 0#64) == b true 0#64 && (ran (.hostRegWrite 64 1#64) (b false 13#64)).fw.busy &&
      (ran (.hostRegWrite 64 1#64) (b false 14#64)).fw.status == Cause.fwCmd.zeroExtend 64 && (ran (.hostRegWrite 0x58 1#64) (b true 0#64)).fw.ie) = true := by
  decide +kernel

/-- The block holds a command with its arguments, which runs. -/
def commanded (args : List Nat) (s : State) : State :=
  { s with fw := { s.fw with block := (args ++ List.replicate (8 - args.length) 0).map (BitVec.ofNat 64), busy := true } }

/-- The low half of the status word after a command: its cause. -/
def causeAfter (i : Instr) (s : State) : Cause := (ran i s).fw.status.setWidth 16

/-- ObjectCommands: an image that is not there, one of a bad header, UNLOAD and UNLEASE of a free and of a held object, LEASE of ranges that
translate and that do not, MAP to the highest root and to one off a page; an entry of the relocated-configuration cache below the fuse counter. -/
theorem test_object_commands :
    let s := fun (args : List Nat) (t : Task → Task) (l : List Lease) => commanded args (queued t { loaded with obj := { object with leases := l } } walked)
    let stale := { Firmware.reset with fuse := 1, reloc := [(7, 0, 0)] }
    let img := fun (o : XObject) => let q := s [2, 1] id []; { q with fw := { q.fw with images := [(1, o)] } }
    let rng := fun (base : Nat) => [({ base := base, size := 4096, window := 0 } : Lease)]
    let done := fun (t : Task) => { t with status := TaskStatus.ended }
    let ready := fun (t : Task) => { t with ready := true }
    (causeAfter .load (s [2, 1] id []) == Cause.loadFormat && loadFault (img { object with header := [] }).fw { object with header := [] } == some Cause.loadFormat &&
      loadFault (img object).fw { object with header := object.header.set 2 0x0101000000000000#64 } == some Cause.loadHdr &&
      relocStale stale 7 (fun _ => true) == some [] && relocStale { stale with fuse := 0 } 7 (fun _ => true) == none &&
      !objectBusy (s [3, 5] done []) 5 && causeAfter .unload (s [3, 5] done []) == 0#16 && objectBusy (s [3, 5] id []) 5 && causeAfter .unload (s [3, 5] id []) == Cause.leaseBusy &&
      leasesFault (s [4, 5] id (rng 0x200000)) 0x1000 { object with leases := rng 0x200000 : XObject }.allLeases == none &&
      (match install (s [4, 5] id (rng 0x200000)) 0x1000 { object with leases := rng 0x200000 } with | .ok t => t.mem.read 4 0x600000 == 0x0451400F | .error _ => false) &&
      ((SMap.find (ran .lease (s [4, 5] id (rng 0x200000))).fw.objects 5).map (·.leased)) == some true &&
      (leasesFault (s [4, 5] id (rng 0x400000)) 0x1000 { object with leases := rng 0x400000 : XObject }.allLeases).map (·.cause) == some Cause.xlateNp &&
      causeAfter .lease (s [4, 5] id (rng 0x400000)) == Cause.xlateNp && !leaseHeld (s [5, 5] id []) 5 && causeAfter .unlease (s [5, 5] id []) == 0#16 &&
      leaseHeld (s [5, 5] ready []) 5 && causeAfter .unlease (s [5, 5] ready []) == Cause.leaseBusy && causeAfter .map (s [6, 5, Config.hbmLimit - 4096] id []) == 0#16 &&
      causeAfter .map (s [6, 5, 0x2800] id []) == Cause.xlatePa && causeAfter .map (s [6, 5, 0x2000] ready []) == Cause.leaseBusy &&
      ((ran .map (s [6, 5, 0x2000] id [])).task 2).map (·.root) == some 0x2000) = true := by decide +kernel

/-- ObjectCommands: an object that passes every check but its signature, which the key behind the manual decides. -/
theorem test_load_accepts : loadFault Firmware.reset object =
    if Config.signatureValid object.bytes object.signature then none else some Cause.secSig := by
  have h : object.formatBad = false ∧ object.headerBad = false ∧ ¬object.svn < Firmware.reset.fuse ∧ configFault object.macros = none := by decide +kernel
  unfold loadFault
  rw [h.1, h.2.1, h.2.2.2, if_neg h.2.2.1]
  cases Config.signatureValid object.bytes object.signature <;> rfl

/-- TaskCommands: ranks 511 and 512, queues of the object's class and of another; PREEMPT, KILL, TRAPRPT, RESET and QUERY. -/
theorem test_task_commands :
    let s := fun (args : List Nat) => commanded args (queued id loaded (start (fun t => { t with ring := [record] }) id (firing [])))
    let l := fun (q rank : Nat) => launchFault (s [7, 5, q, rank]) loaded q rank
    (l 8 511 == none && l 11 0 == none && l 8 512 == some Cause.fwQueue && l 7 0 == some Cause.fwQueue && l 12 0 == some Cause.fwQueue &&
      causeAfter .launch (s [7, 5, 8, 511]) == 0#16 && SMap.get (ran .launch (s [7, 5, 8, 511])).fw.queues [] 8 == [2, 0] &&
      (let q := s [7, 5, 8, 0]
        let ld := { loaded with obj := { object with header := object.header.set 3 0x100000000#64 } }
        let o := { q with fw := { q.fw with fuse := 1, reloc := [(7, 0, 0), (7, 9, 0)], objects := [(5, ld)] } }
        launchFault o ld 8 0 == none && causeAfter .launch o == Cause.secVersion && (ran .launch o).fw.reloc == [(7, 9, 0)]) &&
      causeAfter .launch (s [7, 5, 8, 512]) == Cause.fwQueue && !preemptDenied (s [8, 1]) 1 bareTask && ((ran .preempt (s [8, 1])).task 1).map (·.yielding) == some true &&
      ((ran .kill (s [9, 1])).task 1).map (·.endCause) == some Cause.killed && (ran .trapRpt (s [10, 1])).fw.block == record.dwords &&
      ((ran .reset (s [0])).task 2).map (·.status) == some .ended && (ran .reset (s [0])).fw.objects == [] &&
      (let q := s [0]; causeAfter .reset { q with fw := { q.fw with defect := true } } == Cause.fwBist) && (ran .query (s [1, 4, 3000])).fw.drawLimit == 3000 &&
      (ran .query (s [1, 1])).fw.status == 0#64 && (ran .query (s [1, 2, 1])).fw.status == 0x10000#64) = true := by decide +kernel

/-- A head of class 2 that no placement exists for: a macro of a whole die, where tasks of class 0 hold a cluster of each die. -/
theorem test_preempt_denied :
    let s0 := queued (fun t => { t with ready := true }) { loaded with obj := { object with macros := [{ cols := 8, rows := 8, streams := [] }] } } (regs [])
    let s := commanded [8, 4] ([64, 128, 192].foldl (fun s k => s.modCluster k (fun c => { c with owner := some 1 })) (s0.setTask 4 { bareTask with cls := 3, clusters := [0] } |>.modCluster 0 (fun c => { c with owner := some 4 }) |>.modCluster 1 (fun c => { c with owner := some 1 })))
    (preemptDenied s 4 { bareTask with cls := 3, clusters := [0] } && causeAfter .preempt s == Cause.preDenied) = true := by decide +kernel

/-- An array of one residency entry at 0x4000: two slices, PFX 1. -/
def ertArray : State :=
  { regs [] with mem := (((Memory.write [] 8 0x4000 0x900020001).write 8 0x4008 (1 * 1099511627776)).write 8 0x4010 0x2000000000000) }

/-- DeviceCommands: an array of one entry, counts 0 and 65537, a pool off a frame; units 63 and 64, events 7 and 8; counters 4, 5, 255 and
256 over 4; a command that is not in the block. -/
theorem test_device_commands :
    let s := fun (args : List Nat) => let q := commanded args ertArray; { q with fw := { q.fw with fuse := 4 } }
    (!expertTask (s [11]) && !poolBad 0x10000 0x100000 && poolBad 0x8000 0x100000 && (ertEntries (s [11]).mem 0x4000 1).isSome &&
      causeAfter .ertcfg (s [11, 0x4000, 1, 0x10000, 0x100000]) == 0#16 && ((ran .ertcfg (s [11, 0x4000, 1, 0x10000, 0x100000])).ert 9).map (·.nsl) == some 2 &&
      causeAfter .ertcfg (s [11, 0x4000, 0, 0x10000, 0x100000]) == Cause.ertCfg && causeAfter .ertcfg (s [11, 0x4000, 65537, 0x10000, 0x100000]) == Cause.ertCfg &&
      causeAfter .ertcfg (s [11, 0x4000, 1, 0x8000, 0x100000]) == Cause.ertCfg && causeAfter .monitor (s [12, 63, 7]) == 0#16 &&
      causeAfter .monitor (s [12, 64, 7]) == Cause.monArg && causeAfter .monitor (s [12, 63, 8]) == Cause.monArg &&
      SMap.find ((ran .monitor (s [12, 63, 7])).die 3).monitors 63 == some (Monitor.cleared 7) && causeAfter .fuseadv (s [13, 4]) == Cause.secFuse &&
      (ran .fuseadv (s [13, 5])).fw.fuse == 5 && (ran .fuseadv (s [13, 255])).fw.fuse == 255 && causeAfter .fuseadv (s [13, 256]) == Cause.secFuse &&
      ran .query (s [13, 5]) == s [13, 5] && ran .reset (regs []) == regs []) = true := by decide +kernel

/-! ## What waits, and what stops

Further states for the clauses of the statements above. -/

/-- Cluster 0 has read a write that has not reached its home yet. -/
def behind (s : State) : State := postWrite 0 0 none (some 0) 0x100 false [1#8] s

/-- LoadResult, LoadSeesOwnStore: what is kept of the firing; no stamp is waited for. -/
theorem test_kept :
    let s := data [(1, 0x100#64)] id
    let u := ({ issued s with asked := some (0, 1, true) } : State)
    (s.net == [] && !s.stopStalls 0 1 && !s.stopStalls 0 (1 + ceilDiv 2 64) && ((issued s).firing 0 0).isSome &&
      (((issued s).keepBack 0 0 [3#6, 1#6] u).firing 0 0).bind (·.back) == some { pc := 0#64, s := (firing [(1, 0x100#64)]).s, sp := 0#64, k := 0 } &&
      ((issued s).keepBack 0 0 [48#6] u).asked == none) = true := by decide +kernel

/-- ScratchpadResult: an access that a copy's entry holds, one whose bank is not granted, one that a write it has read holds up; `popm` over
two registers; budgets that last until a value comes, and that do not. -/
theorem test_scratchpad_waits :
    let s := fun (n : Nat) => (start id withTrapActor { firing [(1, 0x80#64), (2, 42#64)] with sp := 16#64, started := some n })
    let held := { (s 0).modCluster 0 (fun c => { c with board := [{ cmd := 7, lo := 0x80, hi := 0x100, done := none, made := 0 }] }) with nextId := 5 }
    let other := (agState 1 { Ag.reset with phase := some phase0, req := some { bank := 0, addr := 0x80, data := none, made := 0 } } [] id).modCluster 0 (fun c => { c with lastGrant := [(0, 10)] })
    let late := { s 0 with now := 65536 }
    let saw := (issued (behind (s 0))).modCluster 0 (fun c => { c with ctxs := c.ctxs.map (fun p => (p.1, { p.2 with saw := [0] })) })
    let lds := fun (s : State) => pcAfter (exec (.lds 3#6 1#6 0#14) s)
    (((s 0).ask 0 sqUnit 0x80 8 0 0 0#64).2 && !spadOpen held 0 0x80 8 held.nextId && !(held.ask 0 sqUnit 0x80 8 held.nextId 0 0#64).2 && lds held == some 0#64 &&
      pcAfter (exec (.sts 2#6 1#6 0#14) held) == some 0#64 && banksOf 0x80 8 == [0] && !(other.cluster 0).grants 0 sqUnit && !(other.ask 0 sqUnit 0x80 8 0 0 0#64).2 &&
      ((s 0).cluster 0).grants 0 sqUnit && saw.unseen 0 0 == [0] && pcAfter (exec (.sts 2#6 1#6 0#14) { saw with cur := (0, 0) }) == some 0#64 &&
      okB (returning 0 0 4 (s 0)) && (match returning 0 0 4 late with | .cut n => n == 65536 | _ => false) && lds (s 0) == some 4#64 &&
      (match exec (.lds 3#6 1#6 0#14) late with | .next t => ((t.cluster 0).traps.head?).map (·.cause) == some Cause.seqBudget | _ => false)) = true := by decide +kernel

/-- A write of the state's cluster that its firing has read and that has not reached its home. -/
def reading (s : State) : State :=
  (behind s).modCluster 0 (fun c => { c with ctxs := c.ctxs.map (fun p => (p.1, { p.2 with saw := [(behind s).nextId - 1] })) })

/-- SemaphoreResult, BarrierResult: what holds them up (a write that the firing has read; a release), a word that names no barrier; arrivals on a
poisoned barrier, at another level, with another N, with 0 and with 65,536; drops that count and that end a phase. -/
theorem test_sync_waits :
    let s := reading (data [(1, 0x8000#64), (2, 5#64)] withTrapActor)
    let g := fun (b : Barrier) (w n : Word) => (start id withTrapActor (firing [(1, w), (2, n)])).setBarrier (barrierKey (regs []) 0 0#64 w) b
    let b := Barrier.reset
    let l3 := { b with lv := some 3, n := some 2, a := 1 }
    let arr := Instr.gbarArr 3#6 1#6 2#6
    let behindG := behind (g b 0xA3#64 2#64)
    let d := { b with n := some 3, a := 1, d := 0, pd := 1 }
    (!(issued s).nmOpen 0 0 0x8000 8 false && (lineFault s 0x8000).isNone && pcAfter (exec (.semWge 1#6 2#6) s) == some 0#64 && s.held == [] &&
      (issued s).unseen 0 0 != [] && pcAfter (exec arr (reading (g b 0xA3#64 2#64))) == some 0#64 && !(releaseBy 0 0 true true (issued behindG)).2 && (issued behindG).unseen 0 0 == [] &&
      pcAfter (exec arr behindG) == some 0#64 && !barWordOk 0x03#64 && trapAfter (exec arr (g b 0x03#64 2#64)) == some (Cause.seqIll, 0#64, 0#64) &&
      trapAfter (exec (.gbarWait 1#6 0#6) (g b 0x103#64 2#64)) == some (Cause.seqIll, 0#64, 0#64) && trapAfter (exec (.gbarDrop 1#6) (g b 0xC3#64 2#64)) == some (Cause.seqIll, 0#64, 0#64) &&
      trapAfter (exec arr (g { b with pz := true } 0xA3#64 2#64)) == some (Cause.syncPoison, 0xA3#64, 0#64) && arrivalFault l3 5 2#64 == some Cause.syncCount &&
      trapAfter (exec arr (g l3 0xA3#64 2#64)) == some (Cause.syncCount, 0xA3#64, 0#64) && arrivalFault l3 3 3#64 == some Cause.syncCount && arrivalFault b 3 0#64 == some Cause.syncCount &&
      arrivalFault b 3 65536#64 == some Cause.syncCount && arrivalFault l3 3 2#64 == none && (l3.arrive 3 2 zeroClock).n == none && (l3.arrive 3 2 zeroClock).c == 1#64 &&
      (0#64 - 0#64).toNat == 0 && 9223372036854775808 < ((0#64 : Word) - 1#64).toNat && d.drop 0#64 == { d with pd := 2 } && d.drop 7#64 == { d with d := 1 } &&
      (let e := { d with d := 1 }; (e.drop 7#64).c == 1#64 && (e.drop 7#64).n == none && ((e.drop 7#64).d, (e.drop 7#64).pd, (e.drop 7#64).a) == (3, 0, 0)) &&
      ({ d with pz := true }.drop 7#64).c == 0#64) = true := by decide +kernel

/-- TapeResult: `dmode` behind a posted update, behind a release, and before a sum that meets a line in error; `tape.mark` in REV at a mark, at
another record, at an empty tape and behind its record; `tape.rd` of both dwords of a header. -/
theorem test_tape_reads :
    let s := fun (mode ptr : Nat) (hdr : Nat) => { mapped id (fun c => withTrapActor { c with dmode := mode, tapebase := some 0x40000#64, tapelim := 4, tapeptr := ptr })
      (firing [(1, 1#64), (2, 2#64), (3, 5#64)]) with mem := Memory.write [] 16 0x40000 hdr }
    let r := fun (mode : Nat) => s mode 1 (markHeader 77 3)
    let h : Held := { pa := 0x100, v := 0#32, source := 0, number := 0, epoch := 0#64, exp := 0, cl := 0, task := some 1 }
    let bad := { r 2 with held := [h], poison := [2] }
    let mark := Instr.tapeMark 7#6 3#6
    let sig := behind (r 0)
    let open_ := postNm 0 none none 0x40000 (.mark (markHeader 1 1)) (r 1)
    ((releaseBy 0 0 true false (issued bad)).2 && switchReady (issued bad) 0 && bad.heldError (fun g => g.cl == 0 && g.pa == h.pa) == some Cause.errHbm &&
      (match exec (.dmode 1#6) bad with | .next t => (t.task 1).any (fun x => x.aborting == some Cause.errHbm || x.endCause == Cause.errHbm) | _ => false) &&
      !(releaseBy 0 0 true false (issued sig)).2 && pcAfter (exec (.dmode 1#6) sig) == some 0#64 &&
      (headerKind (r 1 |>.mem.read 16 0x40000)) == 1 && after (exec mark (r 1)) 7#6 == some 77#64 && (match exec mark (r 2) with | .next t => (t.cluster 0).tapeptr == 0 | _ => false) &&
      trapAfter (exec mark (s 1 1 (dataHeader 1 1 1 0))) == some (Cause.tapeOrder, 5#64, 1#64) && headerKind (dataHeader 1 1 1 0) != 1 &&
      trapAfter (exec mark (s 1 0 0)) == some (Cause.tapeEmpty, 5#64, 0#64) && !recordDone open_ 0 0x40000 && pcAfter (exec mark open_) == some 0#64 &&
      okB (headerAt 0 0 false (issued (r 1))) && recordDone (issued (r 1)) 0 0x40000 && okB (sqRead 0 0 0x40000 16 true 5 (issued (r 1))) &&
      after (exec (.tapeRd 7#6 0#6) (r 1)) 7#6 == some 65536#64 && after (exec (.tapeRd 7#6 1#6) (r 1)) 7#6 == some (BitVec.ofNat 64 (3 * 1099511627776 + 77)) &&
      tapeIdle (r 1) 0 && !tapeIdle open_ 0 && pcAfter (exec (.tapeRd 7#6 0#6) open_) == some 0#64 && after (exec (.tapeRd 7#6 2#6) (r 1)) 7#6 == some 0#64 &&
      trapAfter (exec (.tapeMark 48#6 3#6) (r 1)) == some (Cause.seqIll, 0#64, 0#64) && trapAfter (exec (.tapeRd 51#6 3#6) (r 1)) == some (Cause.seqIll, 0#64, 0#64)) = true := by decide +kernel

/-- `dmode` waits for the cluster's near-memory operations and for commands that act on differentiable tensors. -/
theorem test_switch_waits :
    let s := mapped id withTrapActor (firing [(1, 1#64)])
    let u := s.modCluster 0 (fun c => c.putFence 0 1 0 false)
    let v := { u with nmops := (postNm 0 none none 0x8000 (.sig 1#64) u).nmops }
    (!switchReady (issued v) 0 && (releaseBy 0 0 true false (issued v)).2 && pcAfter (exec (.dmode 1#6) v) == some 0#64) = true := by decide +kernel

/-- ExpertResult: `ert.evict` of a pinned expert, of one in use, and again once it may not be refused. -/
theorem test_evict_waits :
    let s := fun (e : Ert) => experts e (start id withTrapActor (firing [(1, 9#64)]))
    let parked := (s (expert 0 2 1)).modCluster 0 (fun c => c.setCe 0 { Ce.reset with parked := [{ key := 9#32, drop := false, tag := 0#32, weight := 0#32, outp := false, beats := [], ptsc := 0, releasing := false, sent := 0 }] })
    (trapAfter (exec (.ertEvict 1#6) (s (expert 1 2 1))) == some (Cause.ertPin, 9#64, 9#64) && !evictable parked 9 (expert 0 2 1) &&
      (match exec (.ertEvict 1#6) parked with | .next t => (t.firing 0 0).map (fun f => (f.pc, f.evicting)) == some (0#64, true) | _ => false)) = true := by decide +kernel

/-- TrapTaken, FetchFaults: a trap that leaves all four contexts suspended; a load whose value is on its way when the budget ends, and an update
whose answer is. -/
theorem test_trap_more :
    let f := { firing [(1, 3#64)] with started := some 0 }
    let three := (start id withTrapActor f).modCluster 0 (fun c => { c with ctxs := c.ctxs ++ [(1, { firing [] with suspended := some 0 }), (2, { firing [] with suspended := some 0 }), (3, { firing [] with suspended := some 0 })] })
    let load := fun (b : Option LoadStart) => { (start id withTrapActor { f with pc := 8#64, back := b }) with
      now := 65540, net := [{ header := 0#64, payload := 0#512, crc := 0#16, load := .response 0 0, task := some 1, legs := [], pos := 0, waiting := false, tries := 0 }] }
    let b : LoadStart := { pc := 4#64, s := (firing [(1, 9#64)]).s, sp := 16#64, k := (Slot.reset.k).setIfInBounds 3 6#64 }
    ((three.cluster 0).trapSlot == some 1 && three.abortingAt 0 == none &&
      (match exec (.trap 1#6) three with
        | .next t => (t.task 1).map (fun x => (x.status, x.endCause, x.ring.map (fun r => (r.cause, r.ctx, r.seqno)))) == some (.ended, Cause.seqNoctx, [(Cause.seqTrap, 0, 1#64)]) &&
            (t.firing 0 0).isNone && (t.firing 0 3).isNone && (t.cluster 0).owner == none
        | _ => false) &&
      (load (some b)).rides 0 0 && f.spent ((load (some b)).nextIssue 0 0) 65536 && !((load (some b)).cluster 0).acting 0 &&
      (match exec (.seqBudget 0 0) (load (some b)) with
        | .next t => (t.firing 0 0).map (fun g => (g.pc, g.suspended.isSome, g.s.toList.getD 1 0#64, g.sp)) == some (4#64, true, 9#64, 16#64) && ((t.cluster 0).slot 0).k.toList.getD 3 0#64 == 6#64
        | _ => false) &&
      (match exec (.seqBudget 0 0) (load none) with | .next t => (t.firing 0 0).bind (·.suspended) == none | _ => false)) = true := by decide +kernel

/-- EndOfFiring: an exit of an actor that has joined a barrier, at once, behind a write that it has read, and behind its release; `fend`, `aexit`
and an ending `eret` of a trap actor, whose trapped actor goes on or ends with a join; `halt` of an actor with a join. -/
theorem test_ends_joined :
    let s := start id (fun c => joined (withTrapActor c)) (firing [])
    let bar := fun (t : State) => t.barrier (barrierKey s 0 0#64 0xA3#64)
    let h := fun (ending : Bool) => (start id withTrapActor { firing [] with handling := some record, epc := 12#64, slot := 1 }).modCluster 0 (fun c =>
      { c.setSlot 3 { c.slot 3 with ending := ending, joins := if ending then [(3, (0, 0#64))] else [] } with ctxs := c.ctxs ++ [(2, { firing [(1, 7#64)] with suspended := some 0, slot := 3 })] })
    let e := (h false).modCluster 0 (fun c => c.setSlot 1 { c.slot 1 with ending := true, joins := [(3, (0, 0#64))] })
    let st := fun (t : State) (m : Nat) => ((t.cluster 0).slot m).status
    let count := fun (t : State) (m : Nat) => ((t.cluster 0).slot m).firing
    (((s.cluster 0).slot 0).joins != [] && (issued s).unseen 0 0 == [] && (releaseBy 0 0 true false (issued s)).2 && (st (ran .aexit s) 0 == .exited) && (bar (ran .aexit s)).pd == 1 &&
      pcAfter (exec .aexit (reading s)) == some 0#64 && (issued (reading s)).unseen 0 0 != [] && (issued (behind s)).unseen 0 0 == [] &&
      !(releaseBy 0 0 true false (issued (behind s))).2 && pcAfter (exec .aexit (behind s)) == some 0#64 &&
      roomToEnd (issued (h true)) 0 3 { firing [] with slot := 3 } 1 && ((h true).cluster 0).traps == [] && record.ctx == 2 && record.r && (releaseBy 0 0 true false (issued (h true))).2 &&
      count (ran .fend (h false)) 1 == 1#64 && count (ran .fend (h false)) 3 == 1#64 && ((ran .fend (h false)).firing 0 2).isNone && st (ran .fend (h false)) 3 != .exited &&
      st (ran .fend (h true)) 3 == .exited && (bar (ran .fend (h true))).pd == 1 && st (ran .aexit (h true)) 1 == .exited && st (ran .aexit (h true)) 3 == .exited &&
      ((e.cluster 0).slot 1).ending && st (ran .eret e) 1 == .exited && (bar (ran .eret e)).pd == 1 && ((ran .eret e).firing 0 2).map (·.pc) == some 12#64 &&
      haltNow (issued s) 0 0 == [1] && st (ran .halt s) 0 == .exited && (bar (ran .halt s)).pd == 1) = true := by decide +kernel

/-! ## Stages, stores and generators -/

/-- A descriptor of an opcode with A, B and C at heads 0, 1 and 2, in every lane, routed on output 0. -/
def sd (op mode : Nat) : Nat := op * 2 ^ 40 + mode * 2 ^ 36 + 1 * 2 ^ 24 + 2 * 2 ^ 18

/-- ElementFires, Tables 7.1 and 7.2: an operation of each table, on numbers that wrap, saturate and shift past the width; bit fields; the dot product
of bytes; a counter's product; a rotation of lanes, a broadcast and a sum. -/
theorem test_lane_operations :
    let b := fun (op par l a b c : Nat) => (laneValue Ce.reset (sd op 0) par l (fun _ => 0) (fun _ => 0) a b c).bits
    let f := fun (op a b c k : Nat) => (laneValue Ce.reset (sd op 0) 0 0 (fun _ => 0) (fun _ => 0) a b c).flags k
    let v := fun (op par : Nat) (a : List Nat) => beatValue (sd op 0) par none (fun _ => true) (fun _ => true) a []
    (dOp (sd 0x40 5) == 0x40 && dMode (sd 0x40 5) == 5 && b 0x40 0 0 0xFFFFFFFF 2 0 == 1 && b 0x44 0 0 0x80000000 0x80000000 0 == 0x40000000 && b 0x45 0 0 0xFFFFFFFF 1 0 == 0xFFFFFFFF &&
      b 0x47 0 0 0xFFFFFFFF 1 0 == 1 && b 0x49 0 0 0x80000000 0 0 == 0x80000000 && b 0x85 0 0 1 33 0 == 2 && b 0x87 0 0 0x80000000 4 0 == 0xF8000000 && b 0x88 0 0 0x80000001 4 0 == 0x18 &&
      b 0x89 0 0 7 9 2 == 9 && b 0x8E 0 0 1 0 0 == 31 && b 0x4A 0 0 0x0001FFFF 0x00010001 0 == 0x00020000 && b 0x50 0 0 0x00050001 0x0003FFFF 0x00040002 == 0x00040001 &&
      b 0x53 0 0 0x01FF00FF 0x01010101 0 == 0x02000100 && b 0x56 0 0 0x000000FF 0x000000FE 0 == 0xFF && b 0x4B 0 0 0x7FFF8000 0x0001FFFF 0 == 0x7FFF8000 && f 0x4B 0x7FFF8000 0x0001FFFF 0 1 == Flag.of &&
      f 0x4B 0x7FFF0000 0x0001FFFF 0 0 == Flag.none && b 0x55 0 0 0x05 0x06 0 == 0 && f 0x55 0x05 0x06 0 0 == Flag.of && b 0x57 0 0 0xFF 2 10 == 8 && b 0x8D 0 0 0xF0F 0 0 == 8 &&
      b 0x8F (1024 + 3 * 32 + 4) 0 0xF0 0 0 == 0xFFFFFFFF && b 0x90 (3 * 32 + 4) 0 0 0xA 0 == 0xA0 && b 0x92 77 0 0 0 0 == 77 && b 0x93 0xFFFF0005 3 0 0 0 == 2 &&
      (laneValue { Ce.reset with lc := [0, 5, 0, 0] } (sd 0x94 0) (0x30000 + 1) 0 (fun _ => 0) (fun _ => 0) 4 0 0).bits == 19 &&
      (v 0xA1 31 [1, 2, 3]).any (fun p => laneAt p.1 1 == 1 && laneAt p.1 2 == 2) && (v 0xA1 (32 + 31) [1, 2, 3]).any (fun p => laneAt p.1 1 == 0) && (v 0xA2 1 [1, 2]).any (fun p => laneAt p.1 9 == 2) &&
      (v 0xA6 0 [4, 5, 6]).any (fun p => laneAt p.1 0 == 15 && laneAt p.1 1 == 0) && typeOf none < 12 && 32 ≤ subsOf none * tyWidth (typeOf none) && lanesOf none == 32) = true := by decide +kernel

/-- ElementFires, rounding: FP32 sums by a table entry, an invalid sum; E2M1, where 1.25 lies halfway between 1 and 1.5, 100 is beyond the largest
number, and 0.25 halfway to the least. -/
theorem test_rounding :
    let b := fun (op a b c : Nat) => (laneValue Ce.reset (sd op 0) 0 0 (fun _ => 0) (fun _ => 0) a b c).bits
    let r := fun (mode : Nat) (n : Nat) (e : Int) => let x := convert Fmt.e2m1 mode 0x80000000 (.fin false n e); (x.bits, x.flags)
    (b 0x01 0x3F800000 0x40000000 0 == 0x40400000 && b 0x02 0x3F800000 0x3F800000 0 == 0 && b 0x03 0xC0000000 0x40400000 0 == 0xC0C00000 && b 0x04 0x40000000 0x40400000 0x3F800000 == 0x40E00000 &&
      b 0x01 0x7F800000 0xFF800000 0 == Fmt.f32.qnan && b 0xC1 0x3F808000 0 0 == 0x3F80 && Fmt.e2m1.read 3 == .fin false 3 (-1) && Fmt.mag Fmt.e2m1 2 * 2 ^ 2 == 16 && Fmt.mag Fmt.e2m1 3 * 2 ^ 2 == 24 &&
      (5 * 2 ^ (Fmt.e2m1.bias + Fmt.e2m1.fbits) == 20) && roundedNear 0 0 false 2 20 16 24 == 2 && r 0 5 (-2) == (2, Flag.ix) && r 1 5 (-2) == (2, Flag.ix) && r 3 5 (-2) == (3, Flag.ix) &&
      r 0 3 (-1) == (3, Flag.none) && (r 0 100 0).1 == overflowed Fmt.e2m1 0 false && (r 0 100 0).2 == Flag.of ||| Flag.ix && overflowed Fmt.e2m1 0 false == Fmt.e2m1.maxBits &&
      (r 0 1 (-2)).1 == 0 && (r 4 1 (-2)).1 == roundedNear 4 0x80000000 false 0 4 0 8) = true := by decide +kernel

/-- ElementFires: an element whose fields a configuration is about to change; stage 1 of it in a lane. -/
theorem test_element_settles :
    let s := elementState [.data 5#1024] Ce.reset id
    let p := s.modCluster 0 (fun c => { c with pending := some { fields := [(1, 1#16)], due := 0, replaced := [], mode := 0 } })
    let c := s.cluster 0
    let v := fun (k : Nat) => srcLanes c Ce.reset 0 1 [[5, 6]] [] (dSrc (c.sdesc 0 1) k)
    (p.settling 0 0 && ((p.cluster 0).ce 0).lag == [] && ran (.ceFire 0 0) p == p && c.stageOn 0 1 && dMode (c.sdesc 0 1) % 8 != 4 &&
      (beatValue (c.sdesc 0 1) (c.spar 0 1) (c.orderA 0 1) (fun _ => true) (fun _ => true) (v 0) (v 1)).isNone && lanePred (c.sdesc 0 1) [] 1 &&
      laneAt ((runStage c Ce.reset 0 [[5, 6]] false { ps := [], flags := Flag.none, gens := [] } 1).ps.getD 0 []) 1 == 6) = true := by decide +kernel

/-- ElementTokens, StoreEvents: the slot that a token leaves is counted in the cycle of its firing; what a channel frees, and what it does not. -/
theorem test_frees :
    let s := elementState [.eor, .eor] Ce.reset id
    let ch := { storeChan (store [] 0 0 0) [.eor, .eok] [] with store := none }
    let less := { ch with items := [Item.eor] }
    ((((fireFronts s 0 0 [0]).cluster 0).chan (portKey 0 0)).map (·.items) == some [.eor] && ch.free < less.free && (less.since 9 ch).mark == 9 && (less.since 9 ch).took == 1 &&
      ((less.since 9 ch).count 9 1).took == 2 && ch.since 9 less == ch && ch.free ≤ ch.free) = true := by decide +kernel

/-- GeneratorEvents: phases that their configuration forbids: of a reading generator, of a writing one with a channel and without; the abort token
that ends the first. -/
theorem test_generator_forbidden :
    let bad := fun (ctl : BitVec 16) (a : Ag) => (agState ctl a [.eos] id).modCluster 0 (fun c => { c with dmode := 1 })
    let auto := { Ag.reset with auto := true }
    let rd := bad 5 auto
    let wr := bad 7 auto
    let alone := wr.modCluster 0 (fun c => { c with chans := c.chans.filter (fun e => e.1 != agPort 0) })
    let full := agState 1 { Ag.reset with phase := some { phase0 with full := true, status := Cause.strArg } } [] id
    (genFault rd 0 0 && emits rd 0 0 && genFault wr 0 0 && !emits wr 0 0 && genFault alone 0 0 && (rd.cluster 0).agEn 0 && waitingRun (rd.cluster 0) 0 == none &&
      ((agAfter (.agPhaseStart 0 0) rd).phase.map (fun p => (p.full, p.status))) == some (true, Cause.strArg) &&
      ((agAfter (.agPhaseStart 0 0) wr).phase.map (fun p => (p.discard, p.status))) == some (true, Cause.strArg) &&
      ((((ran (.agPhaseStart 0 0) wr).cluster 0).chan (agPort 0)).bind (fun ch => ch.seen.head?)) == some (.abort Cause.strArg) &&
      (agAfter (.agPhaseStart 0 0) alone).phase == none && (agAfter (.agPhaseStart 0 0) alone).last == Cause.strArg && full.hasFree 0 (agPort 0) 1 && emits full 0 0 &&
      output (ran (.agBeat 0 0) full) == [.abort Cause.strArg]) = true := by decide +kernel

/-! ## What an engine moves in one turn -/

/-- A command with operands. -/
def cmdOf (cls sub cs : Nat) (a b c : Word) : Cmd := { stream sub with cls := cls, cs := cs, a := a, b := b, c := c }

/-- The next turn moves unit u of a run of cluster 0, whose state is that of the memory tests. -/
def atWork (u : Nat) (r : Run) (c : Cluster → Cluster) : State :=
  { data [] (fun k => c { k with running := [r] }) with agenda := [.engine 0 7 u] }

/-- The state after the turn, and the run. -/
def moved (s : State) : State := match step s with | .next t => t | _ => State.reset

def runAfter (s : State) : Option Run := ((moved s).cluster 0).run 7

def doneWith (s : State) : Option (Bool × Cause × Nat) := (runAfter s).map (fun r => (r.done, r.status, r.count))

/-- EngineEvents, streams and barriers: a beat each way, one whose range does not translate, a pattern into scratchpad and into memory; a barrier
whose command has completed, and one whose has not. -/
theorem test_moves_streams :
    let bulk := fun (sub cs : Nat) (a b : Word) => atWork 0 { runOf (cmdOf 0 sub cs a b 256#64) 0 with n := 2 } (fun c => { c with spad := Memory.write [] 8 0x80 99 })
    let bar := fun (d : Bool) => atWork 0 { runOf (cmdOf 1 0 0 0#64 0#64 0#64) 0 with n := 1, waits := [8] } (fun c => { c with running := c.running ++ [{ runOf { stream 0 with id := 8 } 0 with done := d }] })
    let m2s := bulk 0 0 0x100#64 0x200#64
    let s2m := bulk 5 0 0x100#64 0x80#64
    let lost := bulk 0 0 0x40000000#64 0x200#64
    (m2s.agenda == [.engine 0 7 0] && !m2s.rides 0 11 && okB (engRead 0 0x100 128 m2s.atWork) && (m2s.atWork.ask 0 streamUnit 0x200 128 m2s.nextId 7 0#64).2 &&
      ((moved m2s).cluster 0).spad.read 8 0x200 == 0x1122334455667788 && doneWith m2s == some (false, 0#16, 128) && (runAfter m2s).map (·.did) == some [0] &&
      (match engRead 0 0x40000000 128 lost.atWork with | .trap _ => true | _ => false) && doneWith lost == some (true, Cause.xlateNp, 0) &&
      okB (engWrite 0 0 7 0x100 (List.replicate 128 0#8) s2m.atWork) && (moved s2m).inflight.map (fun r => (r.pa, r.bytes.length, r.cmd)) == [(0x100, 128, some 7)] && doneWith s2m == some (false, 0#16, 128) &&
      ((moved (bulk 10 1 0x400#64 5#64)).cluster 0).spad.read 8 0x478 == 5 && (moved (bulk 10 0 0x400#64 5#64)).inflight.map (fun r => r.bytes.take 9) == [[5#8, 0#8, 0#8, 0#8, 0#8, 0#8, 0#8, 0#8, 5#8]] &&
      (((bar true).cluster 0).run 8).any (fun y => (bar true).completed 0 y) && doneWith (bar true) == some (true, 0#16, 0) && moved (bar false) == (bar false).atWork &&
      ((regs []).ask 0 streamUnit 0x80 128 0 7 0#64).2 && spadOpen (regs []) 0 0x80 128 0 && ((regs []).cluster 0).wants == []) = true := by decide +kernel

/-- EngineEvents, copies: the first and the last piece of a `cp`, one whose other end must go first; a beat of a `cp.s` and of a `cp.mx`. -/
theorem test_moves_copies :
    let cp := fun (u : Nat) (b : Word) => atWork u { runOf (cmdOf 2 0 0 0x100#64 b 256#64) 0 with n := 2 } id
    let entry := bytesOfNat 16 (0x100 + 128 * 2 ^ 64)
    let cps := atWork 0 { runOf (cmdOf 2 2 0 0x100#64 0x200#64 128#64) 0 with n := 1 } id
    let cmx := atWork 0 { runOf (cmdOf 2 1 0 0#64 0x200#64 0#64) 1 with n := 1, buf := entry } id
    ((cpPieces (cmdOf 2 0 0 0x100#64 0x8000#64 256#64)) == [(0x8000, 128), (0x8080, 128)] && cpNext (runOf (cmdOf 2 0 0 0x100#64 0x8000#64 256#64) 0) == none &&
      cpNext { runOf (cmdOf 2 0 0 0x100#64 0x180#64 256#64) 0 with n := 2 } == some 1 &&
      okB (engRead 0 0x100 128 (cp 0 0x8000#64).atWork) && (moved (cp 0 0x8000#64)).inflight.map (fun r => (r.pa, r.bytes.take 2)) == [(0x8000, [0x88#8, 0x77#8])] &&
      doneWith (cp 0 0x8000#64) == some (false, 0#16, 128) && moved (cp 0 0x180#64) == (cp 0 0x180#64).atWork && (moved (cp 1 0x180#64)).inflight.map (·.pa) == [0x200] &&
      (cps.atWork.ask 0 copyUnit 0x200 128 ((cps.cluster 0).boardTime 7 cps.nextId) 7 0#64).2 && ((moved cps).cluster 0).spad.read 8 0x200 == 0x1122334455667788 && doneWith cps == some (true, 0#16, 128) &&
      entrySrc (natOfBytes entry) == 0x100 && ((moved cmx).cluster 0).spad.read 8 0x200 == 0x1122334455667788 && (runAfter cmx).map (fun r => (r.done, r.aux)) == some (false, 2)) = true := by decide +kernel

/-- A matrix array whose active buffer holds BF16 ones in the first column, and a beat of BF16 numbers: 2, then zeros. -/
def withOnes (c : Cluster) : Cluster := { c with mx := { c.mx with w0 := { c.mx.w0 with ty := some 1, rows := [(0, 0x3F80#2048)] }, w1 := { c.mx.w1 with ty := some 1, rows := [(0, 0x3F80#2048)] } } }

/-- EngineEvents, the matrix array: halves of rows of `mx.ld` from port B and from scratchpad; the row that an `mx.mma.bf16` adds from port A and from
scratchpad; beats of an `mx.st` to scratchpad and to port C, and its EOS. -/
theorem test_moves_matrix :
    let portIn := fun (p : Nat) (c : Cluster) => c.setChan (portKey 0x21 p) { completionChan with depth := 4, items := [.data 0x4000#1024], live := true }
    let ld := fun (cs : Nat) (src : BitVec 16) => atWork 0 { runOf (cmdOf 3 0 cs 0#64 0x80#64 0#64) 1 with n := 256, k := 1 } (fun c => portIn 1 (field 0x21 0 src { c with spad := Memory.write [] 8 0x100 99 }))
    let mma := fun (cs : Nat) (src : BitVec 16) => atWork 0 { runOf (cmdOf 3 1 cs 0#64 0x80#64 0x10000#64) 2 with n := 1, buf := (List.replicate 127 0#8) ++ [0#8] }
      (fun c => portIn 0 (withOnes (field 0x21 0 src c)))
    let st := fun (cs k : Nat) => atWork 0 { runOf (cmdOf 3 8 cs 0#64 0x80#64 0#64) 2 with n := 512, k := k } (fun c =>
      field 0x21 0 1#16 ({ c with mx := { c.mx with acc := [(0, 7#32)] } }.setChan 0x10 { completionChan with depth := 4, prodPort := portKey 0x21 2 }))
    let row := fun (s : State) => SMap.get (((moved s).cluster 0).mx.buf true).rows 0#2048 0
    (!(cmdOf 3 0 0 0#64 0#64 0#64).fetched ((ld 0 1#16).cluster 0) && (row (ld 0 1#16)).extractLsb' 1024 1024 == 0x4000#1024 && (((moved (ld 0 1#16)).cluster 0).chan (portKey 0x21 1)).map (·.items) == some [] &&
      (cmdOf 3 0 64 0#64 0#64 0#64).fetched ((ld 64 5#16).cluster 0) && (cmdOf 3 0 64 0#64 0#64 0#64).fromSpad && (row (ld 64 5#16)).extractLsb' 1024 64 == 99#64 &&
      !(cmdOf 3 1 0 0#64 0#64 0#64).fetched ((mma 0 1#16).cluster 0) && doneWith (mma 0 1#16) == some (true, 0#16, 1) && ((moved (mma 0 1#16)).cluster 0).mx.at 0 0 0 == 0#32 &&
      (cmdOf 3 1 64 0#64 0#64 0#64).fetched ((mma 64 3#16).cluster 0) && ((mma 64 3#16).atWork.ask 0 fetchUnit 0x100 128 (mma 64 3#16).nextId 7 0#64).2 && doneWith (mma 64 3#16) == some (true, 0#16, 1) &&
      (cmdOf 3 8 8 0#64 0#64 0#64).toSpad && (storeBeat ((st 8 0).cluster 0).mx 0 0 0 0).1.lane 0 == 7#32 && ((moved (st 8 0)).cluster 0).spad.read 4 0x80 == 7 &&
      (st 0 0).hasFree 0 (portKey 0x21 2) 1 && output (moved (st 0 0)) == [.data 7#1024] && output (moved (st 0 512)) == [.eos]) = true := by decide +kernel

/-- EngineEvents, sums: INT8 and BF16 products of a row and a column, a column of 2 and 3; an accumulator by a band scale. -/
theorem test_matrix_sums :
    ((accElem 6 0xFF02 0x0203 16 0 0 5#32).1 == 9#32 && (accElem 1 0x40004040 0x3F804000 2 0 0 0x3F800000#32).1 == 0x41100000#32 && mxGroup 1 == 8 &&
      Fmt.bf16.read 0x4000 == .fin false 128 (-6) && (groupSum 1 0x40004040 0x3F804000 2 0).bits == 0x41000000 && Fmt.f32.read 0x3F800000 == .fin false 8388608 (-23) &&
      (storeElem Fmt.f32 [] 0x3F800000).bits == 0x3F800000 && (storeElem Fmt.bf16 [] 0x3F808000).bits == 0x3F80 && ([] : List Nat).mapM bandValue == some []) = true := by decide +kernel

/-- A collective of one member that moves 128 bytes. -/
def alone : List Byte := bytesOfNat 32 (0x100000000 + 8 * 0x10000000 + 128 * 2 ^ 128)

/-- EngineEvents, collectives: `co.ag` of a communicator of one; `co.put` with and without REPL, `co.get`, `co.sig` within the package; reductions of
INT32. -/
theorem test_moves_collectives :
    let w := fun (sub cs aux : Nat) (a b c : Word) (bs : List Byte) (n : Nat) => atWork 0 { runOf (cmdOf 4 sub cs a b c) aux with n := n, buf := bs, waits := [0] } id
    let ag := w 1 0 2 0#64 0x100#64 0x8000#64 alone 1
    let put := w 4 0 1 0x100#64 0x8000#64 128#64 [] 1
    let repl := atWork 0 { runOf (cmdOf 4 4 1 0x8000#64 0x200#64 128#64) 1 with n := 1 } id
    let sig := w 6 0 0 0x8000#64 3#64 0#64 [] 1
    let t := (ag.taskOf 0).getD bareTask
    ((((ag.cluster 0).run 7).bind (fun r => r.coll t)).map (fun c => (c.n, c.s, c.others, c.ty)) == some (1, 128, [], 8) && (ag.cluster 0).owner == some 1 &&
      (((ag.cluster 0).run 7).bind (fun r => r.coll t)).any (fun c => okB (collBlock 0 t c (cmdOf 4 1 0 0#64 0x100#64 0x8000#64) 0 0 ag.atWork)) &&
      (moved ag).inflight.map (fun r => (r.pa, r.bytes.take 2)) == [(0x8000, [0x88#8, 0x77#8])] && doneWith ag == some (true, 0#16, 128) &&
      (sidedPieces (cmdOf 4 4 0 0x100#64 0x8000#64 128#64)) == [(0, 128)] && (moved put).inflight.map (fun r => (r.pa, r.bytes.take 2)) == [(0x8000, [0x88#8, 0x77#8])] &&
      replPlaces 0x8000 [1#8, 0#8, 0#8, 0#8, 0#8, 0#8, 1#8, 0#8] == [0x8000, 0x8000 + 3 * 16777216] && (cmdOf 4 4 1 0x100#64 0x8000#64 128#64).repl && (moved repl).inflight.map (·.pa) == [0x200] && doneWith repl == some (true, 0#16, 128) &&
      coTarget sig t 0 == .own && okB (nmAddress 0 0x8000 8 true sig.atWork) && (moved sig).nmops.map (fun o => (o.pa, o.kind)) == [(0x8000, .sig 3#64)] &&
      reduceElem 8 0 [0xFFFFFFFF, 3] == 2 && reduceElem 8 1 [0xFFFFFFFF, 3] == 3 && reduceElem 8 2 [0xFFFFFFFF, 3] == 0xFFFFFFFF) = true := by decide +kernel

/-- EngineEvents, storage: 128 bytes of a block, and the same kept for a chain; the input, the decompression, the output and the end of a `dx.inflate`
of a stored block of one byte. -/
theorem test_moves_storage :
    let disk := fun (s : State) => { s with hub := { s.hub with namespaces := [(1, { blocks := 8, data := Memory.write [] 8 4096 77 })] } }
    let sto := fun (cs : Nat) => disk (atWork 0 { runOf (cmdOf 5 3 cs 0x100#64 0x1000000000001#64 4096#64) 0 with n := 32 } id)
    let stored : List Byte := [1#8, 1#8, 0#8, 0xFE#8, 0xFF#8, 0x41#8]
    let x := cmdOf 5 0 0 0x100#64 0x8000#64 0x1000000006#64
    let dx := fun (aux k n : Nat) (bs : List Byte) (ws : List Nat) => { atWork 0 { runOf x aux with k := k, n := n, buf := bs, waits := ws } id with mem := Memory.writeBytes [] 0x100 stored }
    (((sto 0).hub.namespaces.length, blockBytes (sto 0) (cmdOf 5 3 0 0x100#64 0x1000000000001#64 4096#64) 0 |>.take 1) == (1, [77#8]) &&
      (moved (sto 0)).inflight.map (fun r => (r.pa, r.bytes.take 1)) == [(0x100, [77#8])] && (runAfter (sto 4)).map (fun r => (r.buf.length, r.did, r.aux)) == some (128, [0], 0) &&
      (pieces 0x100 x.dxLen)[0]? == some (0x100, 6) && (runAfter (dx 0 0 0 [] [])).map (fun r => (r.k, r.buf)) == some (1, stored) &&
      decompress 0 false stored 16 == ([0x41#8], 0#16) && (runAfter (dx 0 1 0 stored [])).map (fun r => (r.aux, r.n, r.buf, r.waits)) == some (1, 1, [0x41#8], [0]) &&
      (moved (dx 1 0 1 [0x41#8] [0])).inflight.map (fun r => (r.pa, r.bytes)) == [(0x8000, [0x41#8])] && (runAfter (dx 1 0 1 [0x41#8] [0])).map (·.k) == some 1 &&
      doneWith (dx 1 1 1 [0x41#8] [0]) == some (true, 0#16, 1) && !x.dxSpad) = true := by decide +kernel

/-- EngineEvents: a completion of a follow-on, which its `cp.mx` takes; of two that have landed, the one that landed first; stopped engines. -/
theorem test_follow_on_completes :
    let y := runOf { cmdOf 2 1 0 0#64 0#64 0#64 with id := 6 } 3
    let s := (regs []).modCluster 0 (fun c => { c with running := [y, { runOf { stream 1 with parent := some 6 } 1 with done := true, status := Cause.strArg }] })
    let r := ((s.cluster 0).run 7).getD y
    let two := (regs []).modCluster 0 (fun c => { c with running := [{ runOf { cmdOf 2 1 0 0#64 0#64 0#64 with id := 6 } 2 with waits := [9] }, { runOf (cmdOf 2 1 0 0#64 0#64 0#64) 2 with waits := [4] }] })
    (s.completed 0 r && s.postsNext 0 r && !s.onWay (.completion 0 7) && r.cmd.parent == some 6 && ((ran (.completionPost 0 7) s).cluster 0).run 7 == none &&
      (((ran (.completionPost 0 7) s).cluster 0).run 6).map (fun q => (q.done, q.status)) == some (true, Cause.strArg) && ((two.cluster 0).firstLanded).map (·.cmd.id) == some 7 &&
      !enginesStopped (regs []) 0) = true := by decide +kernel

/-- EngineEvents, tile fetch: rows of tensor 1 for `mx.ld` and `mx.mma.bf16`, and a row of `mx.mma.e2m1` beyond the tensor with its scales. -/
theorem test_moves_tiles :
    let w := fun (sub cs : Nat) (src : BitVec 16) (b : Word) (n : Nat) =>
      let s := atWork 0 { runOf (cmdOf 3 sub cs 1#64 b 0x10008#64) 2 with n := n } (fun c => field 0x21 0 src c)
      s.modTask 1 diffTask
    let ld := { w 0 (1 * 128) 5#16 0#64 256 with mem := Memory.write [] 4 0x20000 0x40404000 }
    let mma := w 1 0 3#16 0#64 1
    let e2 := w 5 0 3#16 0x500000000#64 1
    (okB (tensorRow 0 7 1 0 0 128 ld.atWork) && (cmdOf 3 0 128 1#64 0#64 0x10008#64).mxTy == 1 && (SMap.get (((moved ld).cluster 0).mx.buf false).rows 0#2048 0).extractLsb' 0 16 == 0x4000#16 &&
      okB (tensorRow 0 7 1 0 0 8 mma.atWork) && doneWith mma == some (true, 0#16, 1) && okB (tensorRow 0 7 1 0 5 8 e2.atWork) && okB (rowScales 0 1 0 5 e2.atWork) &&
      doneWith e2 == some (true, 0#16, 1)) = true := by decide +kernel

/-! ## Tasks, experts and commands that wait -/

/-- SequencerEvents, LinkEvents: a sequencer that is about to change; the flit of an eighth failure. -/
theorem test_settles :
    let s := (regs []).modCluster 0 (fun c => { c with pending := some { fields := [(256 * 0x20, 1#16)], due := 0, replaced := [], mode := 0 } })
    let f := { regs [] with net := [netFlit true 7] }
    (s.settling 0 0x20 && ran (.firingStart 0) s == s && (ran (.loopFlitRetransmit 0 1 0 0 0) f).net.map (·.tries) == [0]) = true := by decide +kernel

/-- ExpertEvents: a slice from storage that is asked for, and one that is not; a place in error; a use that its die has not heard of yet. -/
theorem test_expert_waits :
    let e := { expert 0 2 3 with sk := true, slb := 1, src := 0x1000000000000 }
    let s := { fetching e true 8 with hub := { (fetching e true 8).hub with ert := [(9, e)], namespaces := [(1, { blocks := 1024, data := [] })] } }
    let on := { fetching { expert 0 2 3 with sk := false } true 8 with poison := [1024] }
    let bad := { on with poison := [2 * 65536 / 128] }
    let r := (experts (expert 0 2 1) (regs []))
    let q := { r with net := [{ header := 0#64, payload := 0#512, crc := 0#16, load := .ertUpdate 9 0, task := none, legs := [], pos := 0, waiting := false, tries := 0 }] }
    (decide (0 < e.reads) && decide (e.reads ≤ Config.pairDepth) && s.hub.qpairs == [] && !s.sliceAsked 9 && (ran (.expertFetch 9#32) s).sliceAsked 9 && ran (.sliceLanded 9#32) s == s &&
      (bad.ert 9).any (fun e => !sourceBad bad e && bad.homeError (e.pool * 65536 + e.pre * e.sliceBytes) e.sliceBytes == some Cause.errHbm) && !bad.hostHolds (2 * 65536) 65536 &&
      (bad.task 1).any (fun x => x.live && x.aborting == none) && ((ran (.sliceLanded 9#32) bad).task 1).any (fun x => x.aborting == some Cause.errHbm || x.endCause == Cause.errHbm) &&
      ((ran (.sliceLanded 9#32) bad).ert 9).map (fun e => (e.failed, e.pre)) == some (true, 2) && (fetchOf (ran (.sliceLanded 9#32) bad) 9).isNone &&
      q.onWay (.ertUpdate 9 0) && ran (.brambleRelease 0 9#32) q == q) = true := by decide +kernel

/-- ObjectCommands, TaskEvents, TaskCommands: a LEASE that waits for a line of the host; a task without a window line held; storage that RESET binds. -/
theorem test_holds :
    let obj := { object with leases := [({ base := 0x200000, size := 4096, window := 0 } : Lease)] }
    let s := commanded [4, 5] (queued id { loaded with obj := obj } walked)
    let k := { s with hostLines := [0x600000 / 128] }
    let e := (regs []).modCluster 0 (fun c => { c.setSlot 0 { c.slot 0 with status := .exited } with ctxs := [] })
    let r := commanded [0] { regs [] with hub := { Hub.reset with devices := [(4096, { blocks := 8, data := [] }), (512, { blocks := 9, data := [] })] } }
    (!installHeld s 0x1000 obj && installHeld k 0x1000 obj && ran .lease k == k && !windowsHeld e 1 ((e.task 1).getD bareTask) && ((ran (.taskEnd 1) e).task 1).map (·.status) == some .ended &&
      r.hub.enumerated == [(0, { blocks := 8, data := [] })] && (ran .reset r).hub.namespaces == r.hub.enumerated) = true := by decide +kernel

end Sys2Proof.Tests
end

section
/-! PROOFS. Configuration streams: accepted, refused and taking effect (R8, R52, R61 to R63). -/

namespace Sys2Proof.Machine

/-! ## Folds -/

/-- Folding steps that keep what p reads keeps it. -/
theorem foldl_keeps {σ α β : Type} (p : σ → β) (f : σ → α → σ) (hf : ∀ s a, p (f s a) = p s) (xs : List α) (s : σ) :
    p (xs.foldl f s) = p s :=
  List.foldlRecOn xs f (motive := fun t => p t = p s) rfl (fun t ht a _ => (hf t a).trans ht)

/-! ## CONFIG_COMMIT (R8, R61, R63) -/

section Commit
variable {s : State} {cl : Nat} {ws : List Lane}

/-- A cluster with a task and nothing pending takes a stream that its checks accept. -/
theorem exec_configCommit_accepted {x : Framed} {fs : List FieldWrite} {p : Pending} (ho : (s.cluster cl).owner.isSome = true)
    (hn : (s.cluster cl).pending = none) (hs : parseStream ws = .ok (x, fs)) (hf : checkFields s cl fs = .ok p) :
    exec (.configCommit cl ws) s = .next (s.setCluster cl { s.cluster cl with pending := some p, report := 0#16 }) := by
  have ho' : (s.cluster cl).owner.isNone = false := by rw [← Option.not_isSome, ho]; rfl
  show execConfigCommit cl ws s = _
  simp [execConfigCommit, ho', hn, hs, hf]

/-- A stream that is not one, or whose fields are refused, is reported and changes nothing else. -/
theorem exec_configCommit_refused {c : Cause} (ho : (s.cluster cl).owner.isSome = true) (hn : (s.cluster cl).pending = none)
    (h : parseStream ws = .error c ∨ ∃ x fs, parseStream ws = .ok (x, fs) ∧ checkFields s cl fs = .error c) :
    exec (.configCommit cl ws) s = .next (s.setCluster cl { s.cluster cl with report := c }) := by
  have ho' : (s.cluster cl).owner.isNone = false := by rw [← Option.not_isSome, ho]; rfl
  show execConfigCommit cl ws s = _
  rcases h with hs | ⟨x, fs, hs, hf⟩
  · simp [execConfigCommit, ho', hn, hs]
  · simp [execConfigCommit, ho', hn, hs, hf]

end Commit

/-! ## CONFIG_FIELDS_APPLY (R62) -/

/-- The fields in force in a cluster, and those that wait. -/
def Cluster.config (c : Cluster) : SMap (BitVec 16) × Option Pending := (c.cfg, c.pending)

@[simp] theorem config_tileStart (now t : Nat) (c : Cluster) : (tileStart now c t).config = c.config := by
  unfold tileStart loopEnd
  dsimp only
  split
  · split
    · split <;> rfl
    · rfl
  · rfl

@[simp] theorem config_take (c : Cluster) (unit : Nat) : (c.take unit).config = c.config := by
  unfold Cluster.take; split <;> rfl

@[simp] theorem config_takePool (c : Cluster) : c.takePool.config = c.config :=
  foldl_keeps Cluster.config Cluster.take config_take _ _

/-- The fields that take effect are those of the stream, over those in force, and nothing waits any longer. -/
theorem config_applyFields (c : Cluster) (p : Pending) :
    (applyFields c p).config = (p.fields.foldl (fun m f => SMap.set m f.1 f.2) c.cfg, none) := by
  unfold applyFields
  dsimp only
  rw [foldl_keeps Cluster.config, foldl_keeps Cluster.config, foldl_keeps Cluster.config]
  · rfl
  all_goals
    intro c n
    split <;> rfl

/-- A change of a cluster that keeps its configuration keeps every cluster's. -/
theorem config_modCluster (s : State) (k cl : Nat) (f : Cluster → Cluster) (hf : ∀ c, (f c).config = c.config) :
    ((s.modCluster k f).cluster cl).config = (s.cluster cl).config := by
  by_cases h : cl = k
  · rw [h, State.cluster_modCluster_same, hf]
  · rw [State.cluster_modCluster_other _ _ _ _ h]

theorem config_refresh (s : State) (k cl : Nat) : ((refresh s k).cluster cl).config = (s.cluster cl).config := by
  apply config_modCluster
  intro c
  apply foldl_keeps Cluster.config
  intro c m
  split
  · rfl
  · split <;> rfl

theorem config_relay (s : State) (cls : List Nat) (cl : Nat) : ((relay s cls).cluster cl).config = (s.cluster cl).config := by
  unfold relay
  apply foldl_keeps (fun s : State => (s.cluster cl).config)
  exact fun s k => config_modCluster s k cl _ (fun _ => rfl)

@[simp] theorem mem_relay (s : State) (cls : List Nat) : (relay s cls).mem = s.mem := by
  unfold relay; apply mem_foldl; exact fun _ _ => rfl

@[simp] theorem now_relay (s : State) (cls : List Nat) : (relay s cls).now = s.now := by
  unfold relay; apply foldl_keeps State.now; exact fun _ _ => rfl

/-- The state after a configuration of a cluster has taken effect. -/
def configured (s : State) (cl : Nat) (p : Pending) : State :=
  let s0 := s.upTo p.due
  let s1 := s0.setCluster cl ((List.range 8).foldl (tileStart s0.now) (applyFields (s.cluster cl) p))
  let cls := groupOfCluster s1 cl
  cls.foldl (fun s k => (refresh s k).modCluster k Cluster.takePool) (relay s1 cls)

section Apply
variable {s : State} {cl : Nat} {p : Pending}

theorem exec_configFieldsApply_idle (h : (s.cluster cl).pending = some p) (hi : s.replacedIdle p = true)
    (hb : busyUnit (s.cluster cl) p = false) : exec (.configFieldsApply cl) s = .next (configured s cl p) := by
  show execConfigFieldsApply cl s = _
  simp [execConfigFieldsApply, configured, h, hi, hb]

theorem exec_configFieldsApply_waits (h : (s.cluster cl).pending = some p)
    (hw : s.replacedIdle p = false ∨ busyUnit (s.cluster cl) p = true) : exec (.configFieldsApply cl) s = .next s := by
  show execConfigFieldsApply cl s = _
  rcases hw with hi | hb
  · simp [execConfigFieldsApply, h, hi]
  · simp [execConfigFieldsApply, h, hb]

end Apply

theorem mem_configured (s : State) (cl : Nat) (p : Pending) : (configured s cl p).mem = s.mem := by
  unfold configured
  dsimp only
  rw [mem_foldl, mem_relay]
  · rfl
  · exact fun _ _ => rfl

theorem now_configured (s : State) (cl : Nat) (p : Pending) : (configured s cl p).now = Nat.max s.now p.due := by
  unfold configured
  dsimp only
  rw [foldl_keeps State.now, now_relay]
  · rfl
  · exact fun _ _ => rfl

theorem config_configured (s : State) (cl : Nat) (p : Pending) :
    ((configured s cl p).cluster cl).config = (p.fields.foldl (fun m f => SMap.set m f.1 f.2) (s.cluster cl).cfg, none) := by
  have hgroup : ∀ (s : State) k, (((refresh s k).modCluster k Cluster.takePool).cluster cl).config = (s.cluster cl).config :=
    fun s k => (config_modCluster _ k cl _ config_takePool).trans (config_refresh s k cl)
  unfold configured
  dsimp only
  rw [foldl_keeps (fun s : State => (s.cluster cl).config) _ hgroup, config_relay, State.cluster_setCluster_same,
    foldl_keeps Cluster.config _ (fun c t => config_tileStart _ t c), config_applyFields]

/-! ## STORE_RELEASE (R52) -/

/-- A store that a pending configuration replaces returns its granules once its channel holds no phase. -/
theorem exec_storeRelease_idle {s : State} {cl port k : Nat} {ch : Chan} {st : Store} {p : Pending} {c : Cluster}
    (hk : (k, c) ∈ s.clusters) (hp : c.pending = some p) (hr : (cl, port) ∈ p.replaced) (hc : (s.cluster cl).chan port = some ch)
    (hl : ch.live = false) (hs : ch.store = some st) :
    exec (.storeRelease cl port) s =
      .next (s.modCluster cl (fun c => c.setChan port { ch with store := some { st with granules := 0 } })) := by
  show execStoreRelease cl port s = _
  unfold execStoreRelease
  simp only [hc]
  rw [if_pos]
  · simp only [State.modChan, State.modCluster, hc, hs, Option.map_some]
  · rw [hl, Bool.not_false, Bool.and_true]
    exact List.any_eq_true.mpr ⟨(k, c), hk, by simpa [hp] using hr⟩

/-! ## The obligation -/

/-- Settles O43: a commit changes the pending stream or the report alone; nothing that follows the taking effect of fields touches the
fields in force, the clock or memory. -/
theorem configurationEvents : Obligations.ConfigurationEvents := by
  unfold Obligations.ConfigurationEvents
  refine ⟨fun s cl ws ho hn => ⟨?_, ?_, ?_⟩, fun s cl p hp => ⟨?_, exec_configFieldsApply_waits hp⟩, ?_⟩
  · intro x fs p hs hf
    refine ⟨_, exec_configCommit_accepted ho hn hs hf, ?_⟩
    simp only [State.cluster_setCluster_same, true_and]
    exact ⟨fun k hk => State.cluster_setCluster_other s cl k _ hk, by simp [SamePackage]⟩
  · exact fun c hs => exec_configCommit_refused ho hn (.inl hs)
  · exact fun x fs c hs hf => exec_configCommit_refused ho hn (.inr ⟨x, fs, hs, hf⟩)
  · intro hi hb
    obtain ⟨hcfg, hpend⟩ := Prod.mk.inj (config_configured s cl p)
    exact ⟨_, exec_configFieldsApply_idle hp hi hb, hpend, now_configured s cl p ▸ Nat.le_max_right _ _, mem_configured s cl p, hcfg⟩
  · intro s cl port k ch st p c hk hp hr hc hl hs
    exact ⟨_, exec_storeRelease_idle hk hp hr hc hl hs, by simp⟩

end Sys2Proof.Machine
end

section
/-! PROOFS. Launches made ready, dispatched or refused; windows that move (R8, R242, R251, R258, R268, R269, R311, R317). -/

namespace Sys2Proof.Machine

/-! ## Folds that may fail -/

/-- Folding steps that keep an error keeps it. -/
theorem foldl_error {ε σ α : Type} {f : Except ε σ → α → Except ε σ} (he : ∀ e a, f (.error e) a = .error e) (xs : List α) (e : ε) :
    xs.foldl f (.error e) = .error e :=
  List.foldlRecOn xs f (motive := fun r => r = .error e) rfl (fun r hr a _ => by rw [hr, he])

/-- Where folding steps that may fail has an answer, it keeps what each of them keeps. -/
theorem foldl_ok_keeps {ε σ α β : Type} (p : σ → β) {f : Except ε σ → α → Except ε σ} {xs : List α} {s t : σ}
    (h : xs.foldl f (.ok s) = .ok t) (he : ∀ e a, f (.error e) a = .error e) (hf : ∀ s a t, f (.ok s) a = .ok t → p t = p s) :
    p t = p s := by
  induction xs generalizing s with
  | nil => cases h; rfl
  | cons x xs ih =>
    rw [List.foldl_cons] at h
    cases hx : f (.ok s) x with
    | error e => rw [hx, foldl_error he] at h; cases h
    | ok u => rw [hx] at h; exact (ih h).trans (hf s x u hx)

/-! ## What leaves the firmware's state and the adjoint tags as they were -/

/-- What the firmware holds, tasks among it, and the tags of the adjoint frames. -/
def State.ledger (s : State) : Firmware × SMap (Word × Int) := (s.fw, s.adjTags)

theorem fw_of_ledger {s t : State} (h : t.ledger = s.ledger) : t.fw = s.fw := congrArg Prod.fst h
theorem adjTags_of_ledger {s t : State} (h : t.ledger = s.ledger) : t.adjTags = s.adjTags := congrArg Prod.snd h
theorem task_of_ledger {s t : State} (h : t.ledger = s.ledger) (k : Nat) : t.task k = s.task k := by
  unfold State.task; rw [fw_of_ledger h]

/-- Lines that join a batch change dies alone. -/
theorem joinLines_keeps {β : Type} (p : State → β) (hp : ∀ (s : State) (d : Nat) (x : Die), p (s.setDie d x) = p s)
    (s : State) (die : Nat) (task : Option Nat) (ls : List Nat) : p (joinLines s die task ls).2 = p s := by
  have hclose : ∀ s : State, p (closeBatch s die) = p s := fun s => hp s die _
  have h1 : p (match (s.die die).batch with
      | some b => if b.since + 32 ≤ s.now ∨ 7 < (joinedLines b.lines ls).length ∨ !b.covers die (s.die die).dVec then closeBatch s die else s
      | none => s) = p s := by
    split
    · split
      · exact hclose s
      · rfl
    · rfl
  simp only [joinLines]
  split
  · exact h1
  · rw [apply_ite p, hclose, ite_self, hp]
    exact h1

@[simp] theorem ledger_closeBatch (s : State) (die : Nat) : (closeBatch s die).ledger = s.ledger := rfl

@[simp] theorem ledger_dropRdcs (s : State) (die : Nat) (ls : List Nat) : (dropRdcs s die ls).ledger = s.ledger :=
  foldl_keeps State.ledger (fun s l => dropRdc s die l) (fun _ _ => rfl) ls s

@[simp] theorem ledger_postNm (cl : Nat) (cmd ctx : Option Nat) (pa : Nat) (k : NmKind) (s : State) :
    (postNm cl cmd ctx pa k s).ledger = s.ledger := by
  show (joinRanges cl (k.ranges pa) s).2.ledger = s.ledger
  unfold joinRanges
  rw [joinLines_keeps State.ledger (fun _ _ _ => rfl), ledger_dropRdcs]

@[simp] theorem ledger_settleCancel (s : State) (cl id : Nat) : (settleCancel s cl id).ledger = s.ledger := by
  unfold settleCancel
  split
  · rfl
  · split
    · rw [ledger_postNm]; rfl
    · rfl

@[simp] theorem ledger_cancelSems (cl : Nat) (c : Cluster) (s : State) : (cancelSems cl c s).ledger = s.ledger := by
  unfold cancelSems
  apply foldl_keeps State.ledger
  intro s r
  split
  · split
    · rw [ledger_postNm, ledger_closeBatch]
    · rw [ledger_settleCancel]; rfl
  · rfl

@[simp] theorem ledger_unpinAll (s : State) (cl : Nat) : (unpinAll s cl).ledger = s.ledger := by
  unfold unpinAll
  apply foldl_keeps State.ledger
  intro s r
  split <;> rfl

@[simp] theorem ledger_settleEnded (s : State) (cl : Nat) : (settleEnded s cl).ledger = s.ledger :=
  foldl_keeps State.ledger (fun s (r : Run) => s.settle cl r.cmd.id) (fun _ _ => rfl) _ s

/-! ## The end of a task (R200, R274) -/

/-- The semaphore adds and pins of a task that ends: of its saved contexts, then of its clusters. -/
def cancelTask (s : State) (t : Nat) : State :=
  (s.clustersOf t).foldl (fun s cl => unpinAll (cancelSems cl (s.cluster cl) s) cl)
    ((s.fw.saved.filter (fun x => x.task == t)).foldl (fun s x => cancelSems x.cl x.ctx s) s)

theorem ledger_cancelTask (s : State) (t : Nat) : (cancelTask s t).ledger = s.ledger := by
  unfold cancelTask
  rw [foldl_keeps State.ledger, foldl_keeps State.ledger]
  · exact fun s x => ledger_cancelSems _ _ s
  · exact fun s cl => (ledger_unpinAll _ _).trans (ledger_cancelSems _ _ s)

/-- A task that ends has ended with the cause, and holds no cluster. -/
theorem task_endTask {s : State} {t : Nat} {x : Task} (c : Cause) (poison : Bool) (h : s.task t = some x) :
    (endTask s t c poison).task t = some { x with status := .ended, endCause := c, clusters := [] } := by
  have hc : (cancelTask s t).task t = some x := (task_of_ledger (ledger_cancelTask s t) t).trans h
  unfold endTask
  apply State.task_modTask_same
  cases poison <;> exact hc

@[simp] theorem adjTags_endTask (s : State) (t : Nat) (c : Cause) (poison : Bool) : (endTask s t c poison).adjTags = s.adjTags := by
  have hc : (cancelTask s t).adjTags = s.adjTags := adjTags_of_ledger (ledger_cancelTask s t)
  unfold endTask
  rw [State.modTask_adjTags]
  cases poison <;> exact hc

/-- A gang that an uncorrectable error aborts is ending with its cause, or has ended with it. -/
theorem aborted_abortGang {s : State} {t : Nat} {x : Task} (c : Cause) (h : s.task t = some x) : Aborted (abortGang s t c) t c := by
  have hstop : ∀ (s : State) (cl : Nat), (unpinAll ((settleEnded s cl).setCluster cl
      { (s.cancelled cl).stopped c with ctxs := (s.cluster cl).ctxs.filter (fun f => f.2.suspended.isNone && !f.2.parked && !f.2.waiting) }) cl).ledger
      = s.ledger := fun s cl => (ledger_unpinAll _ _).trans (ledger_settleEnded s cl)
  have hfold := task_of_ledger (foldl_keeps State.ledger _ hstop (s.clustersOf t) s) t
  have hmark := State.task_modTask_same (poisonBarriers _ t) t (fun x => { x with aborting := some c }) x (hfold.trans h)
  unfold abortGang finishAbort
  simp only [hmark, Option.bind_some]
  split
  · exact ⟨_, task_endTask c true hmark, .inr ⟨rfl, rfl⟩⟩
  · exact ⟨_, hmark, .inl rfl⟩

/-! ## The loader (R8, R255) -/

theorem ledger_fwWrite {s t : State} {root va : Nat} {bytes : List Byte} (h : fwWrite s root va bytes = .ok t) : t.ledger = s.ledger := by
  unfold fwWrite at h
  refine foldl_ok_keeps State.ledger h (fun _ _ => rfl) (fun s p t ht => ?_)
  dsimp only at ht
  split at ht
  · cases ht
  · cases ht; rfl

theorem ledger_setWritable {s t : State} {root va : Nat} {b : Bool} (h : setWritable s root va b = .ok t) : t.ledger = s.ledger := by
  unfold setWritable at h
  split at h
  · cases h
  · cases h; rfl

theorem ledger_mapCode {s t : State} {root : Nat} {o : XObject} (h : mapCode s root o = .ok t) : t.ledger = s.ledger := by
  unfold mapCode at h
  split at h
  · cases h
  · rename_i u hu
    cases h
    show u.ledger = s.ledger
    exact foldl_ok_keeps State.ledger hu (fun _ _ => rfl) (fun s k t ht => ledger_setWritable ht)

/-- Data and code that are put in place change neither a task nor a tag. -/
theorem ledger_install {s t : State} {root : Nat} {o : XObject} (h : install s root o = .ok t) : t.ledger = s.ledger := by
  unfold install at h
  split at h
  · cases h
  · rename_i s1 h1
    split at h
    · cases h
    · rename_i s2 h2
      have h1s : s1.ledger = s.ledger := foldl_ok_keeps State.ledger h1 (fun _ _ => rfl) (fun s d t ht => ledger_fwWrite ht)
      exact (ledger_mapCode h).trans ((ledger_fwWrite h2).trans h1s)

theorem task_placeObject {s u : State} {x : Task} {ld : Loaded} (h : placeObject s x ld = .ok u) (k : Nat) : u.task k = s.task k := by
  unfold placeObject at h
  split at h
  · cases h; rfl
  · split at h
    · cases h
    · rename_i hi
      cases h
      exact task_of_ledger (ledger_install hi) k

theorem ledger_commitStream {s t : State} {x : XObject} {m : Macro} {o : Nat × Nat} {ws : List Lane}
    (h : commitStream x m o (.ok s) ws = .ok t) : t.ledger = s.ledger := by
  unfold commitStream at h
  dsimp only at h
  split at h
  · cases h
  · split at h
    · cases h
    · cases h; rfl

/-- Streams that are committed wait in clusters, and change nothing else. -/
theorem ledger_commitAll {s t : State} {x : XObject} {os : List (Nat × Nat)} (h : commitAll s x os = .ok t) : t.ledger = s.ledger := by
  have herror : ∀ (m : Macro × (Nat × Nat)) e ws, commitStream x m.1 m.2 (.error e) ws = .error e := fun _ _ _ => rfl
  exact foldl_ok_keeps State.ledger h (fun e m => foldl_error (herror m) m.1.streams e)
    (fun s m t hm => foldl_ok_keeps State.ledger hm (herror m) (fun s ws t => ledger_commitStream))

@[simp] theorem ledger_takeClusters (s : State) (t : Nat) (x : Task) (ms : List Macro) : (takeClusters s t x ms).ledger = s.ledger := by
  unfold takeClusters
  apply foldl_keeps State.ledger
  intro s m
  apply foldl_keeps State.ledger
  exact fun _ _ => rfl

@[simp] theorem mem_takeClusters (s : State) (t : Nat) (x : Task) (ms : List Macro) : (takeClusters s t x ms).mem = s.mem := by
  unfold takeClusters
  apply mem_foldl
  intro s m
  apply mem_foldl
  exact fun _ _ => rfl

/-! ## LAUNCH_READY (R268) -/

theorem queues_modTask (s : State) (t : Nat) (f : Task → Task) : (s.modTask t f).fw.queues = s.fw.queues := by
  unfold State.modTask; split <;> rfl

/-- A launch that is refused has ended with the cause and has left its queue, and memory is as it was. -/
theorem refuseLaunch_spec {s : State} {q t : Nat} {x : Task} (c : Cause) (info : Nat) (h : s.task t = some x) :
    (refuseLaunch s q t c info).task t = some { x with status := .ended, endCause := c, refusal := info } ∧
      t ∉ SMap.get (refuseLaunch s q t c info).fw.queues [] q ∧ (refuseLaunch s q t c info).mem = s.mem := by
  refine ⟨State.task_modTask_same _ t _ x h, ?_, State.modTask_mem _ _ _⟩
  unfold refuseLaunch
  rw [queues_modTask]
  simp [dequeue]

/-- A launch without a semaphore goes on. -/
theorem launchSema_none {s : State} {q : Nat} {x : Task} (h : x.sema = 0) :
    launchSema s q x = .go { s with waiters := s.waiters.filter (fun w => !queueWaiter w q) } := if_pos h

theorem launchSema_misaligned {s : State} {q : Nat} {x : Task} (h : x.sema % 8 ≠ 0) : launchSema s q x = .refuse Cause.seqAlign 0 := by
  have h0 : x.sema ≠ 0 := fun e => h (by rw [e])
  simp [launchSema, h0, h]

/-- A launch that waits for its semaphore changes waiters alone. -/
theorem launchSema_wait {s u : State} {q : Nat} {x : Task} (h : launchSema s q x = .wait u) : ∃ ws, u = { s with waiters := ws } := by
  unfold launchSema at h
  dsimp only at h
  split at h
  · cases h
  split at h
  · cases h
  split at h
  · cases h
  split at h
  · cases h
  split at h
  · cases h
  split at h
  · split at h
    · cases h
    · cases h; exact ⟨s.waiters, rfl⟩
  · split at h
    · cases h
    · cases h; exact ⟨_, rfl⟩

section Ready
variable {s : State} {q t : Nat} {x : Task} {ld : Loaded} (hq : s.head q = some t) (ht : s.task t = some x) (hr : x.ready = false)
  (ho : SMap.find s.fw.objects x.handle = some ld)
include hq ht hr ho

theorem exec_launchReady_unprepared {c : Cause} {info : Nat} (hp : prepare s x ld = .error (c, info)) :
    exec (.launchReady q) s = .next (refuseLaunch s q t c info) := by
  show execLaunchReady q s = _
  simp [execLaunchReady, hq, ht, hr, ho, hp]

theorem exec_launchReady_prepared {s1 : State} {y : Task} (hp : prepare s x ld = .ok (s1, y)) :
    (∀ c info, launchSema s q x = .refuse c info → exec (.launchReady q) s = .next (refuseLaunch s q t c info)) ∧
    (∀ s2, launchSema s q x = .wait s2 → exec (.launchReady q) s = .next s2) ∧
    (∀ s2, launchSema s q x = .go s2 → exec (.launchReady q) s = .next (s2.setTask t { y with ready := true })) := by
  refine ⟨fun c info h => ?_, fun s2 h => ?_, fun s2 h => ?_⟩ <;>
  · show execLaunchReady q s = _
    simp [execLaunchReady, hq, ht, hr, ho, hp, h]

end Ready

/-! ## DISPATCH (R258, R269, R311, R317) -/

/-- The first ready head goes where it can. -/
theorem exec_dispatch_first {s u : State} {h : Nat × Nat × Task} {rest : List (Nat × Nat × Task)} (hr : readyHeads s = h :: rest)
    (hg : tryHead s h = some u) : exec .dispatch s = .next u := by
  show execDispatch s = _
  simp [execDispatch, hr, hg]

/-- Where no head can go, nothing changes. -/
theorem exec_dispatch_none {s : State} (h : ∀ k ∈ readyHeads s, tryHead s k = none) : exec .dispatch s = .next s := by
  have hn : (readyHeads s).findSome? (tryHead s) = none := List.findSome?_eq_none_iff.mpr h
  show execDispatch s = _
  rw [execDispatch, hn, Option.getD_none]

/-- A head whose placement stands, on clusters that are free, starts, unless the host holds a line that the loader writes. -/
theorem tryHead_free {s : State} {q t : Nat} {x : Task} (hd : x.decided = true) (hp : displaced s t x = false)
    (hf : ∀ cl ∈ x.clusters, (s.cluster cl).owner = none) :
    tryHead s (q, t, x) = if startHeld s x then none else some (startTask s q t x) := by
  have hfree : x.clusters.all (fun cl => (s.cluster cl).owner.isNone) = true :=
    List.all_eq_true.mpr (fun cl h => by rw [hf cl h]; rfl)
  simp [tryHead, hd, hp, goHead, hfree]

/-- A head whose placement another task has taken is placed anew. -/
theorem tryHead_displaced {s : State} {q t : Nat} {x y : Task} (hd : x.decided = true) (hp : displaced s t x = true)
    (hy : y = { x with origins := [], clusters := [] }) :
    (placementOf (s.setTask t y) y = none → tryHead s (q, t, x) = some (s.setTask t y)) ∧
    (∀ os z, placementOf (s.setTask t y) y = some os → z = { y with origins := os, clusters := placedClusters (s.macrosOf x) os } →
      z.clusters.any (reservedAbove (s.setTask t y) x.cls).contains = false →
      tryHead s (q, t, x) = some ((goHead (s.setTask t z) q t z).getD (s.setTask t z))) := by
  subst hy
  refine ⟨fun hn => ?_, fun os z hs hz hr => ?_⟩
  · simp [tryHead, hd, hp, hn]
  · subst hz
    simp only [tryHead, hd, hp, hs, Bool.not_true, Bool.and_false, Bool.false_eq_true, if_false]
    exact if_neg (by rw [hr]; exact Bool.false_ne_true)

section Start
variable {s : State} {q t : Nat} {x : Task} {ld : Loaded} {l : List (Nat × Nat × Nat)}

theorem ledger_beforeCommit : (beforeCommit s q t x ld l).ledger =
    ({ (dequeue s q t).fw with tasks := SMap.set s.fw.tasks t { x with status := .running, started := s.now },
                               served := SMap.set s.fw.served x.cls q, reloc := l }, s.adjTags) :=
  ledger_takeClusters _ t x _

theorem task_beforeCommit : (beforeCommit s q t x ld l).task t = some { x with status := .running, started := s.now } := by
  have hfw : (beforeCommit s q t x ld l).fw = _ := congrArg Prod.fst ledger_beforeCommit
  unfold State.task
  rw [hfw]
  exact SMap.find_set_same _ _ _

theorem adjTags_beforeCommit : (beforeCommit s q t x ld l).adjTags = s.adjTags := congrArg Prod.snd ledger_beforeCommit

theorem mem_beforeCommit : (beforeCommit s q t x ld l).mem = s.mem := mem_takeClusters _ t x _

/-- A task that starts, before its placements enter the relocated-configuration cache. -/
def leftQueue (s : State) (q t : Nat) (x : Task) : State :=
  let s1 := (dequeue s q t).setTask t { x with status := .running, started := s.now }
  { s1 with fw := { s1.fw with served := SMap.set s1.fw.served x.cls q } }

theorem task_leftQueue : (leftQueue s q t x).task t = some { x with status := .running, started := s.now } := SMap.find_set_same _ _ _

variable (ho : SMap.find s.fw.objects x.handle = some ld)
include ho

/-- What a start depends on: the relocated-configuration cache (R258), the streams, and the loader's writes. -/
theorem startTask_eq : startTask s q t x = (match relocCheck s.fw ld.obj.objid ld.obj.svn x.origins with
    | .error l => endTask { leftQueue s q t x with fw := { (leftQueue s q t x).fw with reloc := l } } t Cause.secVersion false
    | .ok l => match commitAll (beforeCommit s q t x ld l) ld.obj x.origins with
      | .error f => endTask (beforeCommit s q t x ld l) t f false
      | .ok s4 => match placeObject s4 x ld with
        | .error f => (endTask (beforeCommit s q t x ld l) t f.cause false).modTask t (fun x => { x with refusal := f.where_ })
        | .ok s5 => clearTags s5 x) := by
  unfold startTask
  rw [ho]
  rfl

theorem startTask_stale (hl : relocCheck s.fw ld.obj.objid ld.obj.svn x.origins = .error l) : startTask s q t x =
    endTask { leftQueue s q t x with fw := { (leftQueue s q t x).fw with reloc := l } } t Cause.secVersion false := by
  simp only [startTask_eq ho, hl]

variable (hl : relocCheck s.fw ld.obj.objid ld.obj.svn x.origins = .ok l)
include hl

theorem startTask_uncommitted {f : Cause} (hc : commitAll (beforeCommit s q t x ld l) ld.obj x.origins = .error f) :
    startTask s q t x = endTask (beforeCommit s q t x ld l) t f false := by
  simp only [startTask_eq ho, hl, hc]

variable {s4 : State} (hc : commitAll (beforeCommit s q t x ld l) ld.obj x.origins = .ok s4)
include hc

theorem startTask_placed {s5 : State} (hp : placeObject s4 x ld = .ok s5) : startTask s q t x = clearTags s5 x := by
  simp only [startTask_eq ho, hl, hc, hp]

theorem startTask_unplaced {f : XFault} (hp : placeObject s4 x ld = .error f) : startTask s q t x =
    (endTask (beforeCommit s q t x ld l) t f.cause false).modTask t (fun x => { x with refusal := f.where_ }) := by
  simp only [startTask_eq ho, hl, hc, hp]

end Start

/-! ## WINDOW_MOVE (R242, R251) -/

/-- The state in which the windows of a tensor and of its adjoint have moved to a least tail. -/
def slid (s : State) (task : Nat) (t : Task) (tensor m : Nat) : State :=
  let s1 := (t.windows tensor).foldl (fun s w => slide s task ((s.task task).getD t) w.1 (t.windowStart w.1 m) w.2) s
  { s1 with windows := SMap.set s1.windows (4294967296 * task + tensor) m }

section Window
variable {s : State} {task tensor m : Nat} {t : Task} (ht : s.task task = some t)
  (hm : leastTail s task tensor (t.tensor tensor).layout = some m)
include ht hm

theorem exec_windowMove_stays (h : t.live = false ∨ t.windows tensor = [] ∨
    ∃ w ∈ t.windows tensor, slideBusy s task t w.1 (t.windowStart w.1 m) w.2 = true) : exec (.windowMove task tensor) s = .next s := by
  show execWindowMove task tensor s = _
  simp only [execWindowMove, ht, hm]
  refine if_pos ?_
  rcases h with h | h | h
  · simp [h]
  · simp [h]
  · rw [List.any_eq_true.mpr h, Bool.or_true]

variable (hl : t.live = true) (hw : t.windows tensor ≠ [])
  (hb : ∀ w ∈ t.windows tensor, slideBusy s task t w.1 (t.windowStart w.1 m) w.2 = false)
include hl hw hb

omit ht hm in
/-- Nothing keeps the windows of a live task where they are. -/
theorem windows_unheld : ¬ (!t.live || (t.windows tensor).isEmpty ||
    (t.windows tensor).any (fun w => slideBusy s task t w.1 (t.windowStart w.1 m) w.2)) = true := by
  have hany : (t.windows tensor).any (fun w => slideBusy s task t w.1 (t.windowStart w.1 m) w.2) = false :=
    List.any_eq_false.mpr (fun w h => by rw [hb w h]; exact Bool.false_ne_true)
  rw [hl, hany, List.isEmpty_eq_false_iff.mpr hw]
  exact Bool.false_ne_true

/-- Where the pager meets no error, the windows stand at the least tail. -/
theorem exec_windowMove_moves
    (hf : (t.windows tensor).findSome? (fun w => slideFault s task t w.1 (t.windowStart w.1 m) w.2) = none) :
    ∃ u, exec (.windowMove task tensor) s = .next u ∧ SMap.find u.windows (4294967296 * task + tensor) = some m := by
  have hexec : exec (.windowMove task tensor) s = .next (slid s task t tensor m) := by
    show execWindowMove task tensor s = _
    simp only [execWindowMove, ht, hm]
    rw [if_neg (windows_unheld hl hw hb), hf]
    rfl
  exact ⟨_, hexec, SMap.find_set_same _ _ m⟩

theorem exec_windowMove_fault {c : Cause} (ha : t.aborting = none)
    (hf : (t.windows tensor).findSome? (fun w => slideFault s task t w.1 (t.windowStart w.1 m) w.2) = some c) :
    exec (.windowMove task tensor) s = .next (abortGang s task c) := by
  show execWindowMove task tensor s = _
  simp only [execWindowMove, ht, hm]
  rw [if_neg (windows_unheld hl hw hb), hf]
  simp [gangError, ht, hl, ha]

end Window

/-! ## GANG_ANNOUNCE (R268) -/

theorem exec_gangAnnounce_noted {s : State} {pkg : Nat} {key : Word} {objid : Lane} {rank : Nat} {ended : Bool} (hk : key ≠ 0#64)
    (hp : pkg ≠ Config.packageNumber) :
    ∃ t, exec (.gangAnnounce pkg key objid rank ended) s = .next t ∧
      { pkg := pkg, key := key, objid := objid, rank := rank, ended := ended } ∈ t.fw.gangs ∧ t.mem = s.mem :=
  ⟨_, if_neg (not_or.mpr ⟨hk, hp⟩), List.mem_append_right _ (List.mem_singleton.mpr rfl), rfl⟩

/-! ## The obligation -/

/-- The first clause of O54: a head that is not ready, by what its checks and its semaphore say. -/
theorem launchReady_outcomes {s : State} {q t : Nat} {x : Task} {ld : Loaded} (hq : s.head q = some t) (ht : s.task t = some x)
    (hr : x.ready = false) (ho : SMap.find s.fw.objects x.handle = some ld) :
    (∀ s1 y, prepare s x ld = .ok (s1, y) → x.sema = 0 → ∃ u, exec (.launchReady q) s = .next u ∧ u.task t = some { y with ready := true } ∧
      u.mem = s.mem ∧ u.fw.objects = s.fw.objects) ∧
    (∀ c info, prepare s x ld = .error (c, info) → ∃ u y, exec (.launchReady q) s = .next u ∧ u.task t = some y ∧
      y.status = .ended ∧ y.endCause = c ∧ y.refusal = info ∧ t ∉ SMap.get u.fw.queues [] q ∧ u.mem = s.mem) ∧
    (∀ s1 y, prepare s x ld = .ok (s1, y) → x.sema % 8 ≠ 0 → ∃ u z, exec (.launchReady q) s = .next u ∧ u.task t = some z ∧
      z.status = .ended ∧ z.endCause = Cause.seqAlign ∧ t ∉ SMap.get u.fw.queues [] q ∧ u.mem = s.mem) ∧
    (∀ s1 y s2, prepare s x ld = .ok (s1, y) → launchSema s q x = .wait s2 → exec (.launchReady q) s = .next s2 ∧ s2.mem = s.mem ∧
      s2.fw = s.fw ∧ s2.windows = s.windows) := by
  refine ⟨fun s1 y hp hs => ?_, fun c info hp => ?_, fun s1 y hp hs => ?_, fun s1 y s2 hp hs => ?_⟩
  · obtain ⟨-, -, hgo⟩ := exec_launchReady_prepared hq ht hr ho hp
    exact ⟨_, hgo _ (launchSema_none hs), State.task_setTask_same _ t _, rfl, rfl⟩
  · obtain ⟨htask, hqueue, hmem⟩ := refuseLaunch_spec (q := q) c info ht
    exact ⟨_, _, exec_launchReady_unprepared hq ht hr ho hp, htask, rfl, rfl, rfl, hqueue, hmem⟩
  · obtain ⟨hrefuse, -, -⟩ := exec_launchReady_prepared hq ht hr ho hp
    obtain ⟨htask, hqueue, hmem⟩ := refuseLaunch_spec (q := q) Cause.seqAlign 0 ht
    exact ⟨_, _, hrefuse _ _ (launchSema_misaligned hs), htask, rfl, rfl, hqueue, hmem⟩
  · obtain ⟨-, hwait, -⟩ := exec_launchReady_prepared hq ht hr ho hp
    obtain ⟨ws, rfl⟩ := launchSema_wait hs
    exact ⟨hwait _ hs, rfl, rfl, rfl⟩

/-- A ready head that may start, starts. -/
theorem exec_dispatch_starts {s : State} {q t : Nat} {x : Task} {rest : List (Nat × Nat × Task)} (hr : readyHeads s = (q, t, x) :: rest)
    (hd : x.decided = true) (hp : displaced s t x = false) (hh : startHeld s x = false)
    (hf : ∀ cl ∈ x.clusters, (s.cluster cl).owner = none) : exec .dispatch s = .next (startTask s q t x) :=
  exec_dispatch_first hr (by rw [tryHead_free hd hp hf, hh]; rfl)

/-- Settles O54: a refusal is an end of the task that leaves memory and tags alone, since what comes before it changes the firmware and
clusters; and what is committed and placed keeps the task's entry. -/
theorem launchEvents : Obligations.LaunchEvents := by
  unfold Obligations.LaunchEvents
  refine ⟨fun s q t x ld hq ht hr ho => launchReady_outcomes hq ht hr ho, ?placed, ?uncommitted, ?held, ?displaced, ?stale, ?none,
    fun s pkg key objid rank ended hk hp => exec_gangAnnounce_noted hk hp, ?window⟩
  case placed =>
    intro s q t x ld rest l s4 hr hd hp hh hf ho hl hc
    have hstart := exec_dispatch_starts hr hd hp hh hf
    refine ⟨fun s5 h5 => ⟨startTask_placed ho hl hc h5 ▸ hstart, ?_⟩, fun f h5 => ?_⟩
    · calc (clearTags s5 x).task t = s4.task t := task_placeObject h5 t
        _ = (beforeCommit s q t x ld l).task t := task_of_ledger (ledger_commitAll hc) t
        _ = _ := task_beforeCommit
    · rw [startTask_unplaced ho hl hc h5] at hstart
      have hend := task_endTask f.cause false (task_beforeCommit (s := s) (q := q) (t := t) (x := x) (ld := ld) (l := l))
      exact ⟨_, _, hstart, State.task_modTask_same _ t _ _ hend, rfl, rfl, rfl, by simp [adjTags_beforeCommit], by simp [mem_beforeCommit]⟩
  case uncommitted =>
    intro s q t x ld rest l f hr hd hp hh hf ho hl hc
    have hstart := exec_dispatch_starts hr hd hp hh hf
    rw [startTask_uncommitted ho hl hc] at hstart
    exact ⟨_, _, hstart, task_endTask f false task_beforeCommit, rfl, rfl, by simp [adjTags_beforeCommit], by simp [mem_beforeCommit]⟩
  case held =>
    intro s q t x hr hd hp hh hf
    exact exec_dispatch_none (by rw [hr]; simp [tryHead_free hd hp hf, hh])
  case displaced =>
    intro s q t x y rest hr hd hp hy
    obtain ⟨hnone, hsome⟩ := tryHead_displaced (q := q) hd hp hy
    exact ⟨fun h => exec_dispatch_first hr (hnone h), fun os z hs hz hres => exec_dispatch_first hr (hsome os z hs hz hres)⟩
  case stale =>
    intro s q t x ld rest l hr hd hp hh hf ho hl
    have hstart := exec_dispatch_starts hr hd hp hh hf
    rw [startTask_stale ho hl] at hstart
    exact ⟨_, _, hstart, task_endTask Cause.secVersion false task_leftQueue, rfl, rfl, by rw [adjTags_endTask]; rfl, by rw [mem_endTask]; rfl⟩
  case none =>
    intro s hr
    exact exec_dispatch_none (by simp [hr])
  case window =>
    intro s task tensor m t ht hm
    exact ⟨fun hl hw hb hf => exec_windowMove_moves ht hm hl hw hb hf,
      fun c hl ha hw hb hf => ⟨_, exec_windowMove_fault ht hm hl hw hb ha hf, aborted_abortGang c ht, mem_abortGang s task c⟩,
      exec_windowMove_stays ht hm⟩

end Sys2Proof.Machine
end

section
/-! PROOFS. Medlar stores and spill rings at work (R53, R54, R86, R171, R177). -/

namespace Sys2Proof.Machine

/-! ## What a change of clusters keeps -/

/-- A change of one cluster that keeps what p reads of a cluster keeps it of every cluster. -/
theorem modCluster_keeps {β : Type} (p : Cluster → β) {f : Cluster → Cluster} (hf : ∀ c, p (f c) = p c) (s : State) (k cl : Nat) :
    p ((s.modCluster k f).cluster cl) = p (s.cluster cl) := by
  by_cases h : cl = k
  · rw [h, State.cluster_modCluster_same, hf]
  · rw [State.cluster_modCluster_other _ _ _ _ h]

/-- Marking actors fireable changes slots alone. -/
theorem refresh_keeps {β : Type} (p : Cluster → β) (hp : ∀ c m x, p (Cluster.setSlot c m x) = p c) (s : State) (k cl : Nat) :
    p ((refresh s k).cluster cl) = p (s.cluster cl) := by
  apply modCluster_keeps p
  intro c
  apply foldl_keeps p
  intro c m
  split
  · exact hp ..
  · split
    · exact hp ..
    · rfl

theorem lookAround_keeps {β : Type} (p : Cluster → β) (hp : ∀ c m x, p (Cluster.setSlot c m x) = p c) (s : State) (k key cl : Nat) :
    p ((lookAround s k key).cluster cl) = p (s.cluster cl) := by
  have hcons : p ((if key / 16 = 0x20 then refresh s k else s).cluster cl) = p (s.cluster cl) := by
    split
    · exact refresh_keeps p hp s k cl
    · rfl
  unfold lookAround
  dsimp only
  split
  · split
    · rw [refresh_keeps p hp, hcons]
    · exact hcons
  · exact hcons

/-! ## A channel that changes -/

section Channel
variable {s : State} {cl key : Nat} {ch : Chan}

theorem chan_modChan (f : Chan → Chan) (h : (s.cluster cl).chan key = some ch) :
    ((s.modChan cl key f).cluster cl).chan key = some (f ch) := by
  simp [State.modChan, h]

/-- A channel that changes within itself counts the slots it has freed (R86). -/
theorem chan_moveIn (f : Chan → Chan) (h : (s.cluster cl).chan key = some ch) :
    ((s.moveIn cl key f).cluster cl).chan key = some ((f ch).since s.now ch) :=
  (lookAround_keeps (fun c => c.chan key) (fun _ _ _ => rfl) _ cl key cl).trans (chan_modChan _ h)

end Channel

theorem Chan.since_gain {ch old : Chan} (now : Nat) (h : old.free < ch.free) : ch.since now old = ch.count now (ch.free - old.free) :=
  if_pos h

theorem Chan.since_no_gain {ch old : Chan} (now : Nat) (h : ch.free ≤ old.free) : ch.since now old = ch := if_neg (Nat.not_lt.mpr h)

theorem Chan.count_eq (ch : Chan) (now k : Nat) :
    ch.count now k = { ch with mark := now, took := (if ch.mark = now then ch.took else 0) + k } := by
  unfold Chan.count
  split
  · rfl
  · rw [Nat.zero_add]

/-! ## STORE_ACCEPT, STORE_ISSUE and STORE_ABORT (R53, R54, R177) -/

section Store
variable {s : State} {cl port : Nat} {ch : Chan} {st : Store} {it : Item} {rest : List Item}

/-- A store takes nothing while its pool block is a victim's, nor a beat when it is δ ahead. -/
theorem exec_storeAccept_waits (hc : (s.cluster cl).chan port = some ch) (hs : ch.store = some st) (hi : ch.items = it :: rest)
    (hd : st.discard = false)
    (hw : (s.cluster cl).poolBlocks.any (fun b => s.claimed cl (32 + b)) = true ∨ it.token = false ∧ st.c + st.delta ≤ st.a) :
    exec (.storeAccept cl port) s = .next s := by
  show execStoreAccept cl port s = _
  simp only [execStoreAccept, hc, hs, hi, hd]
  rcases hw with hp | ⟨ht, ha⟩
  · simp [hp]
  · simp [ht, ha]

/-- What a store accepts leaves its channel's tracks. -/
theorem exec_storeAccept_takes (hc : (s.cluster cl).chan port = some ch) (hs : ch.store = some st) (hi : ch.items = it :: rest)
    (hd : st.discard = false) (hp : (s.cluster cl).poolBlocks.any (fun b => s.claimed cl (32 + b)) = false) (he : st.ended = false)
    (ha : st.allows ch.op it = true) (hr : it.token = true ∨ st.a < st.c + st.delta) :
    exec (.storeAccept cl port) s = .next (s.moveIn cl port (fun x => { x.dropFront with store := some (st.accept ch.op it) })) := by
  have hroom : (!it.token && decide (st.c + st.delta ≤ st.a)) = false := by
    rcases hr with ht | hlt
    · simp [ht]
    · simp [Nat.not_le.mpr hlt]
  show execStoreAccept cl port s = _
  simp [execStoreAccept, hc, hs, hi, hd, hp, he, ha, hroom]

/-- A store that takes a beat, of data or dropped, counts it. -/
theorem Store.addBeat_a (o : Order) (st : Store) (it : Item) : (st.addBeat o it).a = st.a + 1 := by
  unfold Store.addBeat
  split <;> rfl

/-- The next item of a store goes to its consumer's end. -/
theorem exec_storeIssue_issues {u : Store} (hc : (s.cluster cl).chan port = some ch) (hs : ch.store = some st) (hl : ch.out.length < 4)
    (hn : st.trim.next ch = some (it, u)) :
    exec (.storeIssue cl port) s = .next (s.moveIn cl port (fun x => Chan.arrive { x with store := some u.trim } it)) := by
  show execStoreIssue cl port s = _
  simp [execStoreIssue, hc, hs, Config.hopItems, Nat.not_le.mpr hl, hn]

theorem exec_storeIssue_full (hc : (s.cluster cl).chan port = some ch) (hs : ch.store = some st) (hl : 4 ≤ ch.out.length) :
    exec (.storeIssue cl port) s = .next s := by
  show execStoreIssue cl port s = _
  simp [execStoreIssue, hc, hs, Config.hopItems, hl]

/-- A beat of a period whose span has not drained waits until the store is δ ahead (R53). -/
theorem Store.next_waits {p : Period} {ps : List Period} (hp : st.periods = p :: ps) (hpre : p.pre = []) (hd : st.drained ch.op p = false)
    (hb : st.issued < p.beats.length ∨ p.closed = false) (ha : st.a < st.c + st.delta) : st.next ch = none := by
  have hbeat : st.issued < p.beats.length ∨ (!p.closed) = true := by simpa using hb
  unfold Store.next
  simp only [hp, hpre, hd, if_pos hbeat]
  simp [Nat.not_le.mpr ha]

/-- The cause that an aborted phase is given: that of the abort token which came, or ORD.STREAM. -/
def Item.abortCause : Item → Cause
  | .abort c => c
  | _ => Cause.ordStream

/-- An item that may not stand where it does ends the phase with one abort token (R54). -/
theorem exec_storeAbort_ends (hc : (s.cluster cl).chan port = some ch) (hs : ch.store = some st) (hi : ch.items = it :: rest)
    (hd : st.discard = false) (he : st.ended = false) (ha : st.allows ch.op it = false) (hl : ch.out.length < 4) :
    exec (.storeAbort cl port) s = .next (s.moveIn cl port (fun x => Chan.arrive { x.dropFront with
      store := some { st with periods := [], a := 0, c := 0, issued := 0, discard := !it.ends } } (.abort it.abortCause))) := by
  show execStoreAbort cl port s = _
  simp only [execStoreAbort, hc, hs, hi]
  rw [if_neg (by simp [hd, he, ha, Config.hopItems, Nat.not_le.mpr hl]), he]
  cases it <;> rfl

theorem Chan.dropFront_eq (hi : ch.items = it :: rest) : ch.dropFront = { ch with items := rest } := by
  simp [Chan.dropFront, hi]

/-- An item that arrives at the end of a consumer behind a store stands behind those already there. -/
theorem Chan.arrive_store (hk : ch.sink = false) (hs : ch.store.isSome = true) : ch.arrive it = { ch with out := ch.out ++ [it] } := by
  simp [Chan.arrive, hk, hs]

end Store

/-! ## RING_SPILL and RING_REFILL (R171) -/

section Ring
variable {s : State} {cl port : Nat} {ch : Chan} {it : Item} {rest : List Item}

/-- An item reaches a ring that has a slot for it. -/
theorem chan_ringSpill_takes {id : Nat} {more : List (Nat × Item)} (hc : (s.cluster cl).chan port = some ch)
    (hs : ch.spilling = (id, it) :: more) (hr : ch.ring.length < ch.ringSize) :
    ∃ t, exec (.ringSpill cl port) s = .next t ∧ (t.cluster cl).chan port = some { ch with spilling := more, ring := ch.ring ++ [it] } :=
  ⟨_, rfl, (chan_modChan _ hc).trans (by simp [hs, hr])⟩

theorem chan_ringSpill_full (hc : (s.cluster cl).chan port = some ch) (hr : ch.ringSize ≤ ch.ring.length) :
    ∃ t, exec (.ringSpill cl port) s = .next t ∧ (t.cluster cl).chan port = some ch := by
  refine ⟨_, rfl, (chan_modChan _ hc).trans ?_⟩
  split <;> simp [Nat.not_lt.mpr hr]

/-- What comes out of the ring for a consumer that takes its items stands behind those in the track. -/
theorem Chan.refill_track (hk : ch.sink = false) : ch.refill it = { ch with items := ch.items ++ [it] } := by
  simp [Chan.refill, hk]

/-- The oldest item of a ring takes a free slot of the track. -/
theorem chan_ringRefill_takes (hc : (s.cluster cl).chan port = some ch) (hr : ch.ring = it :: rest) (hd : ch.inTrack < ch.depth)
    (hk : ch.sink = false) :
    ∃ t, exec (.ringRefill cl port) s = .next t ∧
      (t.cluster cl).chan port = some (({ ch with ring := rest, items := ch.items ++ [it] } : Chan).since s.now ch) := by
  refine ⟨_, rfl, (chan_moveIn _ hc).trans ?_⟩
  simp only [hr, if_pos hd]
  rw [Chan.refill_track (by exact hk)]

theorem chan_ringRefill_full (hc : (s.cluster cl).chan port = some ch) (hd : ch.depth ≤ ch.inTrack) :
    ∃ t, exec (.ringRefill cl port) s = .next t ∧ (t.cluster cl).chan port = some ch := by
  refine ⟨_, rfl, (chan_moveIn _ hc).trans ?_⟩
  split <;> simp [Nat.not_lt.mpr hd, Chan.since_no_gain]

end Ring

/-! ## The obligation -/

/-- Settles O44: each step changes its one channel and then marks actors alone, so the channel it leaves can be read off the change. -/
theorem storeEvents : Obligations.StoreEvents := by
  unfold Obligations.StoreEvents
  refine ⟨?store, fun o st b => ⟨Store.addBeat_a .., Store.addBeat_a ..⟩, ?issue,
    fun ch st p ps hp hpre hd hb ha => Store.next_waits hp hpre hd hb ha, ?ring, ?since⟩
  case store =>
    intro s cl port ch st it rest hc hs hi hd
    refine ⟨fun hp => exec_storeAccept_waits hc hs hi hd (.inl hp), fun hp he ha hr => ?_,
      fun ht ha => exec_storeAccept_waits hc hs hi hd (.inr ⟨ht, ha⟩), fun he ha hl hk => ?_⟩
    · exact ⟨_, exec_storeAccept_takes hc hs hi hd hp he ha hr, by rw [chan_moveIn _ hc, Chan.dropFront_eq hi]⟩
    · refine ⟨_, exec_storeAbort_ends hc hs hi hd he ha hl, ?_⟩
      rw [chan_moveIn _ hc, Chan.dropFront_eq hi, Chan.arrive_store (by exact hk) rfl]
      cases it <;> rfl
  case issue =>
    intro s cl port ch st u it hc hs hk
    refine ⟨fun hl hn => ⟨_, exec_storeIssue_issues hc hs hl hn, ?_⟩, exec_storeIssue_full hc hs⟩
    rw [chan_moveIn _ hc, Chan.arrive_store (by exact hk) rfl]
  case ring =>
    intro s cl port ch it rest hc
    exact ⟨fun id more hs => ⟨chan_ringSpill_takes hc hs, chan_ringSpill_full hc⟩, chan_ringRefill_takes hc, chan_ringRefill_full hc⟩
  case since =>
    intro ch old now
    exact ⟨fun h => (Chan.since_gain now h).trans (Chan.count_eq ..), Chan.since_no_gain now⟩

end Sys2Proof.Machine
end

section
/-! PROOFS. Phases of an address generator, its beats and its bank grants (R46, R163, R165, R167, R173, R191, R249). -/

namespace Sys2Proof.Machine

/-! ## Releasing banks (R165) -/

/-- Releasing banks changes the list of those released and the hand-offs under way alone: what p reads beside them stays. -/
def KeptByRelease {β : Type} (g : Nat) (p : Cluster → β) : Prop :=
  ∀ (c : Cluster) rs hs, p { c.setAg g { c.ag g with released := rs } with handoffs := hs } = p c

section Release
variable {g : Nat}

theorem keptByRelease_ag {β : Type} (f : Ag → β) (hf : ∀ (x : Ag) rs, f { x with released := rs } = f x) :
    KeptByRelease g (fun c => f (c.ag g)) := by
  intro c rs hs
  exact (congrArg f (Cluster.ag_setAg_same c g _)).trans (hf _ rs)

variable {β : Type} {p : Cluster → β} (hp : KeptByRelease g p)
include hp

theorem releaseBank_keeps (now : Nat) (c : Cluster) (bank : Nat) : p (releaseBank now c g bank) = p c := by
  unfold releaseBank
  dsimp only
  split
  · exact hp ..
  · rfl

theorem releaseAll_keeps (now : Nat) (c : Cluster) : p (releaseAll now c g) = p c := by
  unfold releaseAll
  split
  · rfl
  · split
    · split
      · exact releaseBank_keeps hp ..
      · rfl
    · exact foldl_keeps p _ (fun c b => releaseBank_keeps hp _ c b) _ c

theorem releaseBelow_keeps (now : Nat) (c : Cluster) (bank : Nat) : p (releaseBelow now c g bank) = p c := by
  unfold releaseBelow
  rw [apply_ite p, foldl_keeps p _ (fun c b => releaseBank_keeps hp now c b), ite_self]

/-- A generator goes on with a phase: the phase and the published tail are new, and banks may be released. -/
theorem setPhase_keeps (s : State) (cl : Nat) (q : Phase) : ∃ tail, p ((setPhase s cl g q).cluster cl) =
    p ((s.cluster cl).setAg g { (s.cluster cl).ag g with phase := some q, tail := tail }) := by
  unfold setPhase
  simp only [State.cluster_modCluster_same]
  rw [apply_ite p, releaseAll_keeps hp, ite_self]
  exact ⟨_, rfl⟩

end Release

/-! ## A generator that goes on -/

section SetPhase
variable (s : State) (cl g : Nat) (p : Phase)

@[simp] theorem phase_setPhase : (((setPhase s cl g p).cluster cl).ag g).phase = some p := by
  obtain ⟨tail, h⟩ := setPhase_keeps (keptByRelease_ag (g := g) Ag.phase (fun _ _ => rfl)) s cl p
  simp [h]

@[simp] theorem req_setPhase : (((setPhase s cl g p).cluster cl).ag g).req = ((s.cluster cl).ag g).req := by
  obtain ⟨tail, h⟩ := setPhase_keeps (keptByRelease_ag (g := g) Ag.req (fun _ _ => rfl)) s cl p
  simp [h]

@[simp] theorem auto_setPhase : (((setPhase s cl g p).cluster cl).ag g).auto = ((s.cluster cl).ag g).auto := by
  obtain ⟨tail, h⟩ := setPhase_keeps (keptByRelease_ag (g := g) Ag.auto (fun _ _ => rfl)) s cl p
  simp [h]

@[simp] theorem starts_setPhase : ((setPhase s cl g p).cluster cl).starts = (s.cluster cl).starts := by
  obtain ⟨_, h⟩ := setPhase_keeps (g := g) (p := Cluster.starts) (fun _ _ _ => rfl) s cl p
  exact h

@[simp] theorem spad_setPhase : ((setPhase s cl g p).cluster cl).spad = (s.cluster cl).spad := by
  obtain ⟨_, h⟩ := setPhase_keeps (g := g) (p := Cluster.spad) (fun _ _ _ => rfl) s cl p
  exact h

@[simp] theorem chans_setPhase : ((setPhase s cl g p).cluster cl).chans = (s.cluster cl).chans := by
  obtain ⟨_, h⟩ := setPhase_keeps (g := g) (p := Cluster.chans) (fun _ _ _ => rfl) s cl p
  exact h

end SetPhase

/-- The next beat of a phase, or the first of its next period, keeps what the phase has moved. -/
theorem Phase.bytes_next (c : Cluster) (g : Nat) (p : Phase) (entries : Nat) : (p.next c g entries).bytes = p.bytes := by
  unfold Phase.next
  dsimp only
  split
  · split <;> rfl
  · rfl

theorem stepBeat_eq_setPhase (s : State) (cl g : Nat) (p : Phase) (limit entries : Nat) :
    ∃ q, stepBeat s cl g p limit entries = setPhase s cl g q ∧ q.bytes = p.bytes := by
  unfold stepBeat
  dsimp only
  split
  · exact ⟨_, rfl, Phase.bytes_next ..⟩
  · exact ⟨_, rfl, rfl⟩

/-! ## A phase that ends (R165, R173, R191, R249) -/

@[simp] theorem cluster_settle (s : State) (cl id k : Nat) : (s.settle cl id).cluster k = s.cluster k := State.cluster_congr rfl k

@[simp] theorem ag_modRun (s : State) (cl id g : Nat) (f : Run → Run) : ((s.modRun cl id f).cluster cl).ag g = (s.cluster cl).ag g :=
  congrArg (·.ag g) (State.cluster_modCluster_same s cl _)

@[simp] theorem starts_modRun (s : State) (cl id : Nat) (f : Run → Run) : ((s.modRun cl id f).cluster cl).starts = (s.cluster cl).starts := by
  simp [State.modRun]

section Finish
variable (s : State) (cl g : Nat) (p : Phase) (status : Cause)

@[simp] theorem ag_endRun (id count : Nat) : ((endRun s cl id status count).cluster cl).ag g = (s.cluster cl).ag g := by
  simp [endRun]

/-- An ended phase leaves its generator free, with the status of the phase, whether or not a command waits for it. -/
theorem finishPhase_keeps {β : Type} (f : Ag → β) (hf : ∀ (x : Ag) rs, f { x with released := rs } = f x) :
    f (((finishPhase s cl g p status).cluster cl).ag g) =
      f { (s.cluster cl).ag g with phase := none, req := none, tail := none, last := status } := by
  have hloop : ∀ c : Cluster, (loopEnd s.now c (agEl g)).ag g = c.ag g := by
    intro c; unfold loopEnd; split <;> rfl
  have hfree : ∀ c : Cluster, f ((loopEnd s.now (if p.over then c else releaseAll s.now c g) (agEl g)).ag g) = f (c.ag g) := by
    intro c
    rw [hloop, apply_ite (fun c : Cluster => f (c.ag g)), releaseAll_keeps (keptByRelease_ag f hf), ite_self]
  unfold finishPhase
  dsimp only
  split
  · rw [ag_endRun, State.cluster_modCluster_same, hfree, Cluster.ag_setAg_same]
  · rw [State.cluster_modCluster_same, hfree, Cluster.ag_setAg_same]

@[simp] theorem phase_finishPhase : (((finishPhase s cl g p status).cluster cl).ag g).phase = none :=
  finishPhase_keeps s cl g p status Ag.phase (fun _ _ => rfl)

@[simp] theorem auto_finishPhase : (((finishPhase s cl g p status).cluster cl).ag g).auto = ((s.cluster cl).ag g).auto :=
  finishPhase_keeps s cl g p status Ag.auto (fun _ _ => rfl)

@[simp] theorem last_finishPhase : (((finishPhase s cl g p status).cluster cl).ag g).last = status :=
  finishPhase_keeps s cl g p status Ag.last (fun _ _ => rfl)

end Finish

/-! ## What forbids a phase (R184, R249) -/

/-- A table has an entry with a property when the value read at some index has it and the default has not. -/
theorem SMap.any_of_get {α : Type} (q : α → Bool) {m : SMap α} {d : α} {i : Nat} (hd : q d = false) (h : q (SMap.get m d i) = true) :
    m.any (fun e => q e.2) = true := by
  induction m with
  | nil => exact absurd h (by simp [SMap.get, SMap.find, hd])
  | cons e m ih =>
    obtain ⟨k, x⟩ := e
    rw [List.any_cons, Bool.or_eq_true]
    by_cases hk : k = i
    · exact .inl (by simpa [SMap.get, SMap.find, hk] using h)
    · exact .inr (ih (by simpa [SMap.get, SMap.find, hk] using h))

/-- A new value that has a property as the old one had it, which the default has not, changes nothing of whether an entry has it. -/
theorem SMap.any_set {α : Type} (q : α → Bool) (m : SMap α) {d v : α} {i : Nat} (hd : q d = false) (hv : q v = q (SMap.get m d i)) :
    (SMap.set m i v).any (fun e => q e.2) = m.any (fun e => q e.2) := by
  induction m with
  | nil => simpa [SMap.set, SMap.get, SMap.find, hd] using hv
  | cons e m ih =>
    obtain ⟨k, x⟩ := e
    unfold SMap.set
    split
    · cases hq : q v with
      | false => simp [hq]
      | true => rw [List.any_cons, hq, Bool.true_or, SMap.any_of_get q hd (hv.symm.trans hq)]
    · split
      · next hi => simp [hv, SMap.get, SMap.find, hi]
      · next hi => rw [List.any_cons, List.any_cons, ih (by simpa [SMap.get, SMap.find, Ne.symm hi] using hv)]

/-- A port has consumers where some cluster has a channel from it. -/
theorem outsOf_isEmpty (s : State) (cl port : Nat) :
    (s.outsOf cl port).isEmpty = !s.clusters.any (fun e => e.2.chans.any (fun x => x.2.prodCl == cl && x.2.prodPort == port)) := by
  rw [Bool.eq_iff_iff]
  simp [State.outsOf]

/-- A change of a cluster that keeps its channels keeps which ports have consumers. -/
theorem outsOf_isEmpty_modCluster (s : State) (k cl port : Nat) {f : Cluster → Cluster} (hf : (f (s.cluster k)).chans = (s.cluster k).chans) :
    ((s.modCluster k f).outsOf cl port).isEmpty = (s.outsOf cl port).isEmpty := by
  rw [outsOf_isEmpty, outsOf_isEmpty]
  exact congrArg (! ·) (SMap.any_set (fun c : Cluster => c.chans.any (fun x => x.2.prodCl == cl && x.2.prodPort == port)) s.clusters
    (d := Cluster.reset) rfl (by rw [hf]; rfl))

/-! ## Discarding what a channel holds (R94) -/

section Discard
variable {s : State} {cl key : Nat} {ch : Chan}

theorem chan_takeItems (k : Nat) (h : (s.cluster cl).chan key = some ch) :
    ((takeItems s cl key k).cluster cl).chan key = some ((ch.pop k).since s.now ch) := by
  unfold takeItems
  rw [h]
  dsimp only
  split
  · rw [refresh_keeps (fun c => c.chan key) (fun _ _ _ => rfl)]; simp
  · simp

theorem ags_takeItems (s : State) (cl key k : Nat) : ((takeItems s cl key k).cluster cl).ags = (s.cluster cl).ags := by
  unfold takeItems
  split
  · rfl
  · dsimp only
    split
    · rw [refresh_keeps Cluster.ags (fun _ _ _ => rfl)]; simp
    · simp

theorem ags_modChan (s : State) (cl key : Nat) (f : Chan → Chan) : ((s.modChan cl key f).cluster cl).ags = (s.cluster cl).ags := by
  apply modCluster_keeps Cluster.ags
  intro c
  split <;> rfl

theorem chan_discardPhase (h : (s.cluster cl).chan key = some ch) : ∃ x, ((discardPhase s cl key).cluster cl).chan key = some x := by
  unfold discardPhase
  dsimp only
  split
  · exact ⟨_, chan_takeItems _ h⟩
  · exact ⟨_, chan_modChan _ (chan_takeItems _ h)⟩

theorem ags_discardPhase (s : State) (cl key : Nat) : ((discardPhase s cl key).cluster cl).ags = (s.cluster cl).ags := by
  unfold discardPhase
  dsimp only
  split
  · exact ags_takeItems ..
  · exact (ags_modChan ..).trans (ags_takeItems ..)

/-- The abort token that cuts a phase is the first item its consumer sees. -/
theorem Chan.cutWith_seen (ch : Chan) (st : Cause) : (ch.cutWith st).seen.head? = some (.abort st) := by
  by_cases h : ch.store.isSome = true
  · simp [Chan.cutWith, Chan.seen, h]
  · simp [Chan.cutWith, Chan.seen, h]

end Discard

/-! ## The start of a phase (R167, R173, R249) -/

section Start
variable {s : State} {cl g : Nat}

/-- A generator that may start a phase: idle, in a cluster that a task owns, not about to change, and with its START where it needs one. -/
structure MayStart (s : State) (cl g : Nat) : Prop where
  listed : g < 8
  idle : ((s.cluster cl).ag g).phase = none
  enabled : (s.cluster cl).agEn g = true
  owned : (s.cluster cl).owner.isSome = true
  going : (s.cluster cl).stopping = false
  settled : s.settling cl (agEl g) = false
  started : (s.cluster cl).swTile (agEl g) = true → agEl g ∈ (s.cluster cl).starts

/-- The STARTs that are left when a phase has begun: with SW, and unless AUTO asks for the phase, the generator's own is used. -/
def startsLeft (c : Cluster) (g : Nat) : List Nat :=
  if c.swTile (agEl g) && !(c.ag g).auto then c.starts.filter (fun a => a != agEl g) else c.starts

/-- The generator's cluster as a phase begins, with AUTO as given. -/
def beginAg (c0 : Cluster) (g : Nat) (auto : Bool) (c : Cluster) : Cluster :=
  { c.setAg g { c0.ag g with released := [], curBank := none, req := none, auto := auto } with starts := startsLeft c0 g }

/-- The state in which a phase under a command begins. -/
def commandStart (s : State) (cl g : Nat) : State :=
  s.modCluster cl (fun c => beginAg (s.cluster cl) g (c.ag g).auto c)

/-- The state in which a phase without a command begins: a name is taken for its writes, and AUTO has been answered. -/
def bareStart (s : State) (cl g : Nat) : State := s.fresh.2.modCluster cl (beginAg (s.cluster cl) g false)

/-- The command under which a phase would begin: none where AUTO asks for the phase. -/
def phaseRun (c : Cluster) (g : Nat) : Option Run :=
  if !(c.swTile (agEl g) && !(c.ag g).auto) && (c.ag g).auto then none else waitingRun c g

theorem phaseRun_of_auto {c : Cluster} (ha : (c.ag g).auto = true) : phaseRun c g = none := by simp [phaseRun, ha]

theorem phaseRun_of_not_auto {c : Cluster} (ha : (c.ag g).auto = false) : phaseRun c g = waitingRun c g := by simp [phaseRun, ha]

theorem phaseRun_of_none {c : Cluster} (hr : waitingRun c g = none) : phaseRun c g = none := by simp [phaseRun, hr]

/-- A START is used only where one stands. -/
theorem MayStart.has_start (h : MayStart s cl g) :
    ((s.cluster cl).swTile (agEl g) && !((s.cluster cl).ag g).auto && !(s.cluster cl).starts.contains (agEl g)) = false := by
  cases hsw : (s.cluster cl).swTile (agEl g) with
  | false => rfl
  | true => simp [h.started hsw]

theorem MayStart.not_held (h : MayStart s cl g) : (((s.cluster cl).ag g).phase.isSome || !(s.cluster cl).agEn g || (s.cluster cl).owner.isNone ||
    (s.cluster cl).stopping || (s.settling cl (agEl g) && !((s.cluster cl).ag g).auto) || decide (8 ≤ g)) = false := by
  have ho : (s.cluster cl).owner.isNone = false := by rw [← Option.not_isSome, h.owned]; rfl
  simp [h.idle, h.enabled, ho, h.going, h.settled, h.listed]

/-- Without AUTO a phase begins under the command that waits for one. -/
theorem exec_agPhaseStart_command (h : MayStart s cl g) {r : Run} (ha : ((s.cluster cl).ag g).auto = false)
    (hr : waitingRun (s.cluster cl) g = some r) :
    exec (.agPhaseStart cl g) s = .next ((setPhase (commandStart s cl g) cl g (newPhase (commandStart s cl g) cl g (some r.cmd) r.cmd.id)).modRun
      cl r.cmd.id (fun r => { r with aux := 1 })) := by
  have hn := (phaseRun_of_not_auto ha).trans hr
  rw [phaseRun] at hn
  show execAgPhaseStart cl g s = _
  simp only [execAgPhaseStart]
  rw [h.not_held, if_neg Bool.false_ne_true, h.has_start, if_neg Bool.false_ne_true, hn]
  rfl

/-- AUTO, or a START of a generator for which no command waits, begins a phase of its configuration. -/
theorem exec_agPhaseStart_bare (h : MayStart s cl g)
    (hb : ((s.cluster cl).ag g).auto = true ∨ (waitingRun (s.cluster cl) g = none ∧ (s.cluster cl).swTile (agEl g) = true)) :
    exec (.agPhaseStart cl g) s = .next (barePhase (bareStart s cl g) cl g (newPhase (bareStart s cl g) cl g none s.nextId)) := by
  have hn : phaseRun (s.cluster cl) g = none := hb.elim phaseRun_of_auto (fun h => phaseRun_of_none h.1)
  rw [phaseRun] at hn
  have hsome : ((s.cluster cl).swTile (agEl g) && !((s.cluster cl).ag g).auto || ((s.cluster cl).ag g).auto) = true := by
    rcases hb with ha | ⟨-, hsw⟩
    · simp [ha]
    · simp [hsw]
  show execAgPhaseStart cl g s = _
  simp only [execAgPhaseStart]
  rw [h.not_held, if_neg Bool.false_ne_true, h.has_start, if_neg Bool.false_ne_true, hn]
  dsimp only
  rw [if_pos hsome]
  rfl

@[simp] theorem cluster_commandStart :
    (commandStart s cl g).cluster cl = beginAg (s.cluster cl) g ((s.cluster cl).ag g).auto (s.cluster cl) :=
  State.cluster_modCluster_same s cl _

@[simp] theorem cluster_bareStart : (bareStart s cl g).cluster cl = beginAg (s.cluster cl) g false (s.cluster cl) :=
  State.cluster_modCluster_same s.fresh.2 cl _

@[simp] theorem ag_beginAg (c0 c : Cluster) (auto : Bool) :
    (beginAg c0 g auto c).ag g = { c0.ag g with released := [], curBank := none, req := none, auto := auto } :=
  Cluster.ag_setAg_same c g _

/-- Where a START is needed and AUTO does not ask, the generator's own is used. -/
theorem not_mem_startsLeft {c : Cluster} (ha : (c.ag g).auto = false) (hsw : c.swTile (agEl g) = true) : agEl g ∉ startsLeft c g := by
  simp [startsLeft, ha, hsw]

/-! ### What the start changes is nothing that its checks read -/

@[simp] theorem emits_bareStart : emits (bareStart s cl g) cl g = emits s cl g := by
  unfold emits onDiff genTensor State.taskOf
  rw [cluster_bareStart]
  rfl

@[simp] theorem genFault_bareStart : genFault (bareStart s cl g) cl g = genFault s cl g := by
  have hj : agJoined (bareStart s cl g) cl g = agJoined s cl g := by
    unfold agJoined
    rw [emits_bareStart, cluster_bareStart]
    exact congrArg (fun b => if emits s cl g then !b else ((s.cluster cl).chan (agPort g)).isSome)
      (outsOf_isEmpty_modCluster s.fresh.2 cl cl (agPort g) rfl)
  unfold genFault State.taskOf
  dsimp only
  rw [hj, cluster_bareStart]
  rfl

/-! ### A phase without a command (R249) -/

variable (p : Phase)

theorem barePhase_allowed (h : genFault s cl g = false) : barePhase s cl g p = setPhase s cl g p := by simp [barePhase, h]

/-- A reading generator whose configuration forbids the phase is to send an abort token. -/
theorem barePhase_reading (h : genFault s cl g = true) (he : emits s cl g = true) :
    barePhase s cl g p = setPhase s cl g { p with full := true, status := Cause.strArg } := by simp [barePhase, h, he]

/-- A writing one finds the abort token before all that its channel brings. -/
theorem barePhase_writing (h : genFault s cl g = true) (he : emits s cl g = false) {ch : Chan}
    (hc : (s.cluster cl).chan (agPort g) = some ch) :
    barePhase s cl g p = setPhase ((discardPhase s cl (agPort g)).modChan cl (agPort g) (Chan.cutWith Cause.strArg)) cl g
      { p with discard := true, status := Cause.strArg } := by simp [barePhase, h, he, hc]

theorem barePhase_alone (h : genFault s cl g = true) (he : emits s cl g = false) (hc : (s.cluster cl).chan (agPort g) = none) :
    barePhase s cl g p = finishPhase s cl g p Cause.strArg := by simp [barePhase, h, he, hc]

/-! ### What a phase without a command leaves -/

/-- A phase without a command has no ragged length, so nothing ends it at its start. -/
theorem newPhase_bare (s : State) (cl g id : Nat) : (newPhase s cl g none id).full = false ∧ (newPhase s cl g none id).discard = false := by
  simp [newPhase]

/-- A bare phase has answered AUTO, however it goes on. -/
theorem auto_barePhase (s : State) (cl g : Nat) (p : Phase) :
    (((barePhase s cl g p).cluster cl).ag g).auto = ((s.cluster cl).ag g).auto := by
  unfold barePhase
  split
  · exact auto_setPhase ..
  · split
    · exact auto_setPhase ..
    · split
      · exact auto_finishPhase ..
      · rw [auto_setPhase]
        simp only [Cluster.ag, ags_modChan, ags_discardPhase]

/-- The channel of a writing generator whose phase is forbidden begins with the abort token. -/
theorem chan_barePhase_writing (p : Phase) (h : genFault s cl g = true) (he : emits s cl g = false) {ch : Chan}
    (hc : (s.cluster cl).chan (agPort g) = some ch) :
    ∃ x, ((barePhase s cl g p).cluster cl).chan (agPort g) = some x ∧ x.seen.head? = some (.abort Cause.strArg) := by
  obtain ⟨x, hx⟩ := chan_discardPhase hc
  refine ⟨_, ?_, Chan.cutWith_seen x _⟩
  rw [barePhase_writing p h he hc, Cluster.chan, chans_setPhase]
  exact chan_modChan _ hx

end Start

/-! ## AG_BEAT (R191, R249) -/

section Beat
variable {s : State} {cl g : Nat} {p : Phase}

/-- A generator that sends, and whose phase a fault has ended, sends its abort token. -/
theorem exec_agBeat_full (hp : ((s.cluster cl).ag g).phase = some p) (hq : ((s.cluster cl).ag g).req = none) (hb : p.buf = [])
    (hfull : p.full = true) (he : emits s cl g = true) (hfree : s.hasFree cl (agPort g) 1 = true) :
    exec (.agBeat cl g) s = .next (finishPhase (sendItem s cl (agPort g) (.abort p.status)) cl g p p.status) := by
  show execAgBeat cl g s = _
  simp [execAgBeat, hp, hq, he, agEmit, hfree, hb, hfull]

/-- A generator that sends sends the beat it holds. -/
theorem exec_agBeat_sends {b : Beat} {rest : List Beat} (hp : ((s.cluster cl).ag g).phase = some p)
    (hq : ((s.cluster cl).ag g).req = none) (he : emits s cl g = true) (hb : p.buf = b :: rest) (hr : p.records = false)
    (hfree : s.hasFree cl (agPort g) 1 = true) :
    exec (.agBeat cl g) s = .next (sendItem (stepBeat s cl g { p with buf := rest } (p.beats (portOrder s cl g))
      (entriesOf ((p.cmd.bind (s.cluster cl).run).map (·.cmd)))) cl (agPort g) (.data b)) := by
  show execAgBeat cl g s = _
  simp [execAgBeat, hp, hq, he, agEmit, hfree, hb, hr]

/-- A phase of a generator that takes from its channel ends at EOS, if a DONE has not ended it before. -/
theorem exec_agBeat_eos (hp : ((s.cluster cl).ag g).phase = some p) (hq : ((s.cluster cl).ag g).req = none) (he : emits s cl g = false)
    (hi : ((s.cluster cl).chan (agPort g)).bind (fun ch => ch.seen.head?) = some .eos) :
    ∃ t, exec (.agBeat cl g) s = .next (finishPhase t cl g p p.status) := by
  show ∃ t, execAgBeat cl g s = .next (finishPhase t cl g p p.status)
  by_cases hstop : (p.stop && p.t == 0 && p.limit == 0 && !p.discard) = true
  · exact ⟨s, by simp [execAgBeat, hp, hq, he, agTake, hstop]⟩
  · refine ⟨takeItems s cl (agPort g) 1, ?_⟩
    simp only [execAgBeat, hp, hq, he, agTake, if_neg hstop, hi]
    rfl

end Beat

/-! ## BANK_GRANT (R46, R163, R165) -/

section Grant
variable {s : State} {cl bank g : Nat} {p : Phase} {r : BankReq}

theorem exec_bankGrant_serves (hc : s.claimed cl bank = false)
    (hn : nextGrant (SMap.get (s.cluster cl).lastGrant 11 bank) ((s.cluster cl).asking bank) = some g)
    (hp : ((s.cluster cl).ag g).phase = some p) (hr : ((s.cluster cl).ag g).req = some r) :
    exec (.bankGrant cl bank) s = .next (grantAg s cl g p r ((p.cmd.bind (s.cluster cl).run).map (·.cmd))) := by
  show execBankGrant cl bank s = _
  simp [execBankGrant, hc, hn, hp, hr]

/-- The state in which a granted access is made: it no longer waits, and the banks that it leaves behind are released. -/
def accessGranted (s : State) (cl g : Nat) (r : BankReq) : State :=
  (granted s cl g r.bank).modCluster cl (fun c =>
    let c1 := releaseBelow s.now c g r.bank
    c1.setAg g { c1.ag g with req := none, curBank := some (Nat.max ((c1.ag g).curBank.getD 0) r.bank) })

@[simp] theorem req_accessGranted : (((accessGranted s cl g r).cluster cl).ag g).req = none := by simp [accessGranted]

theorem spad_take (c : Cluster) (unit : Nat) : (c.take unit).spad = c.spad := by
  unfold Cluster.take; split <;> rfl

@[simp] theorem spad_accessGranted : ((accessGranted s cl g r).cluster cl).spad = (s.cluster cl).spad := by
  simp only [accessGranted, granted, State.cluster_modCluster_same, Cluster.setAg_spad]
  rw [releaseBelow_keeps (p := Cluster.spad) (fun _ _ _ => rfl)]
  exact spad_take ..

theorem grantAg_read (x : Option Cmd) (h : r.data = none) : grantAg s cl g p r x = setPhase (accessGranted s cl g r) cl g
    { p with buf := [keepElems (portOrder s cl g) (Beat.ofBytes ((s.cluster cl).spad.readBytes 128 r.addr))], bytes := p.bytes + 128 } := by
  rw [← spad_accessGranted (g := g) (r := r)]
  simp only [grantAg, h]
  rfl

theorem grantAg_write (x : Option Cmd) {b : Beat} (h : r.data = some b) : ∃ limit, grantAg s cl g p r x =
    stepBeat (spadWrite (accessGranted s cl g r) cl r.addr b.toBytes) cl g { p with bytes := p.bytes + 128 } limit (entriesOf x) :=
  ⟨_, by simp only [grantAg, h]; rfl⟩

@[simp] theorem ag_spadWrite (s : State) (cl a g : Nat) (bs : List Byte) : ((spadWrite s cl a bs).cluster cl).ag g = (s.cluster cl).ag g :=
  congrArg (·.ag g) (State.cluster_modCluster_same s cl _)

@[simp] theorem spad_spadWrite (s : State) (cl a : Nat) (bs : List Byte) :
    ((spadWrite s cl a bs).cluster cl).spad = (s.cluster cl).spad.writeBytes a bs := by
  simp [spadWrite]

end Grant

/-! ## The obligation -/

/-- Settles O47: the checks of a phase read nothing that its start changes; what follows a phase, a beat or a grant, the release of
banks among it, leaves the generator's phase and access, the STARTs and the scratchpad alone. -/
theorem generatorEvents : Obligations.GeneratorEvents := by
  unfold Obligations.GeneratorEvents
  refine ⟨?start, fun s cl g p hp hq hb hfull he hfree => exec_agBeat_full hp hq hb hfull he hfree, ?beat, ?grant⟩
  case start =>
    intro s cl g h1 h2 h3 h4 h5 h6 h7
    have hmay : MayStart s cl g := ⟨h1, h2, h3, h4, h5, h6, h7⟩
    refine ⟨fun r ha hr => ?_, fun hb => ?_⟩
    · refine ⟨_, _, exec_agPhaseStart_command hmay ha hr, by rw [ag_modRun, phase_setPhase], rfl, rfl, rfl, rfl, fun hsw => ?_⟩
      rw [starts_modRun, starts_setPhase, cluster_commandStart]
      exact not_mem_startsLeft ha hsw
    · have hexec := exec_agPhaseStart_bare hmay hb
      have hauto := auto_barePhase (bareStart s cl g) cl g (newPhase (bareStart s cl g) cl g none s.nextId)
      rw [cluster_bareStart, ag_beginAg] at hauto
      refine ⟨fun hf => ?_, fun hf => ⟨_, hexec, hauto, fun he => ?_, fun ch he hc => ?_, fun he hc => ?_⟩⟩
      · obtain ⟨hfull, hdiscard⟩ := newPhase_bare (bareStart s cl g) cl g s.nextId
        refine ⟨_, _, hexec, ?_, rfl, rfl, rfl, hfull, hdiscard, hauto⟩
        rw [barePhase_allowed _ (genFault_bareStart.trans hf), phase_setPhase]
      · exact ⟨_, by rw [barePhase_reading _ (genFault_bareStart.trans hf) (emits_bareStart.trans he), phase_setPhase], rfl, rfl⟩
      · have hf' := genFault_bareStart.trans hf
        have he' := emits_bareStart.trans he
        have hc' : ((bareStart s cl g).cluster cl).chan (agPort g) = some ch := by rw [cluster_bareStart]; exact hc
        obtain ⟨x, hx, hseen⟩ := chan_barePhase_writing (newPhase (bareStart s cl g) cl g none s.nextId) hf' he' hc'
        exact ⟨_, x, by rw [barePhase_writing _ hf' he' hc', phase_setPhase], rfl, rfl, hx, hseen⟩
      · have hc' : ((bareStart s cl g).cluster cl).chan (agPort g) = none := by rw [cluster_bareStart]; exact hc
        rw [barePhase_alone _ (genFault_bareStart.trans hf) (emits_bareStart.trans he) hc']
        exact ⟨phase_finishPhase .., last_finishPhase ..⟩
  case beat =>
    intro s cl g p hp hq
    refine ⟨fun he hi => ?_, fun b rest he hb hr hfree => exec_agBeat_sends hp hq he hb hr hfree⟩
    obtain ⟨t, ht⟩ := exec_agBeat_eos hp hq he hi
    exact ⟨_, ht, phase_finishPhase ..⟩
  case grant =>
    intro s cl bank g p r hc hn hp hr
    have hexec := exec_bankGrant_serves hc hn hp hr
    refine ⟨fun hd => ?_, fun b hd => ?_⟩
    · rw [grantAg_read _ hd] at hexec
      exact ⟨_, _, hexec, phase_setPhase .., rfl, rfl, by simp, by simp⟩
    · obtain ⟨limit, hw⟩ := grantAg_write (s := s) (cl := cl) (g := g) (p := p) ((p.cmd.bind (s.cluster cl).run).map (·.cmd)) hd
      obtain ⟨q, hstep, hbytes⟩ := stepBeat_eq_setPhase (spadWrite (accessGranted s cl g r) cl r.addr b.toBytes) cl g
        { p with bytes := p.bytes + 128 } limit (entriesOf ((p.cmd.bind (s.cluster cl).run).map (·.cmd)))
      rw [hw, hstep] at hexec
      exact ⟨_, q, hexec, phase_setPhase .., hbytes, by simp, by simp⟩

end Sys2Proof.Machine
end
